-- ==== Sys2Proof/Word.lean ====
section
/-! DEFINITION. The octet and the 16-bit word, and the plain arithmetic of counters: clamping (00_scope 1.4.3),
saturation, and counters that wrap. -/

namespace Sys2Proof

/-- One octet of a frame, a page or a body. -/
abbrev Byte := BitVec 8

/-- A CRC or a block's check word. -/
abbrev Word16 := BitVec 16

/-- A line number LC0 to LC3. -/
abbrev LineNo := Fin 4

/-- A numeric setting outside its range takes the nearest end (1.4.3). -/
def clamp (lo hi x : Nat) : Nat := max lo (min hi x)

/-- A counter that stays at its cap. -/
def satAdd (cap x n : Nat) : Nat := min cap (x + n)

/-- A counter of `m` values that wraps to 0. -/
def wrapSucc (m x : Nat) : Nat := (x + 1) % m

/-- `a` comes before `b` in a counter of 65536 values (R55, R127): the distance from `a` to `b` is 1 to 32767. -/
def seqBefore (a b : Nat) : Bool :=
  let d := (b + 65536 - a % 65536) % 65536
  1 ≤ d && d ≤ 32767

end Sys2Proof
end

