-- ==== Sys2Proof/Syntax.lean ====
section
/-! DEFINITION. The commands and events of the part, one constructor per row of spec/opcode_table.json, and the
names their operands use. A host command carries its frame's tag and body octets (R207, R216): its kind is the row's.
A line event carries its line and what the modem reports. -/

namespace Sys2Proof

/-- Resolution classes (1.4.4), in the manual's order. -/
inductive ResClass where
  | coarse | fine | extra
  deriving DecidableEq, Repr

/-- Line rates, highest first (1.4.4). -/
inductive LineRate where
  | r14400 | r12000 | r9600 | r7200 | r4800 | r2400
  deriving DecidableEq, Repr

/-- Bit orders of page frames (5.1). -/
inductive BitOrder where
  | msbFirst | lsbFirst
  deriving DecidableEq, Repr

/-- One row of the table of operations and events. -/
inductive Instr where
  -- supplies, reset, crystal and time
  | powerOn (paperAbsent jamReported : Bool)
  | resetLine
  | backupSupplyFail
  | crystalStopUnpowered
  | tenthCounted
  | crystalGapExpiry
  | crystalReturn
  | mainSuppliesOff
  | crystalStartsAgain
  | deadlineReached (slot : Nat)
  | retryEligible (record : Nat)
  -- the host link below the commands
  | hostOctetReceived (octet : Byte) (stopBit : Bool)
  | frameGapExpiry
  | hostReadyChange (asserted : Bool)
  | frameTransmitStart
  | replySent
  | noticeSent
  | unknownKindCommand (kind tag : Byte) (body : List Byte)
  -- general commands
  | identify (tag : Byte) (body : List Byte)
  | linkRate (tag : Byte) (body : List Byte)
  | noticeMask (tag : Byte) (body : List Byte)
  | configSet (tag : Byte) (body : List Byte)
  | configGet (tag : Byte) (body : List Byte)
  | resetLines (tag : Byte) (body : List Byte)
  | resetEngine (tag : Byte) (body : List Byte)
  -- page commands
  | pageOpenWrite (tag : Byte) (body : List Byte)
  | pageWriteData (tag : Byte) (body : List Byte)
  | pageClose (tag : Byte) (body : List Byte)
  | pageRead (tag : Byte) (body : List Byte)
  | pageInfo (tag : Byte) (body : List Byte)
  | pagePin (tag : Byte) (body : List Byte)
  | pageUnpin (tag : Byte) (body : List Byte)
  | pageDrop (tag : Byte) (body : List Byte)
  -- scan commands; SCAN-START and SCAN-STATUS read the paper-present sensor
  | scanSet (tag : Byte) (body : List Byte)
  | scanStart (tag : Byte) (body : List Byte) (paper : Bool)
  | scanStop (tag : Byte) (body : List Byte)
  | scanStatus (tag : Byte) (body : List Byte) (paper : Bool)
  -- document commands
  | docCreate (tag : Byte) (body : List Byte)
  | docAddPages (tag : Byte) (body : List Byte)
  | docAddDests (tag : Byte) (body : List Byte)
  | docSubmit (tag : Byte) (body : List Byte)
  | docCancel (tag : Byte) (body : List Byte)
  | docStatus (tag : Byte) (body : List Byte)
  | docDestStatus (tag : Byte) (body : List Byte)
  | docDelete (tag : Byte) (body : List Byte)
  -- line commands
  | lineConfig (tag : Byte) (body : List Byte)
  | lineStatus (tag : Byte) (body : List Byte)
  | lineHold (tag : Byte) (body : List Byte)
  | lineRelease (tag : Byte) (body : List Byte)
  | macroSet (tag : Byte) (body : List Byte)
  | macroGet (tag : Byte) (body : List Byte)
  -- inbound and print commands
  | inboundStatus (tag : Byte) (body : List Byte)
  | inboundStatusSummary (tag : Byte) (body : List Byte)
  | inboundDelete (tag : Byte) (body : List Byte)
  | urgentSet (tag : Byte) (body : List Byte)
  | printDoc (tag : Byte) (body : List Byte)
  | printPage (tag : Byte) (body : List Byte)
  | printCancelEntry (tag : Byte) (body : List Byte)
  | printCancelDoc (tag : Byte) (body : List Byte)
  | printPause (tag : Byte) (body : List Byte)
  | printResume (tag : Byte) (body : List Byte)
  | printStatus (tag : Byte) (body : List Byte)
  -- charging commands
  | prefixSetSet (tag : Byte) (body : List Byte)
  | prefixSetRemove (tag : Byte) (body : List Byte)
  | prefixSetRead (tag : Byte) (body : List Byte)
  | prefixSetTest (tag : Byte) (body : List Byte)
  | zoneSet (tag : Byte) (body : List Byte)
  | zoneSetRead (tag : Byte) (body : List Byte)
  | bandSet (tag : Byte) (body : List Byte)
  | bandSetRead (tag : Byte) (body : List Byte)
  | weekdaySet (tag : Byte) (body : List Byte)
  | weekdaySetRead (tag : Byte) (body : List Byte)
  | holidaySet (tag : Byte) (body : List Byte)
  | holidaySetRead (tag : Byte) (body : List Byte)
  | rateSet (tag : Byte) (body : List Byte)
  | rateSetRead (tag : Byte) (body : List Byte)
  | priceSet (tag : Byte) (body : List Byte)
  | priceSetRead (tag : Byte) (body : List Byte)
  | deskSet (tag : Byte) (body : List Byte)
  | deskRead (tag : Byte) (body : List Byte)
  | deskClear (tag : Byte) (body : List Byte)
  | logRead (tag : Byte) (body : List Byte)
  | logDiscard (tag : Byte) (body : List Byte)
  -- clock commands
  | clockSet (tag : Byte) (body : List Byte)
  | clockRead (tag : Byte) (body : List Byte)
  -- the store port
  | storePortGrant
  | blockWriteCommit (paper : Bool)
  | blockReadComplete (disturbed : List (Nat × Byte))
  -- the scanner
  | feederStep (samples : List Byte) (paper : Bool)
  | sheetEndSensor
  | scanHoldTimeout
  | ejectionComplete (paper : Bool)
  -- dispatch and call set-up
  | dispatcherPass
  | dialExpansion (l : LineNo)
  | zoneLookup (l : LineNo)
  | dialSymbolEnd (l : LineNo)
  | dialToneReport (l : LineNo)
  | dialToneTimeout (l : LineNo)
  | busyTone (l : LineNo)
  | answerIndication (l : LineNo)
  | answerTimeout (l : LineNo)
  | ring (l : LineNo)
  | ringBurstEnd (l : LineNo)
  | answerToneEnd (l : LineNo)
  | restEnd (l : LineNo)
  -- the line procedure
  | remoteAnswerToneEnd (l : LineNo)
  | turnaroundExpiry (l : LineNo)
  | frameSent (l : LineNo)
  | transmissionSent (l : LineNo)
  | quitSent (l : LineNo)
  | answerWaitExpiry (l : LineNo)
  | invalidTransmission (l : LineNo)
  | offerReceived (l : LineNo) (identity : List Byte) (rates orders : Byte) (chop : Bool) (cls : ResClass)
  | chooseReceived (l : LineNo) (identity : List Byte) (rate : LineRate) (order : BitOrder) (chop : Bool) (classes : Byte)
  | trainingBurstReceived (l : LineNo) (rate : LineRate) (goodQuality : Bool)
  | trainGoodReceived (l : LineNo)
  | trainBadReceived (l : LineNo)
  | lineFrameReceived (l : LineNo) (octets : List Byte)
  | blockEndReceived (l : LineNo) (sequence block round count : Nat) (final : Option Nat)
  | resendReceived (l : LineNo) (marks : List Byte)
  | pageEndReceived (l : LineNo) (sequence lineCount : Nat) (next : Option ResClass)
  | pageGoodReceived (l : LineNo)
  | pageFailedReceived (l : LineNo)
  | quitReceived (l : LineNo)
  | remoteCarrierBegin (l : LineNo) (trainingBurst : Bool)
  | carrierAbsent (l : LineNo)
  | carrierReturn (l : LineNo)
  | carrierLossExpiry (l : LineNo)
  | meteringPulse (l : LineNo)
  -- the print engine
  | printEntryBegin
  | headLineStruck
  | cutFeedDone
  | paperOut
  | paperRestored
  | jam
  | jamSensorClear
  deriving DecidableEq, Repr

end Sys2Proof
end

