-- ==== Sys2Proof/Config.lean ====
section
/-! DEFINITION. What the spec leaves to the implementation or leaves open: constants without a body, so that no proof
can lean on a value. -/

namespace Sys2Proof.Config

/-- The check word that the page store computes from the 256 octets of a store block (R7, R11). The spec names no
generator for it: a free function (log 8). -/
opaque checkWord : List Byte → Word16

/-- The tenths since 2000-01-01 that stand for a time past 2099-12-31 23:59:59.9, which the date and time field
cannot hold (R61, R191; log 11). The value is reduced to the field's range. -/
opaque timePastEnd : Nat → Nat

/-- Item `k` of the backup domain after the `n`-th loss of its contents, until the next power-on takes the values of
R200 (log 12). Each item is reduced to its range. -/
opaque lostItem : (n k : Nat) → Nat

/-- The `n`-th reading of the scan unit's paper-present sensor made within a STORE_PORT_GRANT, which carries no reading of
its own (R38; log 19). -/
opaque paperAtGrant : (n : Nat) → Bool

end Sys2Proof.Config
end

