-- ==== Sys2Proof/Machine/Table.lean ====
section
/-! DEFINITION. A table of numbered entries that all start alike: the value of every entry not listed, and the listed
entries in ascending number. Reading and writing are total, so no length has to be carried about. -/

namespace Sys2Proof.Machine

structure Table (α : Type) where
  rest  : α
  cells : List (Nat × α)
  deriving DecidableEq, Repr

/-- The entry `k` of a list of numbered entries, `d` where it is not listed. -/
def cellGet {α : Type} (d : α) : List (Nat × α) → Nat → α
  | [], _ => d
  | (j, w) :: r, k => if j = k then w else cellGet d r k

/-- Entry `k` becomes `v`; the listed numbers stay ascending. -/
def cellSet {α : Type} : List (Nat × α) → Nat → α → List (Nat × α)
  | [], k, v => [(k, v)]
  | (j, w) :: r, k, v =>
    if k < j then (k, v) :: (j, w) :: r
    else if j = k then (k, v) :: r
    else (j, w) :: cellSet r k v

/-- A table whose every entry is `v`. -/
def Table.all {α : Type} (v : α) : Table α := ⟨v, []⟩

def Table.get {α : Type} (t : Table α) (k : Nat) : α := cellGet t.rest t.cells k

def Table.set {α : Type} (t : Table α) (k : Nat) (v : α) : Table α := { t with cells := cellSet t.cells k v }

def Table.modify {α : Type} (t : Table α) (k : Nat) (f : α → α) : Table α := t.set k (f (t.get k))

/-- Every entry, listed or not, goes through `f`. -/
def Table.map {α : Type} (f : α → α) (t : Table α) : Table α := ⟨f t.rest, t.cells.map fun c => (c.1, f c.2)⟩

/-- The numbers of the listed entries that satisfy `p`, ascending. -/
def Table.which {α : Type} (t : Table α) (p : α → Bool) : List Nat :=
  (t.cells.filter fun c => p c.2).map (·.1)

/-- How many listed entries satisfy `p` (for properties that an entry never written does not have). -/
def Table.count {α : Type} (t : Table α) (p : α → Bool) : Nat := (t.cells.filter fun c => p c.2).length

/-- The first number from `k` on, out of `fuel` tries, whose entry satisfies `p`. -/
def Table.searchFrom {α : Type} (t : Table α) (p : α → Bool) : (fuel k : Nat) → Option Nat
  | 0, _ => none
  | fuel + 1, k => if p (t.get k) then some k else t.searchFrom p fuel (k + 1)

/-- The lowest number below `n` whose entry satisfies `p`. -/
def Table.lowest {α : Type} (t : Table α) (n : Nat) (p : α → Bool) : Option Nat := t.searchFrom p n 0

/-- The entries 0 to n - 1 in order. -/
def Table.toList {α : Type} (t : Table α) (n : Nat) : List α := (List.range n).map t.get

end Sys2Proof.Machine
end

