-- ==== Sys2Proof/Machine/State.lean ====
section
/-! DEFINITION. The state of the part as plain data: every register, table, buffer, queue, counter, mode and pin that
the spec names, the queue of waiting commands, and the state right after reset. -/

namespace Sys2Proof.Machine

/-! ### Names used by several blocks -/

/-- Status codes of replies (1.4.3). -/
inductive Status where
  | ok | badLength | badField | unknownKind | noSuchPage | noSuchDoc | noSuchEntry | wrongState | tableFull
  | storeFull | busy | noPaper
  deriving DecidableEq, Repr

/-- A date and a time of day to the tenth (1.4.2). -/
structure DateTime where
  year   : Nat
  month  : Nat
  day    : Nat
  hour   : Nat
  minute : Nat
  second : Nat
  tenth  : Nat
  deriving DecidableEq, Repr

/-- A calendar date. -/
structure Date where
  year  : Nat
  month : Nat
  day   : Nat
  deriving DecidableEq, Repr

/-- Page handle: slot 0-1023, issue 0-63 (1.4.6). -/
structure PageHandle where
  slot  : Nat
  issue : Nat
  deriving DecidableEq, Repr

/-- Outbound document handle: slot 0-63, issue 0-255 (1.4.6). -/
structure DocHandle where
  slot  : Nat
  issue : Nat
  deriving DecidableEq, Repr

/-- Inbound document handle: slot 0-31, issue 0-255 (1.4.6). -/
structure InHandle where
  slot  : Nat
  issue : Nat
  deriving DecidableEq, Repr

/-- Subcauses of REMOTE_REFUSED (11.7.2). -/
inductive RefusedSub where
  | cls | pageFailed | quit
  deriving DecidableEq, Repr

/-- Subcauses of DIAL_ERROR (R78). -/
inductive DialSub where
  | depth | unknownMacro | length
  deriving DecidableEq, Repr

/-- Subcauses of STORE_FULL (R109). -/
inductive StoreSub where
  | segments | directory | pages
  deriving DecidableEq, Repr

/-- Causes of calls and attempts, with their subcauses (11.7.2). -/
inductive Cause where
  | normal | busy | noAnswer | noDialTone | lineDrop | lineQuality
  | remoteRefused (sub : RefusedSub)
  | remoteQuit | timeout | barred
  | dialError (sub : DialSub)
  | storeFull (sub : StoreSub)
  | cancelled | reset | glare
  deriving DecidableEq, Repr

/-- The seven clients of the store port (1.2.1). -/
inductive Client where
  | lc (l : LineNo) | scan | print | hostXfer
  deriving DecidableEq, Repr

/-- Where a page came from (The page directory). -/
inductive Origin where
  | scan | line (l : LineNo) | host
  deriving DecidableEq, Repr

/-- Dial symbols (R73). -/
inductive DialSym where
  | digit (d : Nat) | star | hash | pause | wait | chargePoint | macroCall (n : Nat)
  deriving DecidableEq, Repr

/-! ### Host link (chapter 11) -/

/-- Link rates (R202). -/
inductive HostRate where
  | b115200 | b230400 | b460800 | b921600
  deriving DecidableEq, Repr

/-- Notice kinds (11.7.2). -/
inductive NoticeKind where
  | pageClosed | destDone | lineState | inboundStart | inboundEnd | printDone | docDone
  | scanHeld | ringRefused | deskLimit | logNearFull | storeLow
  | scanAborted | storeDamage | printerFault | timeSuspect | linkCheck | linkOverrun
  deriving DecidableEq, Repr

/-- A host frame without its start, length and check octets (R216). -/
structure Frame where
  kind : Byte
  tag  : Byte
  body : List Byte
  deriving DecidableEq, Repr

/-- A queued reply; `newRate` is the rate that a LINK-RATE reply brings in when it has been sent (R202). -/
structure Reply where
  frame   : Frame
  newRate : Option HostRate
  deriving DecidableEq, Repr

/-- A queued notice (R209); `fields` are the octets of the fields its raising rule gives. -/
structure Notice where
  kind    : NoticeKind
  time    : DateTime
  suspect : Bool
  fields  : List Byte
  deriving DecidableEq, Repr

/-- The host link's transmitter (R208, R210). -/
inductive Transmitter where
  | free
  | sendingReply (octets : List Byte)
  | sendingNotice (octets : List Byte)
  deriving DecidableEq, Repr

/-- A command taken whose reply waits on store transfers (R207): PAGE-WRITE-DATA with the octets not yet in a block,
how many of them were pending before the command and how many octets are accepted (R20); PAGE-CLOSE (R21); PAGE-READ
with its range, the next block, the octets read and the damaged indication (R22). -/
inductive HostJob where
  | writeData (tag : Byte) (page : PageHandle) (left : List Byte) (fromPending accepted : Nat)
  | closePage (tag : Byte) (page : PageHandle)
  | readPage (tag : Byte) (page : PageHandle) (offset count next : Nat) (got : List Byte) (damaged : Bool)
  deriving DecidableEq, Repr

/-- The host link (R202 to R211). `candidate` holds the octets of a candidate frame, its start octet first; it is
empty while the receiver is HUNTING (R204). `taken` counts the held frames whose command has been taken (R207). -/
structure Link where
  rate      : HostRate
  mask      : Nat
  candidate : List Byte
  held      : List Frame
  taken     : Nat
  job       : Option HostJob
  replies   : List Reply
  tx        : Transmitter
  notices   : List Notice
  lost      : Nat
  hostReady : Bool
  deriving DecidableEq, Repr

/-- The seven configuration items (R213). -/
structure ConfigItems where
  identity         : List Byte
  receptionReserve : Nat
  inboundReserve   : Nat
  autoPrint        : Bool
  autoDiscard      : Bool
  strikeLimit      : Nat
  tolerance        : Nat
  deriving DecidableEq, Repr

/-! ### Page store (chapter 1) -/

/-- The segment pool (R1): the ordered list of free segment numbers. It starts as 0 to 8191 ascending, loses its head
and grows at its tail, so it is always a rest `fresh`, `fresh + 1`, …, 8191 of the first filling followed by the
segments given back since, in the order given. -/
structure SegPool where
  fresh    : Nat
  returned : List Nat
  deriving DecidableEq, Repr

inductive PageState where
  | free | opened | closed
  deriving DecidableEq, Repr

/-- A page record (The page directory), and the pending buffer that a host upload keeps beside it (R20). -/
structure PageEntry where
  issue        : Nat
  state        : PageState
  origin       : Option Origin
  writer       : Option Client
  cls          : ResClass
  lineCount    : Nat
  byteLen      : Nat
  chain        : List Nat
  committed    : Nat
  refs         : Nat
  pins         : Nat
  truncated    : Bool
  damaged      : Bool
  clipped      : Bool
  damagedLines : Nat
  pending      : List Byte
  deriving DecidableEq, Repr

/-- The hold that a close request takes on the page (R9): `scanTarget` is the scan unit's, a reference when the job's
target document can take the page as the page closes, a pin otherwise (R38). -/
inductive Hold where
  | none | reference | pin | scanTarget
  deriving DecidableEq, Repr

/-- A close request whose final block is on its way (R9): its code count, and what the close applies. -/
structure CloseReq where
  code      : Nat
  lineCount : Nat
  truncated : Bool
  hold      : Hold
  deriving DecidableEq, Repr

/-- What a client asks of the store port (R7, R12). -/
inductive PortOp where
  | write (page : PageHandle) (data : List Byte) (close : Option CloseReq)
  | read (page : PageHandle) (block : Nat)
  deriving DecidableEq, Repr

structure Request where
  client : Client
  level  : Nat
  op     : PortOp
  deriving DecidableEq, Repr

/-- A transfer on the port (R7, R17): the store block it moves, counted through the whole memory, and, when the
client's job has ended or the page has gone, `void`: it completes, and its block is not committed or its data not used
(R3, R8). -/
structure Transfer where
  req  : Request
  addr : Nat
  void : Bool
  deriving DecidableEq, Repr

structure Store where
  pool      : SegPool
  dir       : Table PageEntry
  checks    : List (Nat × Word16)
  waiting   : List Request
  port      : Option Transfer
  winners   : Table (Option Client)
  lowArmed  : Bool
  deriving DecidableEq, Repr

/-! ### Scan unit (chapter 2) -/

inductive ScanMode where
  | text | halftone
  deriving DecidableEq, Repr

inductive Rounding where
  | floor | nearestEven
  deriving DecidableEq, Repr

structure ScanSettings where
  cls       : ResClass
  mode      : ScanMode
  offset    : Nat
  gain      : Nat
  rounding  : Rounding
  threshold : Nat
  target    : Option DocHandle
  deriving DecidableEq, Repr

inductive ScanState where
  | idle | scanning | held | ejecting
  deriving DecidableEq, Repr

inductive ScanEnd where
  | none | empty | stopped | storeFull | directoryFull | reset
  deriving DecidableEq, Repr

/-- How a page that has ended is closed when its last block write has committed (R38): by the trailing edge, by its
length (R27) or by the store's page limit (R42). -/
inductive PageEnding where
  | trailingEdge | length | pageLimit
  deriving DecidableEq, Repr

/-- A line of dots, black `true` (R30). -/
abbrev DotLine := List Bool

structure Scan where
  settings   : ScanSettings
  state      : ScanState
  target     : Option DocHandle
  page       : Option PageHandle
  coded      : Nat
  committed  : Nat
  repeats    : Nat
  pagesClosed : Nat
  holdTime   : Nat
  nextSheet  : Bool
  endCause   : ScanEnd
  samples    : List Byte
  previous   : Option DotLine
  filling    : List Byte
  full       : Option (List Byte)
  backlog    : List Byte
  lineWaits  : Bool
  codeLen    : Nat
  marks      : List (Nat × Nat)
  step       : Nat
  endStep    : Option Nat
  ending     : Option PageEnding
  paper      : Bool
  deriving DecidableEq, Repr

/-! ### Documents and dispatch (chapter 3) -/

inductive DocState where
  | free | draft | queued | active | done | cancelled
  deriving DecidableEq, Repr

structure Doc where
  issue         : Nat
  state         : DocState
  desk          : Nat
  priority      : Nat
  deadline      : Option DateTime
  retryLimit    : Nat
  retryInterval : Nat
  releasePages  : Bool
  cancelReq     : Bool
  pagesHeld     : Bool
  sequence      : Nat
  pages         : List PageHandle
  dests         : List Nat
  sent          : Nat
  failed        : Nat
  expired       : Nat
  cancelled     : Nat
  deriving DecidableEq, Repr

inductive DestState where
  | waiting | onLine | retryWait | sent | failed | expired | cancelled
  deriving DecidableEq, Repr

structure Dest where
  dial      : List DialSym
  state     : DestState
  attempts  : Nat
  confirmed : Nat
  eligible  : DateTime
  lastCause : Option Cause
  lastLine  : Option LineNo
  lastLog   : Option Nat
  deriving DecidableEq, Repr

/-- The document table, the destination pool (a record is free where its entry is none), the submission counter, and
whether a dispatcher pass has been asked for (R53; the model's form of it, log 24). -/
structure DocTable where
  docs      : Table Doc
  pool      : Table (Option Dest)
  counter   : Nat
  passAsked : Bool
  deriving DecidableEq, Repr

/-! ### Lines (chapters 4 and 5) -/

inductive Direction where
  | inOnly | outOnly | both
  deriving DecidableEq, Repr

structure LineConfig where
  direction     : Direction
  metered       : Bool
  restTime      : Nat
  ringsToAnswer : Nat
  answerTimeout : Nat
  deriving DecidableEq, Repr

inductive CallState where
  | idle | seized | dialling | alerting | answering | negotiating | training | sending | receiving | postPage
  | releasing | rest | outOfService
  deriving DecidableEq, Repr

/-- An attempt handed to a line (R57). `expanded` says that its dial string has been expanded and its lookup is due
(R79). -/
structure Attempt where
  doc       : DocHandle
  index     : Nat
  dial      : List DialSym
  desk      : Nat
  priority  : Nat
  firstPage : Nat
  expanded  : Bool
  deriving DecidableEq, Repr

/-- A dial expander (R76, R77): the stack's entries are macro number and position, innermost first. -/
structure Expander where
  buffer : List DialSym
  charge : Nat
  stack  : List (Nat × Nat)
  deriving DecidableEq, Repr

/-- The flags of a call or log record (R182). -/
structure LogFlags where
  timeSuspect : Bool
  clockStep   : Bool
  long        : Bool
  mismatch    : Bool
  unitsSat    : Bool
  deriving DecidableEq, Repr

/-- What a call record holds for an OUT call only (R83). -/
structure OutCall where
  doc      : DocHandle
  index    : Nat
  desk     : Nat
  priority : Nat
  deriving DecidableEq, Repr

/-- A call record (R83, R94): `out` is present for an OUT call, `inbound` names the document of an IN call (R121). -/
structure CallRec where
  out      : Option OutCall
  inbound  : Option InHandle
  charged  : List Nat
  zone     : Option Nat
  reserved : Bool
  start    : DateTime
  connect  : Option DateTime
  release  : Option DateTime
  cause    : Option Cause
  pages    : Nat
  flags    : LogFlags
  deriving DecidableEq, Repr

inductive Role where
  | sender | receiver
  deriving DecidableEq, Repr

inductive Detector where
  | disarmed | armed | counting
  deriving DecidableEq, Repr

/-- The call parameters (5.1, R94). -/
structure CallParams where
  role         : Option Role
  remoteId     : Option (List Byte)
  rateChosen   : Option LineRate
  rate         : Option LineRate
  stepDowns    : Nat
  order        : Option BitOrder
  chop         : Bool
  classes      : Option Byte
  trained      : Bool
  pageSeq      : Nat
  pagePos      : Nat
  block        : Nat
  round        : Nat
  repeats      : Nat
  framesResent : Nat
  detector     : Detector
  deriving DecidableEq, Repr

/-- The messages of the line procedure (R95, 11.7.5). A BLOCK_END carries its final octets when final is yes; a
PAGE_END carries the next page's class after MORE. -/
inductive Msg where
  | offer (identity : List Byte) (rates orders : Byte) (chop : Bool) (cls : ResClass)
  | choose (identity : List Byte) (rate : LineRate) (order : BitOrder) (chop : Bool) (classes : Byte)
  | trainGood | trainBad
  | blockEnd (sequence block round count : Nat) (final : Option Nat)
  | resend (marks : List Byte)
  | pageEnd (sequence lineCount : Nat) (next : Option ResClass)
  | pageGood | pageFailed | quit
  deriving DecidableEq, Repr

/-- What a channel sends in one transmission: a message, a training burst at a rate, or the frames of a pass or round
that a BLOCK_END will close (R105). -/
inductive Sending where
  | msg (m : Msg)
  | burst (r : LineRate)
  | frames
  deriving DecidableEq, Repr

/-- A channel's own transmitter (R96): quiet, holding a transmission ready for the turnaround, or sending it. -/
inductive LineTx where
  | quiet
  | ready (what : Sending)
  | sending (what : Sending)
  deriving DecidableEq, Repr

/-- The last transmission that the channel acted on, kept to know a repeat of it (R97). -/
inductive Heard where
  | msg (m : Msg)
  | burst (r : LineRate)
  deriving DecidableEq, Repr

/-- The working state of the line procedure on one line. `octets` are those of the transmission being sent (a message
with its CRC, or the frame on the line, in line order). `andThen` is sent at once after the present message (R109).
`awaitQuit` is the cause the side goes on hook with at QUIT or at its first expiry (R102, R107, R111, R112).
`afterGood` says what follows the PAGE_GOOD not yet sent: RELEASING, or the class of the next page (R110).
`storing` says that an answer waits on block writes (R108, R110), or, formed and kept in `heldAnswer`, on the end of a
transmission of the remote still in progress (R96; log 62). -/
structure Procedure where
  tx         : LineTx
  octets     : List Byte
  andThen    : Option Msg
  lastOut    : Option Sending
  lastIn     : Option Heard
  timer      : Bool
  incoming   : Bool
  waits      : Nat
  badOffers  : Nat
  offerSeen  : Bool
  awaitQuit  : Option Cause
  badRates   : List LineRate
  afterGood  : Option (Option ResClass)
  goodLast   : Bool
  storing    : Bool
  heldAnswer : Option Sending
  deriving DecidableEq, Repr

/-- A transmit block buffer in use (R118): the line block it holds (page position, line block of that page), the
number of store blocks it takes and those read so far, in order. -/
structure TxBuffer where
  pos   : Nat
  block : Nat
  want  : Nat
  got   : List (List Byte)
  deriving DecidableEq, Repr

/-- The sending side of a channel (R105, R106, R118): the two buffers, the line block in transfer counted through its
page, the frames of the pass or round still to send (frame number, part when chopped), whether fill is being sent,
and the next line block to fetch, none past the attempt's last page. -/
structure SendSide where
  buf0    : Option TxBuffer
  buf1    : Option TxBuffer
  block   : Nat
  queue   : List (Nat × Option Nat)
  filling : Bool
  fetch   : Option (Nat × Nat)
  deriving DecidableEq, Repr

/-- The receiving side (R107, R108, R110): the parts held in the receive block buffer (frame, part, 64 octets), the
last round answered for the block, the frames still to be written, the code octets kept aside as the short final
block, whether the page's last line block has been accepted, and the class of the page in reception. -/
structure ReceiveSide where
  parts     : List (Nat × Nat × List Byte)
  answered  : Option Nat
  toWrite   : List (List Byte)
  short     : List Byte
  finalDone : Bool
  cls       : ResClass
  deriving DecidableEq, Repr

inductive ZoneRounding where
  | up | nearestEven
  deriving DecidableEq, Repr

/-- Setup units and period of one band of a zone (R158). -/
structure Rate where
  setup  : Nat
  period : Nat
  deriving DecidableEq, Repr

/-- A line's charging state (8.5). -/
structure ChargeState where
  captured  : Bool
  zone      : Nat
  rates     : List Rate
  rounding  : ZoneRounding
  minimum   : Nat
  price     : Nat
  metered   : Bool
  pulses    : Nat
  saturated : Bool
  deriving DecidableEq, Repr

structure Line where
  config      : LineConfig
  state       : CallState
  attempt     : Option Attempt
  expander    : Expander
  charged     : List Nat
  playPos     : Nat
  dialTone    : Bool
  ringCount   : Nat
  burst       : Bool
  refused     : Bool
  deferred    : Bool
  call        : Option CallRec
  fillCount   : Nat
  lastCause   : Option Cause
  params      : CallParams
  proc        : Procedure
  send        : SendSide
  recv        : ReceiveSide
  charging    : ChargeState
  deriving DecidableEq, Repr

structure Lines where
  lc0 : Line
  lc1 : Line
  lc2 : Line
  lc3 : Line
  deriving DecidableEq, Repr

/-! ### Reception and print queue (chapter 6) -/

inductive InState where
  | free | receiving | complete | part | failed
  deriving DecidableEq, Repr

inductive PrintState where
  | notQueued | queueWait | queued | printing | printed | held
  deriving DecidableEq, Repr

structure InDoc where
  issue      : Nat
  state      : InState
  line       : Nat
  sender     : Option (List Byte)
  urgent     : Bool
  answer     : DateTime
  connect    : Option DateTime
  release    : Option DateTime
  cause      : Option Cause
  lastSent   : Bool
  pages      : List PageHandle
  inPage     : Option PageHandle
  printState : PrintState
  firstClose : Option Nat
  deriving DecidableEq, Repr

/-- What a print queue entry prints (R127): an inbound document or a page. -/
inductive PrintJob where
  | document (doc : InHandle)
  | page (page : PageHandle)
  deriving DecidableEq, Repr

structure QueueEntry where
  number : Nat
  job    : PrintJob
  urgent : Bool
  begun  : Bool
  deriving DecidableEq, Repr

/-- Reception (R120 to R126) and the print queue with its wait list, slots in wait order (R127). -/
structure Reception where
  docs         : Table InDoc
  urgentTable  : Table (Option (List Byte))
  closeCounter : Nat
  queue        : List QueueEntry
  entryCounter : Nat
  waitList     : List InHandle
  deriving DecidableEq, Repr

/-! ### Print engine (chapter 7) -/

/-- The page decoder (R140, R141): blocks asked for and delivered, octets delivered and not yet decoded, octets
decoded, the line begun with its next colour, the previous line, lines decoded, a line owed to the ring with how many
times and whether each counts as damaged, and whether the page's decode has ended. -/
structure Decoder where
  asked     : Nat
  delivered : Nat
  stream    : List Byte
  decoded   : Nat
  line      : Option (DotLine × Bool)
  previous  : Option DotLine
  lines     : Nat
  owed      : Option (DotLine × Nat × Bool)
  ended     : Bool
  deriving DecidableEq, Repr

structure Engine where
  entry       : Option Nat
  index       : Nat
  page        : Option PageHandle
  cls         : ResClass
  printed     : Nat
  struck      : Nat
  damaged     : Nat
  ring        : List DotLine
  readSlot    : Nat
  writeSlot   : Nat
  halfStruck  : Bool
  decoder     : Decoder
  uncut       : Bool
  cutFeed     : Bool
  paperOut    : Bool
  jamSensor   : Bool
  jamLatched  : Bool
  hostPause   : Bool
  reprints    : Nat
  reprintDue  : Bool
  lastStrikes : List Nat
  pageStrikes : Nat
  deriving DecidableEq, Repr

/-! ### Charging, desks, log (chapters 8 and 9) -/

inductive DayType where
  | workday | saturday | restDay
  deriving DecidableEq, Repr

structure PrefixEntry where
  digits : List Nat
  zone   : Option Nat
  deriving DecidableEq, Repr

/-- A zone's rounding mode, minimum units and the rates of its eight bands (R157, R158). -/
structure ZoneRow where
  rounding : ZoneRounding
  minimum  : Nat
  rates    : List Rate
  deriving DecidableEq, Repr

/-- The charging tables (8.1). A zone is a number 0-15, none for BARRED; a band start is (minute, band). -/
structure Charging where
  prefixes    : List PrefixEntry
  defaultZone : Option Nat
  zones       : Table ZoneRow
  workday     : List (Nat × Nat)
  saturday    : List (Nat × Nat)
  restDay     : List (Nat × Nat)
  weekdays    : List DayType
  holidays    : Table (Option Date)
  price       : Nat
  deriving DecidableEq, Repr

structure Desk where
  cost      : Nat
  units     : Nat
  calls     : Nat
  limit     : Option Nat
  reached   : Bool
  saturated : Bool
  deriving DecidableEq, Repr

/-- A log record (R182). `out` is present for an OUT record and carries the desk, document and destination index. -/
structure LogRecord where
  sequence : Nat
  line     : LineNo
  out      : Option OutCall
  charged  : List Nat
  zone     : Option Nat
  start    : DateTime
  connect  : Option DateTime
  release  : DateTime
  duration : Nat
  computed : Nat
  metered  : Option Nat
  units    : Nat
  cost     : Nat
  cause    : Cause
  pages    : Nat
  flags    : LogFlags
  deriving DecidableEq, Repr

structure CallLog where
  records  : List LogRecord
  reserved : Nat
  sequence : Nat
  armed    : Bool
  deriving DecidableEq, Repr

/-! ### Timekeeper (chapter 10) -/

inductive TimeSource where
  | crystal | fallback
  deriving DecidableEq, Repr

/-- The timekeeper's items (10.1), and whether the backup domain's contents have been lost since the last power-on
(R200) and the crystal runs (R192). -/
structure Timekeeper where
  time       : DateTime
  valid      : Bool
  suspect    : Bool
  source     : TimeSource
  stops      : Nat
  stallMark  : Bool
  lastSet    : Option DateTime
  lastStep   : Option Int
  lost       : Bool
  crystalRuns : Bool
  deriving DecidableEq, Repr

/-! ### The whole -/

/-- The state of the part. `pending` is the queue of waiting commands, first in first out; `mem` is the page memory,
(address, octet) pairs in the canonical form of Machine/Memory.lean; `draws` counts the draws of free values
(log 11, log 12). -/
structure State where
  pending : List Instr
  power   : Bool
  tk      : Timekeeper
  link    : Link
  cfg     : ConfigItems
  store   : Store
  mem     : List Host.Cell
  scan    : Scan
  docs    : DocTable
  macros  : Table (Option (List DialSym))
  lines   : Lines
  recept  : Reception
  engine  : Engine
  charge  : Charging
  desks   : Table Desk
  log     : CallLog
  draws   : Nat
  deriving DecidableEq, Repr

/-- No step of this part stops it: every refused command is a reply and every failure a notice or a cause. Nothing
raises a fault. -/
inductive Fault
  deriving DecidableEq, Repr

/-- Why a step is turned away. -/
inductive Refusal where
  /-- raised by exec's arm of a row that has no meaning yet; safe (no effect is claimed) -/
  | notModelled (mnemonic : String)
  deriving DecidableEq, Repr

/-! ### Reset values -/

/-- 2000-01-01 00:00:00.0, where the time starts (R200). -/
def timeZero : DateTime := ⟨2000, 1, 1, 0, 0, 0, 0⟩

def Link.reset : Link :=
  { rate := .b115200, mask := 0, candidate := [], held := [], taken := 0, job := none, replies := [], tx := .free,
    notices := [], lost := 0, hostReady := true }

/-- The configuration items after power-on and the RESET line (R213). -/
def ConfigItems.reset : ConfigItems :=
  { identity := [], receptionReserve := 256, inboundReserve := 1, autoPrint := true, autoDiscard := false,
    strikeLimit := 432, tolerance := 2 }

/-- A FREE directory entry of a given issue (R2). -/
def PageEntry.freeWith (issue : Nat) : PageEntry :=
  { issue, state := .free, origin := none, writer := none, cls := .coarse, lineCount := 0, byteLen := 0, chain := [],
    committed := 0, refs := 0, pins := 0, truncated := false, damaged := false, clipped := false, damagedLines := 0,
    pending := [] }

/-- The pool with all 8192 segments in ascending order (R1). -/
def SegPool.reset : SegPool := ⟨0, []⟩

def Store.reset : Store :=
  { pool := .reset, dir := .all (.freeWith 0), checks := [], waiting := [], port := none, winners := .all none,
    lowArmed := true }

/-- The scan settings' default values (R25). -/
def ScanSettings.reset : ScanSettings :=
  { cls := .fine, mode := .text, offset := 16, gain := 72, rounding := .nearestEven, threshold := 128, target := none }

/-- The scan unit after power-on and the RESET line (R45); the target, for which R45 gives no value, LOOSE: DESIGN CHOICE,
log 36. -/
def Scan.reset : Scan :=
  { settings := .reset, state := .idle, target := none, page := none, coded := 0, committed := 0, repeats := 0,
    pagesClosed := 0, holdTime := 0, nextSheet := false, endCause := .none, samples := [], previous := none,
    filling := [], full := none, backlog := [], lineWaits := false, codeLen := 0, marks := [], step := 0,
    endStep := none, ending := none, paper := false }

/-- A FREE document slot of a given issue (R46). -/
def Doc.freeWith (issue : Nat) : Doc :=
  { issue, state := .free, desk := 0, priority := 0, deadline := none, retryLimit := 0, retryInterval := 30,
    releasePages := false, cancelReq := false, pagesHeld := false, sequence := 0, pages := [], dests := [], sent := 0,
    failed := 0, expired := 0, cancelled := 0 }

def DocTable.reset : DocTable :=
  { docs := .all (.freeWith 0), pool := .all none, counter := 0, passAsked := false }

/-- The default line configuration (R80). -/
def LineConfig.reset : LineConfig :=
  { direction := .both, metered := false, restTime := 2, ringsToAnswer := 2, answerTimeout := 60 }

def Expander.reset : Expander := ⟨[], 0, []⟩

def LogFlags.none : LogFlags := ⟨false, false, false, false, false⟩

/-- The call parameters at power-on and the RESET line (R94). -/
def CallParams.reset : CallParams :=
  { role := none, remoteId := none, rateChosen := none, rate := none, stepDowns := 0, order := none, chop := false,
    classes := none, trained := false, pageSeq := 0, pagePos := 0, block := 0, round := 0, repeats := 0,
    framesResent := 0, detector := .disarmed }

def Procedure.reset : Procedure :=
  { tx := .quiet, octets := [], andThen := none, lastOut := none, lastIn := none, timer := false, incoming := false,
    waits := 0, badOffers := 0, offerSeen := false, awaitQuit := none, badRates := [], afterGood := none,
    goodLast := false, storing := false, heldAnswer := none }

def SendSide.reset : SendSide :=
  { buf0 := none, buf1 := none, block := 0, queue := [], filling := false, fetch := none }

def ReceiveSide.reset : ReceiveSide :=
  { parts := [], answered := none, toWrite := [], short := [], finalDone := false, cls := .coarse }

/-- A charging state with nothing captured (R175; log 36 for the items that no rule gives a value). -/
def ChargeState.reset : ChargeState :=
  { captured := false, zone := 0, rates := [], rounding := .up, minimum := 0, price := 0, metered := false,
    pulses := 0, saturated := false }

/-- A line after power-on and the RESET line (R80, R93, R119). -/
def Line.reset : Line :=
  { config := .reset, state := .idle, attempt := none, expander := .reset, charged := [], playPos := 0, dialTone := false,
    ringCount := 0,
    burst := false, refused := false, deferred := false, call := none, fillCount := 0, lastCause := none,
    params := .reset, proc := .reset, send := .reset, recv := .reset, charging := .reset }

def Lines.reset : Lines := ⟨.reset, .reset, .reset, .reset⟩

/-- A FREE inbound slot of a given issue (R120); its answer time, which R120 gives no value, is the start of the range
(log 36). -/
def InDoc.freeWith (issue : Nat) : InDoc :=
  { issue, state := .free, line := 0, sender := none, urgent := false, answer := timeZero, connect := none,
    release := none, cause := none, lastSent := false, pages := [], inPage := none, printState := .notQueued,
    firstClose := none }

/-- Reception and the print queue after power-on and the RESET line (R136). -/
def Reception.reset : Reception :=
  { docs := .all (.freeWith 0), urgentTable := .all none, closeCounter := 0, queue := [], entryCounter := 0,
    waitList := [] }

def Decoder.reset : Decoder :=
  { asked := 0, delivered := 0, stream := [], decoded := 0, line := none, previous := none, lines := 0, owed := none,
    ended := false }

/-- The print engine after power-on and the RESET line, before it reads its sensors (R153). -/
def Engine.reset : Engine :=
  { entry := none, index := 0, page := none, cls := .coarse, printed := 0, struck := 0, damaged := 0, ring := [],
    readSlot := 0, writeSlot := 0, halfStruck := false, decoder := .reset, uncut := false, cutFeed := false,
    paperOut := false, jamSensor := false, jamLatched := false, hostPause := false, reprints := 0, reprintDue := false,
    lastStrikes := [], pageStrikes := 0 }

/-- A zone's row at power-on (8.1). -/
def ZoneRow.reset : ZoneRow := ⟨.up, 0, List.replicate 8 ⟨0, 0⟩⟩

/-- The charging tables at power-on and the RESET line (R175). -/
def Charging.reset : Charging :=
  { prefixes := [], defaultZone := none, zones := .all .reset, workday := [], saturday := [], restDay := [],
    weekdays := [.workday, .workday, .workday, .workday, .workday, .saturday, .restDay],
    holidays := .all none, price := 1 }

/-- A desk record at power-on and the RESET line (R176). -/
def Desk.reset : Desk := ⟨0, 0, 0, none, false, false⟩

def CallLog.reset : CallLog := ⟨[], 0, 0, true⟩

/-- The timekeeper when a power-on has found the backup domain's contents lost (R200), with the crystal running: DESIGN
CHOICE, log 36. -/
def Timekeeper.reset : Timekeeper :=
  { time := timeZero, valid := false, suspect := true, source := .crystal, stops := 0, stallMark := false,
    lastSet := none, lastStep := none, lost := false, crystalRuns := true }

/-- The start-up notice of that power-on (R200): cause INVALID, the time, crystal stops, and that the flag had not
stood before (log 16). -/
def startNotice : Notice :=
  { kind := .timeSuspect, time := timeZero, suspect := true, fields := [2, 0, 1, 1, 0, 0, 0, 0, 0, 0] }

/-- The part right after a power-on that found the backup domain's contents lost, with the printer's sensors quiet
(log 6). -/
def State.reset : State :=
  { pending := [], power := true, tk := .reset, link := { Link.reset with notices := [startNotice] },
    cfg := .reset, store := .reset, mem := [], scan := .reset, docs := .reset, macros := .all none, lines := .reset,
    recept := .reset, engine := .reset, charge := .reset, desks := .all .reset, log := .reset, draws := 0 }

end Sys2Proof.Machine
end

