-- ==== Sys2Proof/Machine/Memory.lean ====
section
/-! DEFINITION. The page memory (chapter 1): 8192 segments of 16 store blocks of 256 octets, held as (address, octet)
pairs in one canonical form, and the check area beside it. It is read and written a whole store block at a time. -/

namespace Sys2Proof.Machine

/-- What an octet that nothing has written reads as (log 7). -/
def unwritten : Byte := 0

/-- The canonical form: addresses strictly ascending, no entry equal to what an unlisted address reads as. -/
def Memory.wf : List Host.Cell → Bool
  | [] => true
  | (a, v) :: r => v != unwritten && (match r with | [] => true | (b, _) :: _ => decide (a < b)) && Memory.wf r

/-- The octet at an address. -/
def Memory.read : List Host.Cell → Nat → Byte
  | [], _ => unwritten
  | (b, v) :: r, a => if b = a then v else Memory.read r a

/-- The entries of a run of octets from an address on. -/
def Memory.cellsFrom : Nat → List Byte → List Host.Cell
  | _, [] => []
  | a, v :: r => if v = unwritten then Memory.cellsFrom (a + 1) r else (a, v) :: Memory.cellsFrom (a + 1) r

/-- Octets written from an address on: the entries below, the new ones, the entries above. -/
def Memory.write (m : List Host.Cell) (a : Nat) (data : List Byte) : List Host.Cell :=
  (m.filter fun c => decide (c.1 < a)) ++ Memory.cellsFrom a data ++
    (m.filter fun c => decide (a + data.length ≤ c.1))

/-- `n` octets read from an address on. -/
def Memory.readRange (m : List Host.Cell) (a : Nat) : Nat → List Byte
  | 0 => []
  | n + 1 => Memory.read m a :: Memory.readRange m (a + 1) n

/-- The address of the first octet of a store block, blocks counted through the memory. -/
def blockBase (block : Nat) : Nat := 256 * block

/-- The 256 octets of a store block. -/
def Memory.readBlock (m : List Host.Cell) (block : Nat) : List Byte := Memory.readRange m (blockBase block) 256

/-- A store block written: 256 octets. -/
def Memory.writeBlock (m : List Host.Cell) (block : Nat) (data : List Byte) : List Host.Cell :=
  Memory.write m (blockBase block) (data.take 256)

/-- The check word beside a store block; 0 where none was written. -/
def checkAt (checks : List (Nat × Word16)) (block : Nat) : Word16 := cellGet 0 checks block

/-- A store block by its segment and its position in the segment (The page directory, note 1). -/
def blockAddress (segment position : Nat) : Nat := 16 * segment + position

/-- Octets as the port finds them: those of the list, changed by the disturbances whose positions lie in it (log 9). -/
def disturb (data : List Byte) : List (Nat × Byte) → List Byte
  | [] => data
  | (k, x) :: r => disturb (data.set k ((data[k]?).getD 0 ^^^ x)) r

end Sys2Proof.Machine
end

