-- ==== Sys2Proof/Machine/Flags.lean ====
section
/-! DEFINITION. Flags and sets: the octets of the page directory's flags and of the log record's flags (11.7.1), the
sets of line rates, bit orders and classes that the line messages carry (11.7.5), and what adds a flag to a record. -/

namespace Sys2Proof.Machine

/-- Bit `k` of a set's octet. -/
def flagBit (k : Nat) (b : Bool) : Byte := if b then 1#8 <<< k else 0#8

/-- The page directory's flags, in the order of its table: TRUNCATED, DAMAGED, CLIPPED. -/
def PageEntry.flagsOctet (e : PageEntry) : Byte :=
  flagBit 0 e.truncated ||| flagBit 1 e.damaged ||| flagBit 2 e.clipped

/-- The log record's flags, in the order of R182's table. -/
def LogFlags.octet (f : LogFlags) : Byte :=
  flagBit 0 f.timeSuspect ||| flagBit 1 f.clockStep ||| flagBit 2 f.long ||| flagBit 3 f.mismatch |||
    flagBit 4 f.unitsSat

/-- The flags of either record (R183: those the call record carries together with those the charging unit added). -/
def LogFlags.join (a b : LogFlags) : LogFlags :=
  { timeSuspect := a.timeSuspect || b.timeSuspect, clockStep := a.clockStep || b.clockStep, long := a.long || b.long,
    mismatch := a.mismatch || b.mismatch, unitsSat := a.unitsSat || b.unitsSat }

/-- The place of a class in the manual's order (1.4.4, 11.7.1). -/
def classIndex : ResClass → Nat
  | .coarse => 0 | .fine => 1 | .extra => 2

/-- The place of a line rate in the list of 1.4.4. -/
def lineRateIndex : LineRate → Nat
  | .r14400 => 0 | .r12000 => 1 | .r9600 => 2 | .r7200 => 3 | .r4800 => 4 | .r2400 => 5

/-- The place of a bit order (5.1). -/
def orderIndex : BitOrder → Nat
  | .msbFirst => 0 | .lsbFirst => 1

def allLineRates : List LineRate := [.r14400, .r12000, .r9600, .r7200, .r4800, .r2400]

/-- The next lower rate (1.4.4); none below 2400. -/
def stepDown : LineRate → Option LineRate
  | .r14400 => some .r12000 | .r12000 => some .r9600 | .r9600 => some .r7200 | .r7200 => some .r4800
  | .r4800 => some .r2400 | .r2400 => none

/-- The highest rate of a set (R99): the first of the list of 1.4.4 that it names. -/
def highestRate (rates : Byte) : Option LineRate := allLineRates.find? fun r => rates.getLsbD (lineRateIndex r)

/-- The bit order chosen from a set (R99): MSB_FIRST when offered, otherwise LSB_FIRST. -/
def chooseOrder (orders : Byte) : Option BitOrder :=
  if orders.getLsbD 0 then some .msbFirst else if orders.getLsbD 1 then some .lsbFirst else none

/-- Whether a set of classes holds a class. -/
def hasClass (classes : Byte) (c : ResClass) : Bool := classes.getLsbD (classIndex c)

/-- Every rate, both orders, every class (R98, R99). -/
def everyRate : Byte := 0x3F
def everyOrder : Byte := 0x03
def everyClass : Byte := 0x07

end Sys2Proof.Machine
end

