-- ==== Sys2Proof/Machine/Operands.lean ====
section
/-! DEFINITION. Formats (11.7): the octets of every field kind, of host frames, line messages and line frames, the
CRC-16 of both links, and the reading of command bodies. -/

namespace Sys2Proof.Machine

/-! ### CRC-16 (R95, R204): x^16 + x^12 + x^5 + 1, register all ones, most significant bit first -/

def crcBit (c : Word16) (b : Bool) : Word16 :=
  if (c.msb ^^ b) then (c <<< 1) ^^^ 0x1021 else c <<< 1

def crcOctet (c : Word16) (o : Byte) : Word16 :=
  crcBit (crcBit (crcBit (crcBit (crcBit (crcBit (crcBit (crcBit c
    (o.getLsbD 7)) (o.getLsbD 6)) (o.getLsbD 5)) (o.getLsbD 4)) (o.getLsbD 3)) (o.getLsbD 2)) (o.getLsbD 1)) (o.getLsbD 0)

def crc16 (octets : List Byte) : Word16 := octets.foldl crcOctet 0xFFFF#16

/-- The two octets of a CRC, high octet first. -/
def crcOctets (octets : List Byte) : List Byte :=
  let c := crc16 octets
  [c.extractLsb' 8 8, c.extractLsb' 0 8]

/-! ### Field kinds (11.7.1) -/

/-- One octet of a number. -/
def oct (n : Nat) : Byte := BitVec.ofNat 8 n

def e8 (n : Nat) : List Byte := [oct n]
def e16 (n : Nat) : List Byte := [oct (n / 256), oct n]
def e32 (n : Nat) : List Byte := [oct (n / 16777216), oct (n / 65536), oct (n / 256), oct n]

/-- A signed number in 5 octets, two's complement (last step). -/
def eStep (z : Int) : List Byte :=
  let n := (z % 1099511627776).toNat
  [oct (n / 4294967296), oct (n / 16777216), oct (n / 65536), oct (n / 256), oct n]

def eBool (b : Bool) : List Byte := [if b then 1 else 0]

/-- An optional field: 0, or 1 and the field. -/
def eOpt {α : Type} (f : α → List Byte) : Option α → List Byte
  | none => [0]
  | some a => 1 :: f a

/-- A list: a count of one octet, then the items. -/
def eList {α : Type} (f : α → List Byte) (l : List α) : List Byte := e8 l.length ++ l.flatMap f

/-- A list that may pass 255 items: a count of two octets, then the items. -/
def eLongList {α : Type} (f : α → List Byte) (l : List α) : List Byte := e16 l.length ++ l.flatMap f

/-- A character string: a count, then the characters. -/
def eChars (s : List Byte) : List Byte := e8 s.length ++ s

/-- A digit string: a count, then one octet per digit. -/
def eDigits (s : List Nat) : List Byte := eList e8 s

def ePage (h : PageHandle) : List Byte := e16 (h.slot * 64 + h.issue)
def eDoc (h : DocHandle) : List Byte := [oct h.slot, oct h.issue]
def eIn (h : InHandle) : List Byte := [oct h.slot, oct h.issue]

def eTime (t : DateTime) : List Byte :=
  [oct (t.year - 2000), oct t.month, oct t.day, oct t.hour, oct t.minute, oct t.second, oct t.tenth]

/-- A date: the first three octets of a date and time (log 13). -/
def eDate (d : Date) : List Byte := [oct (d.year - 2000), oct d.month, oct d.day]

def symOctets : DialSym → List Byte
  | .digit d => [oct (48 + d)]
  | .star => [0x2A] | .hash => [0x23] | .pause => [0x50] | .wait => [0x57] | .chargePoint => [0x43]
  | .macroCall n => [0x4D, oct n]

def eSyms (s : List DialSym) : List Byte := eList symOctets s

/-! ### Enumerations, numbered in the manual's order (11.7.1), and the code tables of 11.7.2 -/

def Status.code : Status → Byte
  | .ok => 0 | .badLength => 1 | .badField => 2 | .unknownKind => 3 | .noSuchPage => 4 | .noSuchDoc => 5
  | .noSuchEntry => 6 | .wrongState => 7 | .tableFull => 8 | .storeFull => 9 | .busy => 10 | .noPaper => 11

def NoticeKind.code : NoticeKind → Byte
  | .pageClosed => 0x01 | .destDone => 0x02
  | .lineState => 0x10 | .inboundStart => 0x11 | .inboundEnd => 0x12 | .printDone => 0x13 | .docDone => 0x14
  | .scanHeld => 0x20 | .ringRefused => 0x21 | .deskLimit => 0x22 | .logNearFull => 0x23 | .storeLow => 0x24
  | .scanAborted => 0x30 | .storeDamage => 0x31 | .printerFault => 0x32 | .timeSuspect => 0x33 | .linkCheck => 0x34
  | .linkOverrun => 0x35

/-- The level of a notice kind (11.4). -/
def NoticeKind.level : NoticeKind → Nat
  | .pageClosed => 0 | .destDone => 0
  | .lineState => 1 | .inboundStart => 1 | .inboundEnd => 1 | .printDone => 1 | .docDone => 1
  | .scanHeld => 2 | .ringRefused => 2 | .deskLimit => 2 | .logNearFull => 2 | .storeLow => 2
  | .scanAborted => 3 | .storeDamage => 3 | .printerFault => 3 | .timeSuspect => 3 | .linkCheck => 3
  | .linkOverrun => 3

def CallState.code : CallState → Byte
  | .idle => 0 | .seized => 1 | .dialling => 2 | .alerting => 3 | .answering => 4 | .negotiating => 5 | .training => 6
  | .sending => 7 | .receiving => 8 | .postPage => 9 | .releasing => 10 | .rest => 11 | .outOfService => 12

/-- A cause with its subcause: subcauses are numbered from 1, 0 stands for none (11.7.2). -/
def eCause : Cause → List Byte
  | .normal => [0, 0] | .busy => [1, 0] | .noAnswer => [2, 0] | .noDialTone => [3, 0] | .lineDrop => [4, 0]
  | .lineQuality => [5, 0]
  | .remoteRefused .cls => [6, 1] | .remoteRefused .pageFailed => [6, 2] | .remoteRefused .quit => [6, 3]
  | .remoteQuit => [7, 0] | .timeout => [8, 0] | .barred => [9, 0]
  | .dialError .depth => [10, 1] | .dialError .unknownMacro => [10, 2] | .dialError .length => [10, 3]
  | .storeFull .segments => [11, 1] | .storeFull .directory => [11, 2] | .storeFull .pages => [11, 3]
  | .cancelled => [12, 0] | .reset => [13, 0] | .glare => [14, 0]

def eClass (c : ResClass) : List Byte := e8 (classIndex c)

def PageState.code : PageState → Byte
  | .free => 0 | .opened => 1 | .closed => 2

/-- SCAN, LINE0 to LINE3, HOST. -/
def Origin.code : Origin → Byte
  | .scan => 0 | .line l => oct (1 + l.val) | .host => 5

/-- SCAN, LC0 to LC3, HOSTXFER: the writers of The page directory (the print engine writes no page). -/
def Client.writerCode : Client → Byte
  | .scan => 0 | .lc l => oct (1 + l.val) | .hostXfer => 5 | .print => 6

def ScanState.code : ScanState → Byte
  | .idle => 0 | .scanning => 1 | .held => 2 | .ejecting => 3

def ScanEnd.code : ScanEnd → Byte
  | .none => 0 | .empty => 1 | .stopped => 2 | .storeFull => 3 | .directoryFull => 4 | .reset => 5

def ScanMode.code : ScanMode → Byte
  | .text => 0 | .halftone => 1

def Rounding.code : Rounding → Byte
  | .floor => 0 | .nearestEven => 1

def DocState.code : DocState → Byte
  | .free => 0 | .draft => 1 | .queued => 2 | .active => 3 | .done => 4 | .cancelled => 5

def DestState.code : DestState → Byte
  | .waiting => 0 | .onLine => 1 | .retryWait => 2 | .sent => 3 | .failed => 4 | .expired => 5 | .cancelled => 6

def Direction.code : Direction → Byte
  | .inOnly => 0 | .outOnly => 1 | .both => 2

def InState.code : InState → Byte
  | .free => 0 | .receiving => 1 | .complete => 2 | .part => 3 | .failed => 4

def PrintState.code : PrintState → Byte
  | .notQueued => 0 | .queueWait => 1 | .queued => 2 | .printing => 3 | .printed => 4 | .held => 5

def DayType.code : DayType → Byte
  | .workday => 0 | .saturday => 1 | .restDay => 2

def ZoneRounding.code : ZoneRounding → Byte
  | .up => 0 | .nearestEven => 1

def TimeSource.code : TimeSource → Byte
  | .crystal => 0 | .fallback => 1

def HostRate.code : HostRate → Byte
  | .b115200 => 0 | .b230400 => 1 | .b460800 => 2 | .b921600 => 3

def Role.code : Role → Byte
  | .sender => 0 | .receiver => 1

def Detector.code : Detector → Byte
  | .disarmed => 0 | .armed => 1 | .counting => 2

def eLineRate (r : LineRate) : List Byte := e8 (lineRateIndex r)
def eOrder (o : BitOrder) : List Byte := e8 (orderIndex o)

/-! ### Host frames (R216) -/

/-- The octets between the start octet and the check. -/
def Frame.covered (f : Frame) : List Byte := e16 f.body.length ++ [f.kind, f.tag] ++ f.body

/-- A whole frame: start, length, kind, tag, body, check. -/
def Frame.octets (f : Frame) : List Byte := 0xA5 :: (f.covered ++ crcOctets f.covered)

/-- The frame of a notice (R210, 11.7.1): its body is the level, the kind, the time at raising, the mark, the lost
count and the kind's fields. -/
def Notice.frame (n : Notice) (lost : Nat) : Frame :=
  { kind := 0xFF, tag := 0,
    body := e8 n.kind.level ++ [n.kind.code] ++ eTime n.time ++ eBool n.suspect ++ e8 lost ++ n.fields }

/-! ### Line messages (11.7.5) and line frames (R217) -/

/-- A message's kind octet and fields. -/
def Msg.covered : Msg → List Byte
  | .offer identity rates orders chop cls => [0x01] ++ eChars identity ++ [rates, orders] ++ eBool chop ++ eClass cls
  | .choose identity rate order chop classes =>
    [0x02] ++ eChars identity ++ eLineRate rate ++ eOrder order ++ eBool chop ++ [classes]
  | .trainGood => [0x03]
  | .trainBad => [0x04]
  | .blockEnd sequence block round count final =>
    [0x05] ++ e8 sequence ++ e8 block ++ e8 round ++ e8 count ++ eOpt e16 final
  | .resend marks => [0x06] ++ marks
  | .pageEnd sequence lineCount next => [0x07] ++ e8 sequence ++ e16 lineCount ++ eOpt eClass next
  | .pageGood => [0x08]
  | .pageFailed => [0x09]
  | .quit => [0x0A]

/-- A message as sent: kind, fields and CRC, most significant bit first (R95). -/
def Msg.octets (m : Msg) : List Byte := m.covered ++ crcOctets m.covered

/-- Whether a message's fields are in range (R95, 11.7.5). -/
def Msg.inRange : Msg → Bool
  | .offer identity rates orders _ _ =>
    decide (identity.length ≤ 20) && decide (rates.toNat < 64) && decide (orders.toNat < 4)
  | .choose identity _ _ _ classes => decide (identity.length ≤ 20) && decide (classes.toNat < 8)
  | .blockEnd sequence block round count final =>
    decide (sequence ≤ 255) && decide (block ≤ 255) && decide (round ≤ 4) && decide (1 ≤ count) && decide (count ≤ 64)
      && (match final with | none => true | some n => decide (n ≤ 256))
  | .resend marks => decide (marks.length = 8)
  | .pageEnd sequence lineCount _ => decide (sequence ≤ 255) && decide (lineCount ≤ 65535)
  | .trainGood | .trainBad | .pageGood | .pageFailed | .quit => true

/-- The octet with its bits in the other order (R104). -/
def reverseOctet (o : Byte) : Byte :=
  flagBit 0 (o.getLsbD 7) ||| flagBit 1 (o.getLsbD 6) ||| flagBit 2 (o.getLsbD 5) ||| flagBit 3 (o.getLsbD 4) |||
    flagBit 4 (o.getLsbD 3) ||| flagBit 5 (o.getLsbD 2) ||| flagBit 6 (o.getLsbD 1) ||| flagBit 7 (o.getLsbD 0)

/-- Octets in the order the line carries them: as stored for MSB_FIRST, each reversed for LSB_FIRST (R104). -/
def inLineOrder (order : Option BitOrder) (octets : List Byte) : List Byte :=
  if order = some .lsbFirst then octets.map reverseOctet else octets

/-- Length class and part of a frame header: bit 7 CHOPPED, bits 1 and 0 the part (R217). -/
def classOctet : Option Nat → Byte
  | none => 0x00
  | some part => 0x80 ||| oct (part % 4)

/-- A page frame as stored: header, data, CRC over both (R103, R104, R217). -/
def pageFrame (sequence block frame : Nat) (part : Option Nat) (data : List Byte) : List Byte :=
  let body := [oct sequence, oct block, oct frame, classOctet part] ++ data
  body ++ crcOctets body

/-- A received page frame whose CRC matches and whose header is in range (R107, R217): page sequence, block number,
frame number, part when CHOPPED, data. -/
structure LineFrame where
  sequence : Nat
  block    : Nat
  frame    : Nat
  part     : Option Nat
  data     : List Byte
  deriving DecidableEq, Repr

/-- Reads a frame's octets as stored; none where the CRC does not match, the header is out of range or the length is
not that of its class. -/
def readLineFrame (octets : List Byte) : Option LineFrame :=
  match octets with
  | sequence :: block :: frame :: cls :: rest =>
    let data := rest.take (rest.length - 2)
    if crcOctets ([sequence, block, frame, cls] ++ data) != rest.drop (rest.length - 2) then none
    else if frame.toNat > 63 then none
    else if cls = 0x00 then
      if data.length = 256 then some ⟨sequence.toNat, block.toNat, frame.toNat, none, data⟩ else none
    else if cls.toNat ≥ 0x80 && cls.toNat ≤ 0x83 then
      if data.length = 64 then some ⟨sequence.toNat, block.toNat, frame.toNat, some (cls.toNat - 0x80), data⟩ else none
    else none
  | _ => none

/-- The marks of a resend list as its 8 octets (11.7.5). -/
def marksOctets (marked : List Nat) : List Byte :=
  (List.range 8).map fun k => (List.range 8).foldl (fun o b => if (8 * k + b) ∈ marked then o ||| flagBit b true else o) 0

/-- The frame numbers a resend list marks. -/
def markedFrames (marks : List Byte) : List Nat :=
  (List.range 64).filter fun f => ((marks[f / 8]?).getD 0).getLsbD (f % 8)

/-! ### Reading command bodies -/

/-- A number from octets, high octet first. -/
def nat16 (a b : Byte) : Nat := a.toNat * 256 + b.toNat
def nat32 (a b c d : Byte) : Nat := ((a.toNat * 256 + b.toNat) * 256 + c.toNat) * 256 + d.toNat

def pageOf (a b : Byte) : PageHandle := ⟨nat16 a b / 64, nat16 a b % 64⟩
def docOf (a b : Byte) : DocHandle := ⟨a.toNat, b.toNat⟩
def inOf (a b : Byte) : InHandle := ⟨a.toNat, b.toNat⟩

def timeOf (y mo d h mi s t : Byte) : DateTime :=
  ⟨2000 + y.toNat, mo.toNat, d.toNat, h.toNat, mi.toNat, s.toNat, t.toNat⟩

def dateOf (y m d : Byte) : Date := ⟨2000 + y.toNat, m.toNat, d.toNat⟩

def classOf (b : Byte) : Option ResClass :=
  if b = 0 then some .coarse else if b = 1 then some .fine else if b = 2 then some .extra else none

/-- A yes or no octet: 0 or 1 (11.7.1); none for any other value. -/
def boolOf (b : Byte) : Option Bool := if b = 0 then some false else if b = 1 then some true else none

def dayTypeOf (b : Byte) : Option DayType :=
  if b = 0 then some .workday else if b = 1 then some .saturday else if b = 2 then some .restDay else none

def zoneRoundingOf (b : Byte) : Option ZoneRounding :=
  if b = 0 then some .up else if b = 1 then some .nearestEven else none

def directionOf (b : Byte) : Option Direction :=
  if b = 0 then some .inOnly else if b = 1 then some .outOnly else if b = 2 then some .both else none

def hostRateOf (b : Byte) : Option HostRate :=
  if b = 0 then some .b115200 else if b = 1 then some .b230400 else if b = 2 then some .b460800
  else if b = 3 then some .b921600 else none

/-- One dial symbol of one octet; none for an octet that is no symbol (R51, R73). -/
def symOf (b : Byte) : Option DialSym :=
  if 48 ≤ b.toNat ∧ b.toNat ≤ 57 then some (.digit (b.toNat - 48))
  else if b = 0x2A then some .star else if b = 0x23 then some .hash else if b = 0x50 then some .pause
  else if b = 0x57 then some .wait else if b = 0x43 then some .chargePoint else none

/-- Reads `n` dial symbols: none where the octets run out; a symbol that is not allowed reads as none in the list. -/
def readSyms : (n : Nat) → List Byte → Option (List (Option DialSym) × List Byte)
  | 0, r => some ([], r)
  | _ + 1, [] => none
  | n + 1, b :: r =>
    if b = 0x4D then
      match r with
      | [] => none
      | m :: r' =>
        match readSyms n r' with
        | none => none
        | some (s, q) => some ((if m.toNat ≤ 31 then some (.macroCall m.toNat) else none) :: s, q)
    else
      match readSyms n r with
      | none => none
      | some (s, q) => some (symOf b :: s, q)

/-- All the items, or none when one of them is none. -/
def allSome {α : Type} : List (Option α) → Option (List α)
  | [] => some []
  | none :: _ => none
  | some a :: r => (allSome r).map (a :: ·)

/-- Reads pairs of octets. -/
def pairs : List Byte → Option (List (Byte × Byte))
  | [] => some []
  | [_] => none
  | a :: b :: r => (pairs r).map ((a, b) :: ·)

/-- Reads dial strings to the end of the body, each a count and its symbols (log 13): none where the octets run out. -/
def readStrings : (fuel : Nat) → List Byte → Option (List (Nat × List (Option DialSym)))
  | _, [] => some []
  | 0, _ :: _ => none
  | fuel + 1, n :: r =>
    match readSyms n.toNat r with
    | none => none
    | some (s, q) => (readStrings fuel q).map ((n.toNat, s) :: ·)

/-- An optional field of `n` octets at the head of a body (11.7.1): absent, or its octets; and what follows. -/
def readOpt (n : Nat) : List Byte → Except Status (Option (List Byte) × List Byte)
  | [] => .error .badLength
  | p :: r =>
    if p = 0 then .ok (none, r)
    else if p = 1 then if n ≤ r.length then .ok (some (r.take n), r.drop n) else .error .badLength
    else .error .badField

/-- A body that is one optional octet and nothing else. -/
def readOptOctet (body : List Byte) : Except Status (Option Nat) :=
  match readOpt 1 body with
  | .error e => .error e
  | .ok (v, []) => .ok (v.map fun o => (o.headD 0).toNat)
  | .ok (_, _ :: _) => .error .badLength

/-- A count and that many octets at the head of a body (strings and lists of octets); and what follows. -/
def readCounted : List Byte → Except Status (List Byte × List Byte)
  | [] => .error .badLength
  | n :: r => if n.toNat ≤ r.length then .ok (r.take n.toNat, r.drop n.toNat) else .error .badLength

/-- Octets that are all decimal digits (11.7.1). -/
def digitsOf (octets : List Byte) : Option (List Nat) :=
  allSome (octets.map fun o => if o.toNat ≤ 9 then some o.toNat else none)

end Sys2Proof.Machine
end

