-- ==== Sys2Proof/Machine/Time.lean ====
section
/-! DEFINITION. The calendar and the arithmetic of times (10.2, 10.6): tenths since 2000-01-01 00:00:00.0, valid dates,
weekdays, day types, and the tariff bands of an instant (8.4). -/

namespace Sys2Proof.Machine

def leap (year : Nat) : Bool := year % 4 = 0

/-- The days of a month (R191). -/
def monthDays (year month : Nat) : Nat :=
  if month = 2 then (if leap year then 29 else 28)
  else if month = 4 ∨ month = 6 ∨ month = 9 ∨ month = 11 then 30
  else 31

/-- A calendar date in 2000-2099. -/
def Date.valid (d : Date) : Bool :=
  decide (2000 ≤ d.year) && decide (d.year ≤ 2099) && decide (1 ≤ d.month) && decide (d.month ≤ 12) &&
    decide (1 ≤ d.day) && decide (d.day ≤ monthDays d.year d.month)

def DateTime.date (t : DateTime) : Date := ⟨t.year, t.month, t.day⟩

/-- A date and time of day that the timekeeper can hold (10.1, R195). -/
def DateTime.valid (t : DateTime) : Bool :=
  t.date.valid && decide (t.hour ≤ 23) && decide (t.minute ≤ 59) && decide (t.second ≤ 59) && decide (t.tenth ≤ 9)

/-- The days of the months of a year before month `m`. -/
def daysBefore (year : Nat) : Nat → Nat
  | 0 => 0
  | 1 => 0
  | m + 1 => daysBefore year m + monthDays year m

/-- Days from 2000-01-01 to a date (R191). -/
def Date.dayCount (d : Date) : Nat :=
  let y := d.year - 2000
  365 * y + (y + 3) / 4 + daysBefore d.year d.month + (d.day - 1)

/-- Tenths from 2000-01-01 00:00:00.0 to a time. -/
def DateTime.tenths (t : DateTime) : Nat :=
  (((t.date.dayCount * 24 + t.hour) * 60 + t.minute) * 60 + t.second) * 10 + t.tenth

/-- The month and day of a day of the year, counted from 0. -/
def monthOf (year : Nat) : (fuel month day : Nat) → Nat × Nat
  | 0, m, d => (m, d + 1)
  | fuel + 1, m, d => if d < monthDays year m then (m, d + 1) else monthOf year fuel (m + 1) (d - monthDays year m)

/-- The date `n` days after 2000-01-01, within 2000-2099. -/
def dateOfDays (n : Nat) : Date :=
  let cycle := n / 1461
  let rest := n % 1461
  let inCycle := if rest < 366 then 0 else 1 + (rest - 366) / 365
  let year := 2000 + 4 * cycle + inCycle
  let dayOfYear := if rest < 366 then rest else (rest - 366) % 365
  let md := monthOf year 11 1 dayOfYear
  ⟨year, md.1, md.2⟩

/-- The number of tenths from 2000-01-01 to the end of 2099: 36525 days. -/
def rangeTenths : Nat := 36525 * 864000

/-- The time a number of tenths after 2000-01-01 00:00:00.0, below `rangeTenths`. -/
def timeOfTenths (n : Nat) : DateTime :=
  let d := dateOfDays (n / 864000)
  let r := n % 864000
  ⟨d.year, d.month, d.day, r / 36000, r / 600 % 60, r / 10 % 60, r % 10⟩

/-- A time `n` tenths after `t`; past the end of 2099 it is the free value of log 11. -/
def DateTime.plus (t : DateTime) (n : Nat) : DateTime :=
  let m := t.tenths + n
  if m < rangeTenths then timeOfTenths m else timeOfTenths (Config.timePastEnd m % rangeTenths)

/-- `a` is at or before `b`. -/
def DateTime.le (a b : DateTime) : Bool := decide (a.tenths ≤ b.tenths)

/-- One tenth on: each place carries into the next (R191). The flag says that the range's end was passed. -/
def DateTime.tick (t : DateTime) : DateTime × Bool :=
  if t.tenth < 9 then ({ t with tenth := t.tenth + 1 }, false)
  else if t.second < 59 then ({ t with tenth := 0, second := t.second + 1 }, false)
  else if t.minute < 59 then ({ t with tenth := 0, second := 0, minute := t.minute + 1 }, false)
  else if t.hour < 23 then ({ t with tenth := 0, second := 0, minute := 0, hour := t.hour + 1 }, false)
  else if t.day < monthDays t.year t.month then
    ({ t with tenth := 0, second := 0, minute := 0, hour := 0, day := t.day + 1 }, false)
  else if t.month < 12 then
    ({ t with tenth := 0, second := 0, minute := 0, hour := 0, day := 1, month := t.month + 1 }, false)
  else if t.year < 2099 then
    ({ t with tenth := 0, second := 0, minute := 0, hour := 0, day := 1, month := 1, year := t.year + 1 }, false)
  else (timeZero, true)

/-- The weekday of a date, Monday 0 to Sunday 6: the day count leaves 0 on a Saturday, 1 on a Sunday (R191). -/
def Date.weekday (d : Date) : Nat := (d.dayCount + 5) % 7

/-- The day type of a date (R198): REST_DAY for a date of the holiday list, otherwise the weekday map's. -/
def dayType (c : Charging) (d : Date) : DayType :=
  if (List.range 16).any fun k => c.holidays.get k = some d then .restDay
  else ((c.weekdays[d.weekday]?).getD .workday)

/-- The band starts of a day type (R160). -/
def Charging.schedule (c : Charging) : DayType → List (Nat × Nat)
  | .workday => c.workday
  | .saturday => c.saturday
  | .restDay => c.restDay

/-- The band in force at a minute of the day by a schedule in ascending order (R161). -/
def bandAtMinute (starts : List (Nat × Nat)) (minute : Nat) : Nat :=
  match (starts.filter fun s => decide (s.1 ≤ minute)).getLast? with
  | some s => s.2
  | none => match starts with
    | [] => 0
    | s :: _ => s.2

/-- The band in force at an instant (R161). -/
def bandAt (c : Charging) (t : DateTime) : Nat :=
  bandAtMinute (c.schedule (dayType c t.date)) (t.hour * 60 + t.minute)

end Sys2Proof.Machine
end

