-- ==== Sys2Proof/Machine/Ops.lean ====
section
/-! DEFINITION. The named operations that several blocks share: the lines, notices and replies of the host link, taking
a command, and the page store's pool, records, allocation test, requests, close, release and discard. -/

namespace Sys2Proof.Machine

/-- The answer of a meaning. -/
abbrev Outcome := Host.Outcome State Fault Refusal

/-! ### Lines -/

def Lines.get (ls : Lines) (l : LineNo) : Line :=
  if l = 0 then ls.lc0 else if l = 1 then ls.lc1 else if l = 2 then ls.lc2 else ls.lc3

def Lines.set (ls : Lines) (l : LineNo) (x : Line) : Lines :=
  if l = 0 then { ls with lc0 := x } else if l = 1 then { ls with lc1 := x }
  else if l = 2 then { ls with lc2 := x } else { ls with lc3 := x }

def allLines : List LineNo := [0, 1, 2, 3]

def State.line (s : State) (l : LineNo) : Line := s.lines.get l

def State.setLine (s : State) (l : LineNo) (x : Line) : State := { s with lines := s.lines.set l x }

def State.modLine (s : State) (l : LineNo) (f : Line → Line) : State := s.setLine l (f (s.line l))

/-- A call in progress: any state from SEIZED to RELEASING, ANSWERING included (R83). -/
def CallState.inProgress : CallState → Bool
  | .seized | .dialling | .alerting | .answering | .negotiating | .training | .sending | .receiving | .postPage
  | .releasing => true
  | .idle | .rest | .outOfService => false

/-- A connected call: the states of the line procedure, from NEGOTIATING to RELEASING (4.5). -/
def CallState.connected : CallState → Bool
  | .negotiating | .training | .sending | .receiving | .postPage | .releasing => true
  | .idle | .seized | .dialling | .alerting | .answering | .rest | .outOfService => false

/-- The count of calls in progress (R83). -/
def State.callsInProgress (s : State) : Nat := (allLines.filter fun l => (s.line l).state.inProgress).length

/-- The filled records plus the calls in progress are below 256 (R54, R58, R89). -/
def State.logHasRoom (s : State) : Bool := decide (s.log.records.length + s.callsInProgress < 256)

/-- The line is in a call or holds an attempt (R80). -/
def Line.inCall (x : Line) : Bool := x.state.inProgress || x.attempt.isSome

/-! ### Notices and replies (R207, R209) -/

/-- The present time (10.1). -/
def State.now (s : State) : DateTime := s.tk.time

/-- A block raises a notice (R209): discarded below the mask level, counted lost when the queue holds 32, appended
otherwise with the time and the time-suspect mark of its raising. -/
def raise (kind : NoticeKind) (fields : List Byte) (s : State) : State :=
  if kind.level < s.link.mask then s
  else if 32 ≤ s.link.notices.length then { s with link := { s.link with lost := satAdd 255 s.link.lost 1 } }
  else
    { s with link := { s.link with
      notices := s.link.notices ++ [{ kind, time := s.now, suspect := s.tk.suspect, fields }] } }

/-- A raise that a reset of scope ENGINE leaves out (R24, R72, R136). -/
def raiseUnless (quiet : Bool) (kind : NoticeKind) (fields : List Byte) (s : State) : State :=
  if quiet then s else raise kind fields s

/-- A reply joins the reply queue: the command's kind with its high bit set, its tag, the status code and the fields
(R207). -/
def reply (kind tag : Byte) (status : Status) (fields : List Byte) (s : State) : State :=
  { s with link := { s.link with
    replies := s.link.replies ++ [{ frame := ⟨kind ||| 0x80, tag, status.code :: fields⟩, newRate := none }] } }

/-- A refused command: its reply carries the status code alone and nothing else happens (R207). -/
def refuse (kind tag : Byte) (status : Status) (s : State) : State := reply kind tag status [] s

/-- Taking a frame's command (R207): the oldest held frame whose command has not been taken, once the previous
command's reply has been formed. Where no such frame is held, the receiver is HUNTING and the buffer has room, the
frame's octets arrive here, all in one (log 1). None where this frame's command cannot be taken now. -/
def Link.take (f : Frame) (k : Link) : Option Link :=
  if k.job.isSome then none
  else match k.held.drop k.taken with
    | g :: _ => if g = f then some { k with taken := k.taken + 1 } else none
    | [] =>
      if k.candidate = [] ∧ k.held.length < 8 ∧ f.body.length ≤ 1040 then
        some { k with held := k.held ++ [f], taken := k.held.length + 1 }
      else none

/-- The part with a frame's command taken. -/
def State.takes (f : Frame) (s : State) : Option State :=
  if s.power then (s.link.take f).map fun k => { s with link := k } else none

/-- A host command: taken and acted on, or not due (log 2). -/
def hostCommand (kind tag : Byte) (body : List Byte) (act : State → State) (s : State) : State :=
  match s.takes ⟨kind, tag, body⟩ with
  | some s' => act s'
  | none => s

/-- A command's answer (R207): OK with its fields on the state the command left, or the refusal's status code alone
on the state as it was. -/
def answered (kind tag : Byte) (f : State → Except Status (State × List Byte)) (s : State) : State :=
  match f s with
  | .ok (s', fields) => reply kind tag .ok fields s'
  | .error status => refuse kind tag status s

/-- A host command that forms its reply as it is taken (R207). -/
def command (kind tag : Byte) (body : List Byte) (f : State → Except Status (State × List Byte)) (s : State) : State :=
  hostCommand kind tag body (answered kind tag f) s

/-- One form of a command that has several (its row's): the frame is this row's when `mine`, otherwise this row is not
due (log 2, log 13). -/
def formCommand (mine : Bool) (kind tag : Byte) (body : List Byte) (f : State → Except Status (State × List Byte))
    (s : State) : State :=
  if mine then command kind tag body f s else s

/-- A step of the part or of what is wired to it: nothing happens while the main supplies are off (log 3). -/
def whenOn (act : State → State) (s : State) : State := if s.power then act s else s

/-! ### The segment pool (R1) -/

/-- The free segments in order, head first. -/
def SegPool.toList (p : SegPool) : List Nat := List.range' p.fresh (8192 - p.fresh) ++ p.returned

/-- The free count. -/
def SegPool.count (p : SegPool) : Nat := (8192 - p.fresh) + p.returned.length

/-- The segment at the head. -/
def SegPool.head (p : SegPool) : Option Nat :=
  if p.fresh < 8192 then some p.fresh else p.returned.head?

/-- The pool without its head. -/
def SegPool.tail (p : SegPool) : SegPool :=
  if p.fresh < 8192 then { p with fresh := p.fresh + 1 } else { p with returned := p.returned.tail }

/-- Segments given back at the tail, in the order given. -/
def SegPool.give (p : SegPool) (segments : List Nat) : SegPool := { p with returned := p.returned ++ segments }

/-- The free count of the part. -/
def State.freeCount (s : State) : Nat := s.store.pool.count

/-- The STORE_LOW test (R6): raised once when the free count falls to the reserve or below, armed again above it. -/
def lowTest (s : State) : State :=
  if s.cfg.receptionReserve < s.freeCount then { s with store := { s.store with lowArmed := true } }
  else if s.store.lowArmed then
    raise .storeLow (e16 s.freeCount ++ e16 s.cfg.receptionReserve)
      { s with store := { s.store with lowArmed := false } }
  else s

/-! ### Page records and handles (R2, R3) -/

def State.entry (s : State) (slot : Nat) : PageEntry := s.store.dir.get slot

def State.setEntry (s : State) (slot : Nat) (e : PageEntry) : State :=
  { s with store := { s.store with dir := s.store.dir.set slot e } }

def State.modEntry (s : State) (slot : Nat) (f : PageEntry → PageEntry) : State := s.setEntry slot (f (s.entry slot))

/-- The page that a handle names (R3); none for a handle that names no page. -/
def State.page (s : State) (h : PageHandle) : Option PageEntry :=
  let e := s.entry h.slot
  if h.slot < 1024 ∧ e.state ≠ .free ∧ e.issue = h.issue then some e else none

/-- The number of OPEN pages (R23). -/
def State.openPages (s : State) : Nat := s.store.dir.count fun e => decide (e.state = .opened)

/-- The number of OPEN and CLOSED pages. -/
def State.livePages (s : State) : Nat := s.store.dir.count fun e => decide (e.state ≠ .free)

/-! ### Store port requests (R8, R16) -/

def PortOp.page : PortOp → PageHandle
  | .write h _ _ => h
  | .read h _ => h

def PortOp.isRead : PortOp → Bool
  | .read _ _ => true
  | .write _ _ _ => false

/-- A request joins those waiting. -/
def queueRequest (r : Request) (s : State) : State :=
  { s with store := { s.store with waiting := s.store.waiting ++ [r] } }

/-- A client's job ends: its waiting request is withdrawn, its transfer in progress completes and commits nothing (R8,
R17). -/
def withdraw (c : Client) (s : State) : State :=
  { s with store := { s.store with
    waiting := s.store.waiting.filter fun r => decide (r.client ≠ c),
    port := s.store.port.map fun (t : Transfer) => if t.req.client = c then { t with void := true } else t } }

/-- The client has a request waiting, or a live transfer on the port. -/
def State.outstanding (s : State) (c : Client) : Bool :=
  s.store.waiting.any (fun r => decide (r.client = c)) ||
    (match s.store.port with | some t => decide (t.req.client = c) && !t.void | none => false)

/-- Reads of a page that has returned to FREE: waiting ones are withdrawn, a granted one completes unused, and a host
PAGE-READ that was waiting is answered NO_SUCH_PAGE (R3, R22). -/
def withdrawReads (h : PageHandle) (s : State) : State :=
  let gone (r : Request) : Bool := r.op.isRead && decide (r.op.page = h)
  let told := s.store.waiting.any fun r => gone r && decide (r.client = .hostXfer)
  let s := { s with store := { s.store with
    waiting := s.store.waiting.filter fun r => !gone r,
    port := s.store.port.map fun (t : Transfer) => if gone t.req then { t with void := true } else t } }
  match s.link.job with
  | some (.readPage tag _ _ _ _ _ _) =>
    if told then reply 0x13 tag .noSuchPage [] { s with link := { s.link with job := none } } else s
  | _ => s

/-! ### Allocation (R5) -/

inductive Allocation where
  | pass | storeFull | pageLimit
  deriving DecidableEq, Repr

/-- A write to the page needs a new segment. -/
def PageEntry.needsSegment (e : PageEntry) : Bool := decide (16 * e.chain.length ≤ e.committed)

/-- The allocation test for a block write of a client (R5). A page of 2048 segments is refused PAGE_LIMIT whatever the
free count (log 10). -/
def allocTest (s : State) (e : PageEntry) (c : Client) : Allocation :=
  if !e.needsSegment then .pass
  else if 2048 ≤ e.chain.length then .pageLimit
  else if s.freeCount = 0 then .storeFull
  else if (c = .scan ∨ c = .hostXfer) ∧ s.freeCount ≤ s.cfg.receptionReserve then .storeFull
  else .pass

/-- The level of a client's request (table of The store port arbiter): 3 while receiving, the document's priority
while sending. -/
def State.levelOf (s : State) : Client → Nat
  | .scan => 1
  | .print => 2
  | .hostXfer => 0
  | .lc l => match (s.line l).call with
    | some c => match c.out with
      | some o => o.priority
      | none => 3
    | none => 3

/-- A client asks to write a block: the allocation test is made, and on a pass the request waits at the port. -/
def askWrite (c : Client) (h : PageHandle) (data : List Byte) (close : Option CloseReq) (s : State) :
    State × Allocation :=
  match allocTest s (s.entry h.slot) c with
  | .pass => (queueRequest { client := c, level := s.levelOf c, op := .write h data close } s, .pass)
  | a => (s, a)

/-- A client asks to read a block (R12): the request waits when the handle names a CLOSED page that has the block. -/
def askRead (c : Client) (h : PageHandle) (block : Nat) (s : State) : State :=
  match s.page h with
  | some e =>
    if e.state = .closed ∧ block < e.committed then
      queueRequest { client := c, level := s.levelOf c, op := .read h block } s
    else s
  | none => s

/-! ### Opening (R4) -/

def Client.holdsOpen (s : State) (c : Client) : Bool :=
  0 < s.store.dir.count fun e => decide (e.state = .opened) && decide (e.writer = some c)

/-- The count of OPEN pages of origin HOST. -/
def State.hostUploads (s : State) : Nat :=
  s.store.dir.count fun e => decide (e.state = .opened) && decide (e.origin = some .host)

/-- A writer opens a page (R4): the lowest FREE entry, or the refusal. -/
def openPage (c : Client) (origin : Origin) (cls : ResClass) (s : State) : Except Status (State × PageHandle) :=
  if c = .hostXfer ∧ 2 ≤ s.hostUploads then .error .busy
  else if c ≠ .hostXfer ∧ c.holdsOpen s then .error .busy
  else match s.store.dir.lowest 1024 fun e => decide (e.state = .free) with
    | none => .error .tableFull
    | some slot =>
      let issue := (s.entry slot).issue
      .ok (s.setEntry slot { PageEntry.freeWith issue with
        state := .opened, origin := some origin, writer := some c, cls, pins := if origin = .host then 1 else 0 },
        ⟨slot, issue⟩)

/-! ### Release and discard (R10, R13, R14) -/

/-- A page returns to FREE: its chain goes to the pool's tail in order, its entry is cleared with the issue advanced,
reads of it are withdrawn, and the STORE_LOW test is made (R2, R3, R6). -/
def freePage (h : PageHandle) (s : State) : State :=
  let e := s.entry h.slot
  let s := { s with store := { s.store with
    pool := s.store.pool.give e.chain,
    dir := s.store.dir.set h.slot (.freeWith (wrapSucc 64 e.issue)) } }
  lowTest (withdrawReads h s)

/-- The release test (R14): a CLOSED page without reference and pin is released. -/
def releaseTest (h : PageHandle) (s : State) : State :=
  match s.page h with
  | some e => if e.state = .closed ∧ e.refs = 0 ∧ e.pins = 0 then freePage h s else s
  | none => s

/-- A reference is let go, and the release test follows (R13). -/
def lowerRef (h : PageHandle) (s : State) : State :=
  match s.page h with
  | some e => releaseTest h (s.setEntry h.slot { e with refs := e.refs - 1 })
  | none => s

/-- References let go one after another, in list order (R68, R120). -/
def lowerRefs (hs : List PageHandle) (s : State) : State := hs.foldl (fun s h => lowerRef h s) s

/-- A reference is taken; `none` when its count would pass 4095 or the handle names no page (R13). -/
def raiseRef (h : PageHandle) (s : State) : Except Status State :=
  match s.page h with
  | none => .error .noSuchPage
  | some e => if e.refs < 4095 then .ok (s.setEntry h.slot { e with refs := e.refs + 1 }) else .error .tableFull

/-- References taken on every page of a list, or on none (R13). -/
def raiseRefs : List PageHandle → State → Except Status State
  | [], s => .ok s
  | h :: hs, s => match raiseRef h s with
    | .error e => .error e
    | .ok s' => raiseRefs hs s'

/-- The page leaves the page lists of the documents that hold it (R10). -/
def Doc.dropPage (h : PageHandle) (d : Doc) : Doc :=
  if d.pagesHeld then { d with pages := d.pages.filter fun p => decide (p ≠ h) } else d

/-- A writer discards its OPEN page (R10): writes of it in flight are aborted (R8), documents lose it, and it returns to
FREE without PAGE_CLOSED. -/
def discardPage (h : PageHandle) (s : State) : State :=
  let onPage (r : Request) : Bool := decide (r.op.page = h)
  freePage h { s with
    store := { s.store with
      waiting := s.store.waiting.filter fun r => !onPage r,
      port := s.store.port.map fun (t : Transfer) => if onPage t.req then { t with void := true } else t },
    docs := { s.docs with docs := s.docs.docs.map (Doc.dropPage h) } }

/-! ### Closing (R9) -/

/-- The page's reference count takes one more: a raise past 4095 is refused (R13). -/
def State.refTaken (s : State) (h : PageHandle) : Bool := Nat.blt (s.entry h.slot).refs 4095

/-- The document that takes the scan unit's page as it closes (R38, R39); none takes a page whose reference would be
refused (R13; log 42). -/
def State.scanTaker (s : State) (p : PageHandle) : Option DocHandle :=
  match s.scan.target with
  | none => none
  | some h =>
    let d := s.docs.docs.get h.slot
    if h.slot < 64 ∧ d.issue = h.issue ∧ d.state = .draft ∧ d.pages.length < 255 ∧ s.refTaken p then some h
    else none

/-- A pin is taken; the count stays within 0-15 (log 42). -/
def PageEntry.pinned (e : PageEntry) : PageEntry := { e with pins := satAdd 15 e.pins 1 }

/-- A reference is taken by a close; a raise past 4095 is refused and leaves the count (R13), and no list then takes the
page (R67; log 42). -/
def PageEntry.referenced (e : PageEntry) : PageEntry := { e with refs := satAdd 4095 e.refs 1 }

/-- The hold of a close request is applied: a reference, a pin, or the scan unit's choice of the two (R9, R38, R39;
log 42). -/
def applyHold (hold : Hold) (h : PageHandle) (s : State) : State :=
  match hold with
  | .none => s
  | .reference => s.modEntry h.slot PageEntry.referenced
  | .pin => s.modEntry h.slot PageEntry.pinned
  | .scanTarget => match s.scanTaker h with
    | some t =>
      let s := s.modEntry h.slot PageEntry.referenced
      { s with docs := { s.docs with docs := s.docs.docs.modify t.slot fun d => { d with pages := d.pages ++ [h] } } }
    | none =>
      let s := s.modEntry h.slot PageEntry.pinned
      { s with scan := { s.scan with target := none } }

/-- The fields of PAGE_CLOSED (R9). -/
def pageClosedFields (h : PageHandle) (e : PageEntry) : List Byte :=
  ePage h ++ (match e.origin with | some o => [o.code] | none => [0]) ++ eClass e.cls ++ e16 e.lineCount ++
    e32 e.byteLen ++ [e.flagsOctet]

/-- The page becomes CLOSED (R9): writer cleared, line count recorded, the requested flag and hold applied, PAGE_CLOSED
raised, and the release test made. -/
def finishClose (quiet : Bool) (h : PageHandle) (c : CloseReq) (s : State) : State :=
  let s := s.modEntry h.slot fun e =>
    { e with state := .closed, writer := none, lineCount := clamp 0 6912 c.lineCount,
             truncated := e.truncated || c.truncated, pending := [] }
  let s := applyHold c.hold h s
  releaseTest h (raiseUnless quiet .pageClosed (pageClosedFields h (s.entry h.slot)) s)

/-- The final block of a page: the code octets, the end-of-page token, zero octets to 256 (R9). -/
def finalBlock (code : List Byte) : List Byte := (code ++ [0xCF] ++ List.replicate 256 0).take 256

/-- What a close request did at once (R9): it waits for its final block, or the page is closed (`refused` when the
allocation test refused the final block, so that the page is TRUNCATED). -/
inductive CloseStart where
  | waits
  | closed (refused : Option Allocation)
  deriving DecidableEq, Repr

/-- A writer closes its page (R9): octets short of a whole block are asked to be written first as the final block. -/
def startClose (c : Client) (h : PageHandle) (code : List Byte) (req : CloseReq) (s : State) : State × CloseStart :=
  if code = [] then (finishClose false h req s, .closed none)
  else match askWrite c h (finalBlock code) (some { req with code := code.length }) s with
    | (s', .pass) => (s', .waits)
    | (s', a) => (finishClose false h { req with truncated := true } s', .closed (some a))

end Sys2Proof.Machine
end

