-- ==== Sys2Proof/Machine/Documents.lean ====
section
/-! DEFINITION. The document table, the destination pool and the dispatcher (chapter 3): the outcome of an attempt, the
withdrawn attempt, completion, deadlines, page release, and the pass that hands attempts to lines. -/

namespace Sys2Proof.Machine

/-- The document that a handle names (R46). -/
def State.doc (s : State) (h : DocHandle) : Option Doc :=
  let d := s.docs.docs.get h.slot
  if h.slot < 64 ∧ d.state ≠ .free ∧ d.issue = h.issue then some d else none

def State.setDoc (s : State) (slot : Nat) (d : Doc) : State :=
  { s with docs := { s.docs with docs := s.docs.docs.set slot d } }

def State.dest (s : State) (record : Nat) : Option Dest := s.docs.pool.get record

def State.setDest (s : State) (record : Nat) (d : Option Dest) : State :=
  { s with docs := { s.docs with pool := s.docs.pool.set record d } }

/-- The pool's count of free records (R47). -/
def DocTable.freeRecords (t : DocTable) : Nat := 2048 - t.pool.count Option.isSome

/-- The dispatcher is asked for a pass (R53). -/
def askPass (s : State) : State := { s with docs := { s.docs with passAsked := true } }

/-- A deadline is reached when the time is at or after it (R63). -/
def Doc.deadlineReached (d : Doc) (now : DateTime) : Bool :=
  match d.deadline with
  | some t => t.le now
  | none => false

/-- WAITING and RETRY_WAIT are the waiting states (3.2). -/
def DestState.isWaiting : DestState → Bool
  | .waiting | .retryWait => true
  | .onLine | .sent | .failed | .expired | .cancelled => false

/-- The final states (3.2). -/
def DestState.isFinal : DestState → Bool
  | .sent | .failed | .expired | .cancelled => true
  | .waiting | .onLine | .retryWait => false

/-- How many of a document's destinations satisfy `p`. -/
def State.countDests (s : State) (d : Doc) (p : DestState → Bool) : Nat :=
  (d.dests.filter fun r => match s.dest r with | some x => p x.state | none => false).length

/-- The tally of the state that a destination enters rises by `n` (R48). -/
def Doc.addTally (d : Doc) (st : DestState) (n : Nat) : Doc :=
  match st with
  | .sent => { d with sent := d.sent + n }
  | .failed => { d with failed := d.failed + n }
  | .expired => { d with expired := d.expired + n }
  | .cancelled => { d with cancelled := d.cancelled + n }
  | .waiting | .onLine | .retryWait => d

/-- A document with RELEASE_PAGES that has ended lets go of its pages (R68). -/
def releaseDocPages (slot : Nat) (s : State) : State :=
  let d := s.docs.docs.get slot
  if d.releasePages && d.pagesHeld then
    lowerRefs d.pages (s.setDoc slot { d with pagesHeld := false })
  else s

/-- The fields of DOC_DONE (R48). -/
def docDoneFields (slot : Nat) (d : Doc) : List Byte :=
  eDoc ⟨slot, d.issue⟩ ++ [d.state.code] ++ e8 d.sent ++ e8 d.failed ++ e8 d.expired ++ e8 d.cancelled

/-- A document ends (R48): its new state, the page release of R68, DOC_DONE. -/
def endDoc (quiet : Bool) (slot : Nat) (st : DocState) (s : State) : State :=
  let s := s.setDoc slot { s.docs.docs.get slot with state := st }
  let s := releaseDocPages slot s
  raiseUnless quiet .docDone (docDoneFields slot (s.docs.docs.get slot)) s

/-- The completion test of a QUEUED or ACTIVE document (R48). -/
def completeTest (quiet cancelled : Bool) (slot : Nat) (s : State) : State :=
  let d := s.docs.docs.get slot
  if d.state = .queued ∨ d.state = .active then
    if s.countDests d (fun st => !st.isFinal) = 0 then
      endDoc quiet slot (if cancelled then .cancelled else .done) s
    else s
  else s

/-- Every waiting destination of a list of records enters a state; how many did. -/
def moveWaiting (st : DestState) : List Nat → Table (Option Dest) → Table (Option Dest) × Nat
  | [], pool => (pool, 0)
  | r :: rs, pool =>
    match pool.get r with
    | some x =>
      if x.state.isWaiting then
        let (p, n) := moveWaiting st rs (pool.set r (some { x with state := st }))
        (p, n + 1)
      else moveWaiting st rs pool
    | none => moveWaiting st rs pool

/-- The waiting destinations of a document enter a final state, and the tally rises by their number (R63, R65). -/
def moveAllWaiting (st : DestState) (slot : Nat) (s : State) : State × Nat :=
  let d := s.docs.docs.get slot
  let (pool, n) := moveWaiting st d.dests s.docs.pool
  ({ s with docs := { s.docs with pool, docs := s.docs.docs.set slot (d.addTally st n) } }, n)

/-- The deadline of a QUEUED or ACTIVE document is reached (R63): its waiting destinations become EXPIRED, without
DEST_DONE, and completion is tested. -/
def expireDoc (slot : Nat) (s : State) : State :=
  let d := s.docs.docs.get slot
  if (d.state = .queued ∨ d.state = .active) ∧ d.deadlineReached s.now then
    completeTest false d.cancelReq slot (moveAllWaiting .expired slot s).1
  else s

/-- The deadline test against a new time, for every document, slot 0 first and slot 63 last (R63, R196; log 55). -/
def expireAll (s : State) : State := (List.range 64).foldl (fun s k => expireDoc k s) s

/-- The fields of DEST_DONE (R61). -/
def destDoneFields (h : DocHandle) (index : Nat) (x : Dest) (cause : Cause) : List Byte :=
  eDoc h ++ e8 index ++ [x.state.code] ++ eCause cause ++ e8 x.attempts ++ e8 x.confirmed

/-- Where an outcome report sends a destination (R61's table), `x` holding the advanced attempts. -/
def outcomeState (d : Doc) (x : Dest) (cause : Cause) (now : DateTime) : DestState :=
  if x.confirmed = d.pages.length then .sent
  else if d.cancelReq then .cancelled
  else if (match cause with | .barred => true | .dialError _ => true | _ => false) then .failed
  else if d.retryLimit + 1 ≤ x.attempts then .failed
  else if d.deadlineReached now then .expired
  else if cause = .reset then .waiting
  else .retryWait

/-- An attempt's outcome report (R61). -/
def outcomeReport (quiet : Bool) (h : DocHandle) (index : Nat) (cause : Cause) (release : DateTime)
    (logged : Option Nat) (s : State) : State :=
  askPass <|
  match s.doc h with
  | none => s
  | some d =>
    match d.dests[index]? with
    | none => s
    | some r =>
      match s.dest r with
      | none => s
      | some x =>
        let x := { x with attempts := x.attempts + 1, lastCause := some cause,
                          lastLog := match logged with | some q => some q | none => x.lastLog }
        let st := outcomeState d x cause s.now
        let x := { x with state := st,
                          eligible := if st = .retryWait then release.plus (10 * d.retryInterval) else x.eligible }
        let s := (s.setDest r (some x)).setDoc h.slot (d.addTally st 1)
        if st.isFinal then
          completeTest quiet d.cancelReq h.slot (raiseUnless quiet .destDone (destDoneFields h index x cause) s)
        else s

/-- Where a withdrawn attempt leaves its destination (R59). -/
def withdrawnState (d : Doc) (now : DateTime) : DestState :=
  if d.cancelReq then .cancelled else if d.deadlineReached now then .expired else .waiting

/-- A withdrawn attempt (R59): uncounted; the destination leaves ON_LINE and the dispatcher is asked for a pass. -/
def withdrawAttempt (h : DocHandle) (index : Nat) (s : State) : State :=
  askPass <|
  match s.doc h with
  | none => s
  | some d =>
    match d.dests[index]? with
    | none => s
    | some r =>
      match s.dest r with
      | none => s
      | some x =>
        let st := withdrawnState d s.now
        let s := (s.setDest r (some { x with state := st })).setDoc h.slot (d.addTally st 1)
        if st.isFinal then completeTest false d.cancelReq h.slot s else s

/-- A confirmed page (R60): the destination's pages confirmed advances, never past the page list's length. -/
def confirmPage (h : DocHandle) (index : Nat) (s : State) : State :=
  match s.doc h with
  | none => s
  | some d =>
    match d.dests[index]? with
    | none => s
    | some r =>
      match s.dest r with
      | none => s
      | some x => s.setDest r (some { x with confirmed := min d.pages.length (x.confirmed + 1) })

/-! ### The dispatcher (3.5) -/

/-- A line able to answer, for the inbound reserve (R54). -/
def Line.ableToAnswer (x : Line) : Bool :=
  (x.config.direction = .inOnly || x.config.direction = .both) && x.state = .idle && x.attempt.isNone

/-- The lines able to answer, the line under test left out (a line configured OUT is none of them anyway; R54). -/
def State.ableOthers (s : State) (l : LineNo) : Nat :=
  (allLines.filter fun k => decide (k ≠ l) && (s.line k).ableToAnswer).length

/-- A line free for outbound (R54). -/
def State.freeForOutbound (s : State) (l : LineNo) : Bool :=
  let x := s.line l
  x.state = .idle && x.attempt.isNone && (x.config.direction = .outOnly || x.config.direction = .both) &&
    s.logHasRoom && decide (s.cfg.inboundReserve ≤ s.ableOthers l)

/-- A destination is eligible (R56). -/
def Dest.isEligible (x : Dest) (now : DateTime) : Bool :=
  x.state = .waiting || (x.state = .retryWait && x.eligible.le now)

/-- The eligible destination of lowest index, counted from `k` (R56). -/
def State.firstEligible (s : State) : (k : Nat) → List Nat → Option Nat
  | _, [] => none
  | k, r :: rs =>
    match s.dest r with
    | some x => if x.isEligible s.now then some k else s.firstEligible (k + 1) rs
    | none => s.firstEligible (k + 1) rs

/-- The dispatcher's order of documents (R55): priority, deadline, submission sequence, slot. -/
def docBefore (a b : Nat × Doc) : Bool :=
  if a.2.priority ≠ b.2.priority then decide (b.2.priority < a.2.priority)
  else
    let byDeadline : Option Bool := match a.2.deadline, b.2.deadline with
      | some x, some y => if x.tenths = y.tenths then none else some (decide (x.tenths < y.tenths))
      | some _, none => some true
      | none, some _ => some false
      | none, none => none
    match byDeadline with
    | some r => r
    | none =>
      if seqBefore a.2.sequence b.2.sequence then true
      else if seqBefore b.2.sequence a.2.sequence then false
      else decide (a.1 < b.1)

/-- A document the dispatcher considers (R55): QUEUED or ACTIVE, not cancelled, its desk not at its limit. -/
def State.dispatchable (s : State) (d : Doc) : Bool :=
  (d.state = .queued || d.state = .active) && !d.cancelReq && !(s.desks.get d.desk).reached

/-- The document and destination index that the dispatcher takes (R55, R56): the winner of the comparisons made from slot 0
upward, which is the first of the order wherever R55 gives one (log 48). -/
def State.choose (s : State) : Option (Nat × Nat) :=
  let candidates := ((List.range 64).map fun k => (k, s.docs.docs.get k)).filter fun c =>
    s.dispatchable c.2 && (s.firstEligible 0 c.2.dests).isSome
  match candidates with
  | [] => none
  | c :: cs =>
    let best := cs.foldl (fun b x => if docBefore x b then x else b) c
    (s.firstEligible 0 best.2.dests).map fun i => (best.1, i)

/-- The hand-off of an attempt to a line (R57). Buffer, charge point and charged number, kept from the last attempt, go
with it (R76). -/
def handOff (l : LineNo) (slot index : Nat) (s : State) : State :=
  let d := s.docs.docs.get slot
  match d.dests[index]? with
  | none => s
  | some r =>
    match s.dest r with
    | none => s
    | some x =>
      let s := s.setDest r (some { x with state := .onLine, lastLine := some l })
      let s := s.setDoc slot { d with state := if d.state = .queued then .active else d.state }
      s.modLine l fun y => { y with
        attempt := some { doc := ⟨slot, d.issue⟩, index, dial := x.dial, desk := d.desk, priority := d.priority,
                          firstPage := x.confirmed, expanded := false },
        expander := .reset, charged := [] }

/-- One line's turn in a pass (R53). -/
def passLine (s : State) (l : LineNo) : State :=
  if s.freeForOutbound l then
    match s.choose with
    | some (slot, index) => handOff l slot index s
    | none => s
  else s

/-- A dispatcher pass over LC0 to LC3 (R53). -/
def dispatcherPass (s : State) : State :=
  allLines.foldl passLine { s with docs := { s.docs with passAsked := false } }

end Sys2Proof.Machine
end

