-- ==== Sys2Proof/Machine/Charging.lean ====
section
/-! DEFINITION. The charging unit's own work (chapter 8): the zone lookup, the capture at connect, metering pulses, and
the charge of a call at its release. -/

namespace Sys2Proof.Machine

/-! ### Prefixes and the zone lookup (8.2) -/

/-- Digit-string order (R154): the lower digit first; a prefix of another string before it. -/
def digitsBefore : List Nat → List Nat → Bool
  | [], [] => false
  | [], _ :: _ => true
  | _ :: _, [] => false
  | a :: r, b :: q => if a = b then digitsBefore r q else decide (a < b)

/-- A prefix matches a number (R155). -/
def prefixMatches : List Nat → List Nat → Bool
  | [], _ => true
  | _ :: _, [] => false
  | a :: r, b :: q => a = b && prefixMatches r q

/-- The longest matching prefix (R155). -/
def longestMatch (number : List Nat) : List PrefixEntry → Option PrefixEntry
  | [] => none
  | e :: es =>
    match longestMatch number es with
    | none => if prefixMatches e.digits number then some e else none
    | some w =>
      if prefixMatches e.digits number && decide (w.digits.length < e.digits.length) then some e else some w

/-- The zone lookup (R155): the winning prefix's zone, or the default zone; none is BARRED. -/
def Charging.lookup (c : Charging) (number : List Nat) : Option Nat :=
  match longestMatch number c.prefixes with
  | some e => e.zone
  | none => c.defaultZone

/-- A prefix takes a zone (R156): its entry is overwritten, or inserted at its place in the order. -/
def putPrefix (e : PrefixEntry) : List PrefixEntry → List PrefixEntry
  | [] => [e]
  | x :: xs =>
    if x.digits = e.digits then e :: xs
    else if digitsBefore e.digits x.digits then e :: x :: xs
    else x :: putPrefix e xs

/-- The position of a prefix in the list. -/
def prefixPosition (digits : List Nat) (l : List PrefixEntry) : Option Nat := l.findIdx? fun e => decide (e.digits = digits)

/-! ### Capture at connect (8.5) -/

/-- The eight rate entries of a zone row, a missing one charging nothing. -/
def rateAt (rates : List Rate) (band : Nat) : Rate := (rates[band]?).getD ⟨0, 0⟩

/-- The charging state that the connect of an OUT call of a zone fills (R164). -/
def captureRow (c : Charging) (zone : Nat) (metered : Bool) : ChargeState :=
  let z := c.zones.get zone
  { captured := true, zone, rates := z.rates, rounding := z.rounding, minimum := z.minimum, price := c.price,
    metered, pulses := 0, saturated := false }

/-- A metering pulse (R165). -/
def ChargeState.pulse (c : ChargeState) : ChargeState :=
  if c.captured && c.metered then
    if c.pulses < 65535 then { c with pulses := c.pulses + 1 } else { c with saturated := true }
  else c

/-! ### The charge at release (8.6) -/

/-- The figures of a call (8.6). -/
structure Figures where
  duration : Nat
  computed : Nat
  metered  : Option Nat
  units    : Nat
  cost     : Nat
  flags    : LogFlags
  deriving DecidableEq, Repr

/-- The figures of a call that never connected (R166). -/
def Figures.none : Figures := ⟨0, 0, .none, 0, 0, .none⟩

/-- The duration of a connected call, with CLOCK_STEP for a difference below 0 and LONG for one above 24 hours (R167). -/
def callDuration (connect release : DateTime) : Nat × LogFlags :=
  if release.tenths < connect.tenths then (0, { LogFlags.none with clockStep := true })
  else
    let d := release.tenths - connect.tenths
    if 864000 < d then (864000, { LogFlags.none with long := true }) else (d, .none)

/-- Ascending insertion that keeps a value once. -/
def insertOnce (x : Nat) : List Nat → List Nat
  | [] => [x]
  | y :: ys => if x = y then y :: ys else if x < y then x :: y :: ys else y :: insertOnce x ys

/-- The midnight and the band start instants of a day, in tenths since 2000-01-01 (R168). -/
def dayInstants (c : Charging) (day : Nat) : List Nat :=
  day * 864000 :: (c.schedule (dayType c (dateOfDays day))).map fun st => day * 864000 + st.1 * 600

/-- The cut points strictly inside an interval of at most 24 hours (R168): it touches its first day and the next. -/
def cutPoints (c : Charging) (start stop : Nat) : List Nat :=
  let day := start / 864000
  ((dayInstants c day ++ dayInstants c (day + 1)).filter fun x => decide (start < x) && decide (x < stop)).foldr
    insertOnce []

/-- The pieces between successive instants: the first instant of each, and its duration. -/
def piecesFrom (start : Nat) : (cuts : List Nat) → (stop : Nat) → List (Nat × Nat)
  | [], stop => [(start, stop - start)]
  | x :: xs, stop => (start, x - start) :: piecesFrom x xs stop

/-- The pieces of the connected time (R168): none for a duration of 0. -/
def callPieces (c : Charging) (connect : DateTime) (duration : Nat) : List (Nat × Nat) :=
  if duration = 0 then []
  else
    let start := connect.tenths
    piecesFrom start (cutPoints c start (start + duration)) (start + duration)

/-- A piece's charge in 1/256 of a unit at a period, 0 for a period of 0 (R169). -/
def pieceCharge (duration period : Nat) : Nat := 256 * duration / period

/-- The sum over the pieces (R169). -/
def piecesCharge (c : Charging) (rates : List Rate) (pieces : List (Nat × Nat)) : Nat :=
  (pieces.map fun p => pieceCharge p.2 (rateAt rates (bandAt c (timeOfTenths p.1))).period).sum

/-- Whole units and fraction rounded (R170). -/
def roundUnits (mode : ZoneRounding) (sum : Nat) : Nat :=
  let w := sum / 256
  let f := sum % 256
  match mode with
  | .up => if 0 < f then w + 1 else w
  | .nearestEven => if f < 128 then w else if 128 < f then w + 1 else if w % 2 = 0 then w else w + 1

/-- The computed units, with UNITS_SAT (R171). -/
def computedUnits (ch : ChargeState) (setup rounded : Nat) : Nat × Bool :=
  let u := max ch.minimum (setup + rounded)
  if 65535 < u then (65535, true) else (u, false)

/-- Metered and computed units differ by more than the tolerance (R172). -/
def unitsMismatch (metered computed tolerance : Nat) : Bool :=
  decide (tolerance < metered - computed) || decide (tolerance < computed - metered)

/-- The figures of a connected OUT call (R167 to R173). -/
def outFigures (c : Charging) (tolerance : Nat) (ch : ChargeState) (connect release : DateTime) : Figures :=
  let (d, dFlags) := callDuration connect release
  let sum := piecesCharge c ch.rates (callPieces c connect d)
  let (u, uSat) := computedUnits ch (rateAt ch.rates (bandAt c connect)).setup (roundUnits ch.rounding sum)
  if ch.metered then
    let n := if ch.saturated then 65535 else ch.pulses
    { duration := d, computed := u, metered := some n, units := n, cost := n * ch.price,
      flags := { dFlags with mismatch := unitsMismatch n u tolerance, unitsSat := uSat || ch.saturated } }
  else
    { duration := d, computed := u, metered := Option.none, units := u, cost := u * ch.price,
      flags := { dFlags with unitsSat := uSat } }

/-- The figures of a released call (R166), `release` being its release time. -/
def callFigures (c : Charging) (tolerance : Nat) (ch : ChargeState) (call : CallRec) (release : DateTime) : Figures :=
  match call.connect with
  | .none => .none
  | some connect =>
    if call.out.isSome then outFigures c tolerance ch connect release
    else
      let (d, flags) := callDuration connect release
      { Figures.none with duration := d, flags }

end Sys2Proof.Machine
end

