-- ==== Sys2Proof/Machine/Desks.lean ====
section
/-! DEFINITION. The desk table and the call log (chapter 9): the addition of a call and the limit test, the reservation
of a log position, and the filling of a record at release. -/

namespace Sys2Proof.Machine

/-! ### Desks (9.2) -/

def State.desk (s : State) (n : Nat) : Desk := s.desks.get n

def State.setDesk (s : State) (n : Nat) (d : Desk) : State := { s with desks := s.desks.set n d }

/-- The desk has a limit and its cost total is at or above it (R178). -/
def Desk.atLimit (d : Desk) : Bool :=
  match d.limit with
  | some l => decide (l ≤ d.cost)
  | none => false

/-- The fields of DESK_LIMIT (R178). -/
def deskLimitFields (n : Nat) (d : Desk) : List Byte :=
  e8 n ++ e32 d.cost ++ e32 (d.limit.getD 0) ++ e16 d.calls

/-- The limit test (R178). -/
def deskTest (n : Nat) (s : State) : State :=
  let d := s.desk n
  if d.atLimit && !d.reached then raise .deskLimit (deskLimitFields n d) (s.setDesk n { d with reached := true })
  else if !d.atLimit && d.reached then askPass (s.setDesk n { d with reached := false })
  else s

/-- A call's units and cost join a desk record, saturating (R177). -/
def Desk.add (d : Desk) (units cost : Nat) : Desk :=
  { d with cost := satAdd 4294967295 d.cost cost, saturated := d.saturated || decide (4294967295 < d.cost + cost),
           units := satAdd 4294967295 d.units units, calls := satAdd 65535 d.calls 1 }

/-- The addition of a call to its desk, with the limit test (R177). -/
def deskAdd (n units cost : Nat) (s : State) : State := deskTest n (s.setDesk n ((s.desk n).add units cost))

/-! ### The call log (9.5, 9.6) -/

/-- A reservation asked for (R184): granted while the filled and the reserved together are below 256. -/
def logReserve (s : State) : Option State :=
  if s.log.records.length + s.log.reserved < 256 then
    some { s with log := { s.log with reserved := s.log.reserved + 1 } }
  else none

/-- A reservation given back without a record: the dispatcher makes a pass (R185). -/
def logGiveBack (s : State) : State := askPass { s with log := { s.log with reserved := s.log.reserved - 1 } }

/-- The record of a released call (R183). -/
def logRecordOf (l : LineNo) (sequence : Nat) (call : CallRec) (cause : Cause) (release : DateTime) (f : Figures) :
    LogRecord :=
  { sequence, line := l, out := call.out, charged := if call.out.isSome then call.charged else [],
    zone := if call.out.isSome then call.zone else none, start := call.start, connect := call.connect, release,
    duration := f.duration, computed := f.computed, metered := f.metered, units := f.units, cost := f.cost, cause,
    pages := call.pages, flags := call.flags.join f.flags }

/-- The fields of LOG_NEAR_FULL (R189). -/
def logNearFullFields (g : CallLog) : List Byte :=
  e16 g.records.length ++ e16 g.reserved ++ e16 (match g.records with | r :: _ => r.sequence | [] => 0)

/-- The fill of a reservation, with LOG_NEAR_FULL when it brings the filled count to 224 (R186, R189). -/
def logFill (r : LogRecord) (s : State) : State :=
  let g := { s.log with records := s.log.records ++ [r], reserved := s.log.reserved - 1,
                        sequence := wrapSucc 65536 s.log.sequence }
  if g.records.length = 224 ∧ g.armed then
    raise .logNearFull (logNearFullFields g) { s with log := { g with armed := false } }
  else { s with log := g }

/-- The charging unit's, desk table's and call log's part of a release (R166 to R173, R177, R186): the figures, the
desk's addition for an OUT call, the record; the record's sequence is handed back. -/
def chargeAndLog (l : LineNo) (call : CallRec) (cause : Cause) (release : DateTime) (s : State) : State × Nat :=
  let f := callFigures s.charge s.cfg.tolerance (s.line l).charging call release
  let s := s.modLine l fun x => { x with charging := { x.charging with captured := false } }
  let s := match call.out with
    | some o => deskAdd o.desk f.units f.cost s
    | none => s
  let q := s.log.sequence
  (logFill (logRecordOf l q call cause release f) s, q)

end Sys2Proof.Machine
end

