-- ==== Sys2Proof/Machine/ChargeCommands.lean ====
section
/-! DEFINITION. The commands of the charging tables, of the desks and of the call log (8.2 to 8.4, 9.3, 9.7), and the
metering pulse (R165). -/

namespace Sys2Proof.Machine

/-! ### PREFIX-SET (R156) -/

/-- The operation octet of PREFIX-SET selects the row; an empty body and an unknown operation are refused by any
(log 13). -/
def prefixForm (op : Nat) : List Byte → Bool
  | [] => true
  | o :: _ => decide (o.toNat = op) || decide (3 < o.toNat)

/-- The fields behind the operation octet. -/
def prefixFields : List Byte → Except Status (List Byte)
  | [] => .error .badLength
  | o :: r => if 3 < o.toNat then .error .badField else .ok r

def eZone (z : Option Nat) : List Byte := eOpt e8 z

/-- Entry count and default zone, as the replies of R156 carry them. -/
def prefixTail (c : Charging) : List Byte := e8 c.prefixes.length ++ eZone c.defaultZone

/-- SET: a prefix takes a zone, or with no digits the default zone does. -/
def prefixSet (body : List Byte) (s : State) : Except Status (State × List Byte) :=
  match prefixFields body with
  | .error e => .error e
  | .ok r =>
    match readCounted r with
    | .error e => .error e
    | .ok (d, q) =>
      match readOptOctet q with
      | .error e => .error e
      | .ok zone =>
        match digitsOf d with
        | none => .error .badField
        | some digits =>
          if 12 < digits.length ∨ zone.any (fun z => decide (15 < z)) then .error .badField
          else if digits = [] then
            let c := { s.charge with defaultZone := zone }
            .ok ({ s with charge := c }, prefixTail c ++ eOpt e8 none)
          else if 128 ≤ s.charge.prefixes.length ∧ (prefixPosition digits s.charge.prefixes).isNone then
            .error .tableFull
          else
            let c := { s.charge with prefixes := putPrefix ⟨digits, zone⟩ s.charge.prefixes }
            .ok ({ s with charge := c }, prefixTail c ++ eOpt e8 (prefixPosition digits c.prefixes))

/-- REMOVE: the entry holding the prefix is removed. -/
def prefixRemove (body : List Byte) (s : State) : Except Status (State × List Byte) :=
  match prefixFields body with
  | .error e => .error e
  | .ok r =>
    match readCounted r with
    | .error e => .error e
    | .ok (_, _ :: _) => .error .badLength
    | .ok (d, []) =>
      match digitsOf d with
      | none => .error .badField
      | some digits =>
        if digits = [] ∨ 12 < digits.length then .error .badField
        else if (prefixPosition digits s.charge.prefixes).isNone then .error .noSuchEntry
        else
          let c := { s.charge with prefixes := s.charge.prefixes.filter fun e => decide (e.digits ≠ digits) }
          .ok ({ s with charge := c }, prefixTail c)

/-- An entry of the READ reply. -/
def ePrefixEntry (x : PrefixEntry × Nat) : List Byte := e8 x.2 ++ eDigits x.1.digits ++ eZone x.1.zone

/-- READ: up to 8 entries from a position on. -/
def prefixRead (body : List Byte) (s : State) : Except Status (State × List Byte) :=
  match prefixFields body with
  | .error e => .error e
  | .ok [p] =>
    if s.charge.prefixes.length ≤ p.toNat then .error .noSuchEntry
    else .ok (s, eList ePrefixEntry ((s.charge.prefixes.zipIdx.drop p.toNat).take 8) ++ prefixTail s.charge)
  | .ok _ => .error .badLength

/-- TEST: the lookup of R155 on a number. -/
def prefixTest (body : List Byte) (s : State) : Except Status (State × List Byte) :=
  match prefixFields body with
  | .error e => .error e
  | .ok r =>
    match readCounted r with
    | .error e => .error e
    | .ok (_, _ :: _) => .error .badLength
    | .ok (d, []) =>
      match digitsOf d with
      | none => .error .badField
      | some digits =>
        if 32 < digits.length then .error .badField
        else .ok (s, eZone (s.charge.lookup digits) ++
          eOpt (fun e : PrefixEntry => eDigits e.digits) (longestMatch digits s.charge.prefixes))

def execPrefixSetSet (tag : Byte) (body : List Byte) (s : State) : Outcome :=
  .next (formCommand (prefixForm 0 body) 0x48 tag body (prefixSet body) s)

def execPrefixSetRemove (tag : Byte) (body : List Byte) (s : State) : Outcome :=
  .next (formCommand (prefixForm 1 body) 0x48 tag body (prefixRemove body) s)

def execPrefixSetRead (tag : Byte) (body : List Byte) (s : State) : Outcome :=
  .next (formCommand (prefixForm 2 body) 0x48 tag body (prefixRead body) s)

def execPrefixSetTest (tag : Byte) (body : List Byte) (s : State) : Outcome :=
  .next (formCommand (prefixForm 3 body) 0x48 tag body (prefixTest body) s)

/-! ### ZONE-SET and RATE-SET (R157, R158, R163) -/

/-- A zone's whole row: rounding mode, minimum units, setup units and period of its eight bands (R157). -/
def zoneRowFields (c : Charging) (zone : Nat) : List Byte :=
  let z := c.zones.get zone
  [z.rounding.code] ++ e8 z.minimum ++
    (List.range 8).flatMap fun b => e8 (rateAt z.rates b).setup ++ e16 (rateAt z.rates b).period

def zoneWrite (body : List Byte) (s : State) : Except Status (State × List Byte) :=
  match body with
  | [z, m, n] =>
    if 15 < z.toNat then .error .noSuchEntry
    else match zoneRoundingOf m with
      | none => .error .badField
      | some mode =>
        let c := { s.charge with
          zones := s.charge.zones.modify z.toNat fun r => { r with rounding := mode, minimum := clamp 0 15 n.toNat } }
        .ok ({ s with charge := c }, zoneRowFields c z.toNat)
  | _ => .error .badLength

/-- The read form of ZONE-SET and of RATE-SET: the zone alone. -/
def zoneRead (body : List Byte) (s : State) : Except Status (State × List Byte) :=
  match body with
  | [z] => if 15 < z.toNat then .error .noSuchEntry else .ok (s, zoneRowFields s.charge z.toNat)
  | _ => .error .badLength

def rateWrite (body : List Byte) (s : State) : Except Status (State × List Byte) :=
  match body with
  | [z, b, setup, p1, p0] =>
    if 15 < z.toNat ∨ 7 < b.toNat then .error .noSuchEntry
    else
      let rate : Rate := ⟨clamp 0 15 setup.toNat, clamp 0 65535 (nat16 p1 p0)⟩
      let c := { s.charge with
        zones := s.charge.zones.modify z.toNat fun r => { r with rates := r.rates.set b.toNat rate } }
      .ok ({ s with charge := c }, zoneRowFields c z.toNat)
  | _ => .error .badLength

def execZoneSet (tag : Byte) (body : List Byte) (s : State) : Outcome :=
  .next (formCommand (decide (body.length ≠ 1)) 0x49 tag body (zoneWrite body) s)

def execZoneSetRead (tag : Byte) (body : List Byte) (s : State) : Outcome :=
  .next (formCommand (decide (body.length ≠ 3)) 0x49 tag body (zoneRead body) s)

def execRateSet (tag : Byte) (body : List Byte) (s : State) : Outcome :=
  .next (formCommand (decide (body.length ≠ 1)) 0x4D tag body (rateWrite body) s)

def execRateSetRead (tag : Byte) (body : List Byte) (s : State) : Outcome :=
  .next (formCommand (decide (body.length ≠ 5)) 0x4D tag body (zoneRead body) s)

/-! ### BAND-SET (R160) -/

/-- Band starts from octets of three each: start minute and band. -/
def bandStarts : List Byte → List (Nat × Nat)
  | a :: b :: c :: r => (nat16 a b, c.toNat) :: bandStarts r
  | _ => []

/-- Insertion by start minute. -/
def insertStart (x : Nat × Nat) : List (Nat × Nat) → List (Nat × Nat)
  | [] => [x]
  | y :: ys => if x.1 < y.1 then x :: y :: ys else y :: insertStart x ys

/-- No start minute stands twice. -/
def minutesOnce : List (Nat × Nat) → Bool
  | [] => true
  | x :: xs => xs.all (fun y => decide (y.1 ≠ x.1)) && minutesOnce xs

def eBandStart (st : Nat × Nat) : List Byte := e16 st.1 ++ e8 st.2

def bandWrite (body : List Byte) (s : State) : Except Status (State × List Byte) :=
  match body with
  | d :: n :: r =>
    if r.length ≠ 3 * n.toNat then .error .badLength
    else match dayTypeOf d with
      | none => .error .badField
      | some dt =>
        let starts := bandStarts r
        if 8 < n.toNat ∨ (starts.any fun st => decide (1439 < st.1) || decide (7 < st.2)) ∨ !minutesOnce starts then
          .error .badField
        else
          let kept := starts.foldr insertStart []
          let c := match dt with
            | .workday => { s.charge with workday := kept }
            | .saturday => { s.charge with saturday := kept }
            | .restDay => { s.charge with restDay := kept }
          .ok ({ s with charge := c }, eList eBandStart kept)
  | _ => .error .badLength

def bandRead (body : List Byte) (s : State) : Except Status (State × List Byte) :=
  match body with
  | [d] => match dayTypeOf d with
    | none => .error .badField
    | some dt => .ok (s, eList eBandStart (s.charge.schedule dt))
  | _ => .error .badLength

def execBandSet (tag : Byte) (body : List Byte) (s : State) : Outcome :=
  .next (formCommand (decide (body.length ≠ 1)) 0x4A tag body (bandWrite body) s)

def execBandSetRead (tag : Byte) (body : List Byte) (s : State) : Outcome :=
  .next (formCommand (decide (body.length ≤ 1)) 0x4A tag body (bandRead body) s)

/-! ### WEEKDAY-SET and HOLIDAY-SET (R162) -/

def weekdayFields (c : Charging) : List Byte := c.weekdays.map DayType.code

def weekdayWrite (body : List Byte) (s : State) : Except Status (State × List Byte) :=
  if body.length ≠ 7 then .error .badLength
  else match allSome (body.map dayTypeOf) with
    | none => .error .badField
    | some days =>
      let c := { s.charge with weekdays := days }
      .ok ({ s with charge := c }, weekdayFields c)

def weekdayRead (body : List Byte) (s : State) : Except Status (State × List Byte) :=
  if body = [] then .ok (s, weekdayFields s.charge) else .error .badLength

def holidayFields (c : Charging) : List Byte := (c.holidays.toList 16).flatMap (eOpt eDate)

def holidayWrite (body : List Byte) (s : State) : Except Status (State × List Byte) :=
  match body with
  | [] => .error .badLength
  | n :: r =>
    match readOpt 3 r with
    | .error e => .error e
    | .ok (_, _ :: _) => .error .badLength
    | .ok (v, []) =>
      if 15 < n.toNat then .error .noSuchEntry
      else
        let date : Option Date := match v with
          | some [y, m, d] => some (dateOf y m d)
          | _ => none
        if date.all Date.valid then
          let c := { s.charge with holidays := s.charge.holidays.set n.toNat date }
          .ok ({ s with charge := c }, holidayFields c)
        else .error .badField

def holidayRead (body : List Byte) (s : State) : Except Status (State × List Byte) :=
  if body = [] then .ok (s, holidayFields s.charge) else .error .badLength

def execWeekdaySet (tag : Byte) (body : List Byte) (s : State) : Outcome :=
  .next (formCommand (decide (body ≠ [])) 0x4B tag body (weekdayWrite body) s)

def execWeekdaySetRead (tag : Byte) (body : List Byte) (s : State) : Outcome :=
  .next (formCommand (decide (body.length ≠ 7)) 0x4B tag body (weekdayRead body) s)

def execHolidaySet (tag : Byte) (body : List Byte) (s : State) : Outcome :=
  .next (formCommand (decide (body ≠ [])) 0x4C tag body (holidayWrite body) s)

def execHolidaySetRead (tag : Byte) (body : List Byte) (s : State) : Outcome :=
  .next (formCommand (decide (body = [])) 0x4C tag body (holidayRead body) s)

/-! ### PRICE-SET (R159) -/

def priceWrite (body : List Byte) (s : State) : Except Status (State × List Byte) :=
  match body with
  | [a, b] =>
    let price := clamp 1 65535 (nat16 a b)
    .ok ({ s with charge := { s.charge with price } }, e16 price)
  | _ => .error .badLength

def priceRead (body : List Byte) (s : State) : Except Status (State × List Byte) :=
  if body = [] then .ok (s, e16 s.charge.price) else .error .badLength

def execPriceSet (tag : Byte) (body : List Byte) (s : State) : Outcome :=
  .next (formCommand (decide (body ≠ [])) 0x4E tag body (priceWrite body) s)

def execPriceSetRead (tag : Byte) (body : List Byte) (s : State) : Outcome :=
  .next (formCommand (decide (body.length ≠ 2)) 0x4E tag body (priceRead body) s)

/-! ### Desks (R179 to R181) -/

/-- A desk's whole record (9.1). -/
def deskFields (d : Desk) : List Byte :=
  e32 d.cost ++ e32 d.units ++ e16 d.calls ++ eOpt e32 d.limit ++ eBool d.reached ++ eBool d.saturated

def deskSet (body : List Byte) (s : State) : Except Status (State × List Byte) :=
  match body with
  | [] => .error .badLength
  | n :: r =>
    match readOpt 4 r with
    | .error e => .error e
    | .ok (_, _ :: _) => .error .badLength
    | .ok (v, []) =>
      if 15 < n.toNat then .error .noSuchEntry
      else
        let limit : Option Nat := match v with
          | some [a, b, c, d] => some (clamp 1 4294967295 (nat32 a b c d))
          | _ => none
        let s := deskTest n.toNat (s.setDesk n.toNat { s.desk n.toNat with limit })
        .ok (s, deskFields (s.desk n.toNat))

/-- The desks that a desk number or ALL names; none for a number outside 0-15 (R180, R181). -/
def desksNamed : Option Nat → Option (List Nat)
  | none => some (List.range 16)
  | some n => if n ≤ 15 then some [n] else none

/-- DESK-CLEAR of one desk: the dispatcher makes a pass if the limit had been reached (R180). -/
def deskClearOne (s : State) (n : Nat) : State :=
  let d := s.desk n
  let s := s.setDesk n { d with cost := 0, units := 0, calls := 0, saturated := false, reached := false }
  if d.reached then askPass s else s

def deskClear (body : List Byte) (s : State) : Except Status (State × List Byte) :=
  match readOptOctet body with
  | .error e => .error e
  | .ok v => match desksNamed v with
    | none => .error .noSuchEntry
    | some ns => .ok (ns.foldl deskClearOne s, eList (fun n => deskFields (s.desk n)) ns)

/-- The calls in progress whose record names a desk. -/
def State.deskCalls (s : State) (n : Nat) : Nat :=
  (allLines.filter fun l => (s.line l).state.inProgress &&
    (match (s.line l).call with
     | some c => (match c.out with | some o => decide (o.desk = n) | none => false)
     | none => false)).length

/-- The QUEUED and ACTIVE documents of a desk. -/
def State.deskDocs (s : State) (n : Nat) : Nat :=
  ((List.range 64).filter fun k =>
    let d := s.docs.docs.get k
    (d.state = .queued || d.state = .active) && decide (d.desk = n)).length

def deskRead (body : List Byte) (s : State) : Except Status (State × List Byte) :=
  match readOptOctet body with
  | .error e => .error e
  | .ok v => match desksNamed v with
    | none => .error .noSuchEntry
    | some ns => .ok (s, eList (fun n => deskFields (s.desk n) ++ e8 (s.deskCalls n) ++ e8 (s.deskDocs n)) ns)

def execDeskSet (tag : Byte) (body : List Byte) (s : State) : Outcome := .next (command 0x4F tag body (deskSet body) s)

def execDeskRead (tag : Byte) (body : List Byte) (s : State) : Outcome := .next (command 0x50 tag body (deskRead body) s)

def execDeskClear (tag : Byte) (body : List Byte) (s : State) : Outcome := .next (command 0x51 tag body (deskClear body) s)

/-! ### The call log (R187, R188) -/

/-- A log record's fields in the order of R182's table. -/
def eLogRecord (r : LogRecord) : List Byte :=
  e16 r.sequence ++ e8 r.line.val ++ [if r.out.isSome then 0 else 1] ++ eOpt (fun o : OutCall => e8 o.desk) r.out ++
    eOpt (fun o : OutCall => eDoc o.doc) r.out ++ eOpt (fun o : OutCall => e8 o.index) r.out ++ eDigits r.charged ++
    eOpt e8 r.zone ++ eTime r.start ++ eOpt eTime r.connect ++ eTime r.release ++ e32 r.duration ++ e16 r.computed ++
    eOpt e16 r.metered ++ e16 r.units ++ e32 r.cost ++ eCause r.cause ++ e8 r.pages ++ [r.flags.octet]

def logRead (body : List Byte) (s : State) : Except Status (State × List Byte) :=
  match body with
  | [n] => .ok (s, eList eLogRecord (s.log.records.take (clamp 1 4 n.toNat)) ++ e16 s.log.records.length ++
      e16 s.log.reserved ++ e16 s.log.sequence ++ eBool s.log.armed)
  | _ => .error .badLength

/-- LOG-DISCARD: the oldest records leave; a pass is asked for, and LOG_NEAR_FULL armed again below 224 (R188). -/
def logDiscard (body : List Byte) (s : State) : Except Status (State × List Byte) :=
  match body with
  | [a, b] =>
    let k := min (clamp 0 256 (nat16 a b)) s.log.records.length
    let records := s.log.records.drop k
    let s := { s with log := { s.log with records, armed := s.log.armed || decide (records.length < 224) } }
    let s := if 0 < k then askPass s else s
    .ok (s, e16 k ++ e16 records.length ++ eOpt e16 (records.head?.map (·.sequence)))
  | _ => .error .badLength

def execLogRead (tag : Byte) (body : List Byte) (s : State) : Outcome := .next (command 0x52 tag body (logRead body) s)

def execLogDiscard (tag : Byte) (body : List Byte) (s : State) : Outcome := .next (command 0x53 tag body (logDiscard body) s)

/-! ### Metering (R165) -/

def execMeteringPulse (l : LineNo) (s : State) : Outcome :=
  .next (whenOn (fun s => s.modLine l fun x => { x with charging := x.charging.pulse }) s)

end Sys2Proof.Machine
end

