-- ==== Sys2Proof/Machine/Reception.lean ====
section
/-! DEFINITION. Reception and the print queue (chapter 6): inbound documents from their opening to their end, the
urgent decision, the listing of pages, and the placing and leaving of queue entries. -/

namespace Sys2Proof.Machine

/-! ### Inbound documents (6.1) -/

/-- The inbound document that a handle names (R120). -/
def State.inDoc (s : State) (h : InHandle) : Option InDoc :=
  let d := s.recept.docs.get h.slot
  if h.slot < 32 ∧ d.state ≠ .free ∧ d.issue = h.issue then some d else none

def State.setInDoc (s : State) (slot : Nat) (d : InDoc) : State :=
  { s with recept := { s.recept with docs := s.recept.docs.set slot d } }

def State.modInDoc (s : State) (slot : Nat) (f : InDoc → InDoc) : State := s.setInDoc slot (f (s.recept.docs.get slot))

/-- The count of FREE slots. -/
def State.freeInSlots (s : State) : Nat := 32 - s.recept.docs.count fun d => decide (d.state ≠ .free)

/-- The fields of INBOUND_START (R121). -/
def inboundStartFields (h : InHandle) (l : LineNo) (answer : DateTime) : List Byte := eIn h ++ e8 l.val ++ eTime answer

/-- Reception opens a document for a call it answers (R121), in the lowest FREE slot. -/
def openInbound (l : LineNo) (answer : DateTime) (s : State) : State × Option InHandle :=
  match s.recept.docs.lowest 32 fun d => decide (d.state = .free) with
  | none => (s, none)
  | some slot =>
    let issue := (s.recept.docs.get slot).issue
    let h : InHandle := ⟨slot, issue⟩
    let s := s.setInDoc slot { InDoc.freeWith issue with state := .receiving, line := l.val, answer }
    (raise .inboundStart (inboundStartFields h l answer) s, some h)

/-- An identity begins with the prefix of a set entry (R122). -/
def isUrgent (table : Table (Option (List Byte))) (identity : List Byte) : Bool :=
  (List.range 16).any fun k => match table.get k with
    | some p => p.isPrefixOf identity
    | none => false

/-- The OFFER's identity is recorded and the urgent decision made (R122). -/
def noteSender (h : InHandle) (identity : List Byte) (s : State) : State :=
  match s.inDoc h with
  | none => s
  | some d =>
    s.setInDoc h.slot
      (if identity = [] then { d with sender := none, urgent := false }
       else { d with sender := some identity, urgent := isUrgent s.recept.urgentTable identity })

/-- A document returns to FREE (R120): its issue advances, its fields are cleared, its references are lowered in list
order. -/
def freeInbound (slot : Nat) (s : State) : State :=
  let d := s.recept.docs.get slot
  lowerRefs d.pages (s.setInDoc slot (.freeWith (wrapSucc 256 d.issue)))

/-! ### The print queue and the wait list (6.7) -/

/-- The number of an entry to be made (R127): the first value from the counter on that no entry present holds. -/
def freshNumber (queue : List QueueEntry) : (fuel n : Nat) → Nat
  | 0, n => n
  | fuel + 1, n =>
    if queue.any fun e => decide (e.number = n) then freshNumber queue fuel (wrapSucc 65536 n) else n

/-- An urgent entry stands after the last entry that is urgent or begun, or at the head (R128). -/
def insertUrgent (e : QueueEntry) : List QueueEntry → List QueueEntry
  | [] => [e]
  | x :: xs =>
    if (x :: xs).any fun y => y.urgent || y.begun then x :: insertUrgent e xs else e :: x :: xs

/-- An entry is made and placed (R127, R128); its number is handed back. -/
def placeEntry (job : PrintJob) (urgent : Bool) (s : State) : State × Nat :=
  let n := freshNumber s.recept.queue 49 s.recept.entryCounter
  let e : QueueEntry := { number := n, job, urgent, begun := false }
  let queue := if urgent then insertUrgent e s.recept.queue else s.recept.queue ++ [e]
  ({ s with recept := { s.recept with queue, entryCounter := wrapSucc 65536 n } }, n)

/-- A document's entry is placed by its urgency and its print state becomes QUEUED (R128). -/
def placeDoc (h : InHandle) (s : State) : State × Nat :=
  let d := s.recept.docs.get h.slot
  placeEntry (.document h) d.urgent (s.setInDoc h.slot { d with printState := .queued })

/-- The wait list's order (R127): first close order, then slot. -/
def waitsBefore (docs : Table InDoc) (a b : InHandle) : Bool :=
  let x := ((docs.get a.slot).firstClose).getD 0
  let y := ((docs.get b.slot).firstClose).getD 0
  if seqBefore x y then true else if seqBefore y x then false else decide (a.slot < b.slot)

/-- A document joins the wait list at its place, before the first one that comes after it (R127; log 48). -/
def insertWaiting (docs : Table InDoc) (h : InHandle) : List InHandle → List InHandle
  | [] => [h]
  | x :: xs => if waitsBefore docs h x then h :: x :: xs else x :: insertWaiting docs h xs

/-- A document is offered to the print queue at its first page close (R124, R128). -/
def offerToPrint (h : InHandle) (s : State) : State :=
  if !s.cfg.autoPrint then s
  else if s.recept.queue.length < 48 then (placeDoc h s).1
  else
    let s := s.modInDoc h.slot fun d => { d with printState := .queueWait }
    { s with recept := { s.recept with waitList := insertWaiting s.recept.docs h s.recept.waitList } }

/-- A page that a receiving line has closed joins its document's list (R124). The close has taken the reference. -/
def listPage (h : InHandle) (p : PageHandle) (s : State) : State :=
  match s.inDoc h with
  | none => s
  | some d =>
    let d' := { d with pages := d.pages ++ [p], inPage := none }
    if d.pages = [] then
      let s := s.setInDoc h.slot { d' with firstClose := some s.recept.closeCounter }
      offerToPrint h { s with recept := { s.recept with closeCounter := wrapSucc 65536 s.recept.closeCounter } }
    else s.setInDoc h.slot d'

/-- The entry of a document in the queue. -/
def Reception.entryOf (r : Reception) (h : InHandle) : Option QueueEntry :=
  r.queue.find? fun e => decide (e.job = .document h)

def Reception.entryNumbered (r : Reception) (n : Nat) : Option QueueEntry :=
  r.queue.find? fun e => decide (e.number = n)

/-- An entry's position, the head being 0. -/
def Reception.positionOf (r : Reception) (n : Nat) : Option Nat := r.queue.findIdx? fun e => decide (e.number = n)

/-- An entry leaves the queue, and the oldest waiting document joins (R129). -/
def leaveQueue (n : Nat) (s : State) : State :=
  let s := { s with recept := { s.recept with queue := s.recept.queue.filter fun e => decide (e.number ≠ n) } }
  match s.recept.waitList with
  | [] => s
  | h :: rest => (placeDoc h { s with recept := { s.recept with waitList := rest } }).1

/-- A document leaves the wait list. -/
def leaveWaiting (h : InHandle) (s : State) : State :=
  { s with recept := { s.recept with waitList := s.recept.waitList.filter fun x => decide (x ≠ h) } }

/-! ### The end of a reception (6.5) -/

/-- The state that the end of a reception gives (R125). -/
def endState (d : InDoc) (lastSent : Bool) : InState :=
  if lastSent then .complete else if d.pages = [] then .failed else .part

/-- The fields of INBOUND_END (R125). -/
def inboundEndFields (h : InHandle) (d : InDoc) (cause : Cause) : List Byte :=
  eIn h ++ e8 d.line ++ [d.state.code] ++ eCause cause ++ e8 d.pages.length ++ eOpt eChars d.sender ++ eBool d.urgent

/-- Reception ends a document (R125, R136): FAILED ones are freed at once with auto-discard on. -/
def endInbound (quiet : Bool) (h : InHandle) (cause : Cause) (release : DateTime) (lastSent : Bool) (s : State) :
    State :=
  match s.inDoc h with
  | none => s
  | some d =>
    let d := { d with release := some release, cause := some cause, lastSent, inPage := none,
                      state := endState d lastSent }
    let s := raiseUnless quiet .inboundEnd (inboundEndFields h d cause) (s.setInDoc h.slot d)
    if d.state = .failed && s.cfg.autoDiscard then freeInbound h.slot s else s

end Sys2Proof.Machine
end

