-- ==== Sys2Proof/Machine/Engine.lean ====
section
/-! DEFINITION. The print engine (chapter 7): its state, the page decoder and ring, the strikes, the choice and end of
pages and entries, stops and resumption. -/

namespace Sys2Proof.Machine

/-! ### State (7.1) -/

inductive EngineState where
  | idle | decodingPrinting | waitPage | pausedPaper | pausedJam | pausedHost
  deriving DecidableEq, Repr

def EngineState.code : EngineState → Byte
  | .idle => 0 | .decodingPrinting => 1 | .waitPage => 2 | .pausedPaper => 3 | .pausedJam => 4 | .pausedHost => 5

/-- The derived engine state (R137). -/
def Engine.state (e : Engine) : EngineState :=
  if e.jamLatched then .pausedJam
  else if e.paperOut then .pausedPaper
  else if e.hostPause then .pausedHost
  else match e.entry, e.page with
    | none, _ => .idle
    | some _, none => .waitPage
    | some _, some _ => .decodingPrinting

/-- A stop condition holds (R137). -/
def Engine.stopped (e : Engine) : Bool := e.jamLatched || e.paperOut || e.hostPause

def State.modEngine (s : State) (f : Engine → Engine) : State := { s with engine := f s.engine }

/-! ### Decoding (7.3) -/

def lineDots : Nat := 1728

/-- A line padded white to 1728 dots (R141). -/
def padWhite (dots : DotLine) : DotLine := dots ++ List.replicate (lineDots - dots.length) false

def whiteLine : DotLine := List.replicate lineDots false

/-- A line is completed, to be placed `n` times; each placing counts as damaged when `faulty` (R141). -/
def completeLine (dots : DotLine) (n : Nat) (faulty : Bool) (e : Engine) : Engine :=
  { e with
    damaged := if faulty then satAdd 6912 e.damaged 1 else e.damaged,
    decoder := { e.decoder with line := none, previous := some dots, lines := e.decoder.lines + 1,
                                owed := some (dots, n, faulty) } }

/-- The completed line goes into the ring at the write slot; its repeats follow one at a time, and the decode ends at
its 6912th line (R141, R142). -/
def placeLine (dots : DotLine) (n : Nat) (faulty : Bool) (e : Engine) : Engine :=
  let e := { e with ring := e.ring ++ [dots], writeSlot := wrapSucc 16 e.writeSlot }
  if 6912 ≤ e.decoder.lines then { e with decoder := { e.decoder with owed := none, ended := true } }
  else if 1 < n then completeLine dots (n - 1) faulty e
  else { e with decoder := { e.decoder with owed := none } }

/-- The decoder takes `n` octets of its stream. -/
def Engine.eat (n : Nat) (e : Engine) : Engine :=
  { e with decoder := { e.decoder with stream := e.decoder.stream.drop n, decoded := e.decoder.decoded + n } }

/-- A run token (R141): cut at dot 1728 when it goes past. -/
def runToken (length : Nat) (e : Engine) : Engine :=
  let (dots, colour) := e.decoder.line.getD ([], false)
  let total := dots.length + length
  if lineDots < total then completeLine (dots ++ List.replicate (lineDots - dots.length) colour) 1 true e
  else
    let dots := dots ++ List.replicate length colour
    if total = lineDots then completeLine dots 1 false e
    else { e with decoder := { e.decoder with line := some (dots, !colour) } }

/-- An undefined token (R141): the begun line's rest is white, or one all-white line. -/
def undefinedToken (e : Engine) : Engine :=
  match e.decoder.line with
  | some (dots, _) => completeLine (padWhite dots) 1 true e
  | none => completeLine whiteLine 1 true e

/-- A control token: a begun line is padded and completed first, and the token acts afterwards (R141). -/
def controlToken (act : Engine → Engine) (e : Engine) : Engine :=
  match e.decoder.line with
  | some (dots, _) => completeLine (padWhite dots) 1 true e
  | none => act e

/-- 0xC1 and 0xC2 n: repeats of the previous line, all white and damaged without one (R141). -/
def repeatToken (n : Nat) (e : Engine) : Engine :=
  match e.decoder.previous with
  | some dots => completeLine dots n false e
  | none => completeLine whiteLine n true e

/-- The end of the code (R140, R141). -/
def endToken (e : Engine) : Engine := { e with decoder := { e.decoder with ended := true } }

/-- One token of a page of `byteLen` octets of code, or none where its octets have not been delivered (R140, R141). -/
def oneToken (byteLen : Nat) (e : Engine) : Option Engine :=
  let left := byteLen - e.decoder.decoded
  if left = 0 then some (controlToken endToken e)
  else match e.decoder.stream with
    | [] => none
    | o :: rest =>
      let v := o.toNat
      if v < 0x80 then some (runToken v (e.eat 1))
      else if v < 0xC0 then
        if left = 1 then some (undefinedToken (e.eat 1))
        else match rest with
          | [] => none
          | p :: _ => some (runToken ((v - 0x80) * 256 + p.toNat) (e.eat 2))
      else if v = 0xC1 then some (controlToken (fun e => repeatToken 1 (e.eat 1)) e)
      else if v = 0xC2 then
        if left = 1 then some (undefinedToken (e.eat 1))
        else match rest with
          | [] => none
          | p :: _ =>
            if p.toNat = 0 then some (undefinedToken (e.eat 2))
            else some (controlToken (fun e => repeatToken p.toNat (e.eat 2)) e)
      else if v = 0xC3 then some (controlToken (fun e => completeLine whiteLine 1 false (e.eat 1)) e)
      else if v = 0xCF then some (controlToken (fun e => endToken (e.eat 1)) e)
      else some (undefinedToken (e.eat 1))

/-- The decoder works until the ring is full with a line in hand, the octets delivered run out, or the decode ends
(R142). -/
def decodeLoop (byteLen : Nat) : (fuel : Nat) → Engine → Engine
  | 0, e => e
  | fuel + 1, e =>
    if e.decoder.ended then e
    else match e.decoder.owed with
      | some (dots, n, faulty) => if e.ring.length < 16 then decodeLoop byteLen fuel (placeLine dots n faulty e) else e
      | none => match oneToken byteLen e with
        | none => e
        | some e' => decodeLoop byteLen fuel e'

/-- Decoding as far as it goes: each octet is taken at most once, padded at most once, and each pass places a line. -/
def decodeOn (byteLen : Nat) (e : Engine) : Engine := decodeLoop byteLen (3 * e.decoder.stream.length + 40) e

/-- The next block is asked for (R140): one request at a time, into a free one of the two block buffers. -/
def askBlock (s : State) : State :=
  match s.engine.page with
  | none => s
  | some h =>
    let d := s.engine.decoder
    match s.page h with
    | none => s
    | some e =>
      if d.ended || d.asked ≠ d.delivered || decide (2 ≤ d.asked - d.decoded / 256) || decide (e.committed ≤ d.asked)
      then s
      else askRead .print h d.asked (s.modEngine fun g => { g with decoder := { g.decoder with asked := d.asked + 1 } })

/-! ### Strikes (7.5) -/

/-- The black dots of the eight head blocks. -/
def headBlocks (dots : DotLine) : List Nat :=
  (List.range 8).map fun h => ((dots.drop (216 * h)).take 216).count true

/-- Strikes formed by taking the blocks in order under a limit (R144); `total` is the strike being formed. -/
def formStrikes (limit total : Nat) : List Nat → List Nat
  | [] => [total]
  | b :: bs => if total + b ≤ limit then formStrikes limit (total + b) bs else total :: formStrikes limit b bs

/-- The strikes fired for a head line: those formed whose total is not 0 (R144). -/
def strikes (limit : Nat) (dots : DotLine) : List Nat := (formStrikes limit 0 (headBlocks dots)).filter fun t => t != 0

/-- The strike of one head line: the line, and how many ring slots it frees; none where no head line is ready (R143). -/
def headLine (e : Engine) : Option (DotLine × Nat) :=
  match e.cls with
  | .coarse => match e.ring with
    | [] => none
    | a :: _ => some (a, if e.halfStruck then 1 else 0)
  | .fine => match e.ring with
    | [] => none
    | a :: _ => some (a, 1)
  | .extra => match e.ring with
    | [] => none
    | [a] => if e.decoder.ended then some (a, 1) else none
    | a :: b :: _ => some (List.zipWith (· || ·) a b, 2)

/-- A head line struck and the paper advanced (R143, R144). -/
def strikeLine (limit : Nat) (dots : DotLine) (frees : Nat) (e : Engine) : Engine :=
  let fired := strikes limit dots
  { e with ring := e.ring.drop frees, readSlot := (e.readSlot + frees) % 16,
           halfStruck := decide (e.cls = .coarse) && !e.halfStruck, struck := satAdd 13824 e.struck 1, uncut := true,
           lastStrikes := fired, pageStrikes := e.pageStrikes + fired.length }

/-! ### Pages and entries (R138, R139, R145, R146) -/

/-- The ring is emptied and both slots return to 0 (R142). -/
def Engine.emptyRing (e : Engine) : Engine := { e with ring := [], readSlot := 0, writeSlot := 0, halfStruck := false }

/-- A decode begins from the page's first octet (R140, R142). -/
def Engine.beginDecode (e : Engine) : Engine :=
  { e.emptyRing with decoder := .reset, struck := 0, damaged := 0, pageStrikes := 0 }

/-- PRINT_DONE's fields (R129; log 16): number, kind, handle, pages printed, discarded. -/
def printDoneFields (e : QueueEntry) (printed : Nat) (discarded : Bool) : List Byte :=
  e16 e.number ++ (match e.job with
    | .document h => [0] ++ eIn h
    | .page h => [1] ++ ePage h) ++ e8 printed ++ eBool discarded

/-- The current entry finishes (R146, R129). Pages printed keeps its count until the next entry begins (log 38). -/
def finishEntry (q : QueueEntry) (s : State) : State :=
  let printed := s.engine.printed
  let s := s.modEngine fun e => { e with entry := none, page := none }
  match q.job with
  | .page h =>
    let s := raise .printDone (printDoneFields q printed false) s
    leaveQueue q.number (lowerRef h s)
  | .document h =>
    let discard := s.cfg.autoDiscard
    let s := s.modInDoc h.slot fun d => { d with printState := .printed }
    let s := raise .printDone (printDoneFields q printed discard) s
    leaveQueue q.number (if discard then freeInbound h.slot s else s)

/-- What the engine finds at its page index (R139). -/
inductive PageChoice where
  | page (h : PageHandle)
  | wait
  | finish
  deriving DecidableEq, Repr

def pageChoice (s : State) (q : QueueEntry) : PageChoice :=
  match q.job with
  | .page h => if s.engine.index = 0 then .page h else .finish
  | .document h =>
    let d := s.recept.docs.get h.slot
    match d.pages[s.engine.index]? with
    | some p => .page p
    | none => if d.state = .receiving then .wait else .finish

/-- The page's printing is over: counted, its damaged lines recorded, the cut feed begun when it struck a line, and the
page index advanced (R145). -/
def endPage (h : PageHandle) (s : State) : State :=
  let e := s.engine
  let s := match s.page h with
    | some r => s.setEntry h.slot { r with damagedLines := e.damaged }
    | none => s
  withdraw .print (s.modEngine fun e => { e.emptyRing with
    printed := satAdd 255 e.printed 1, page := none, cutFeed := e.cutFeed || decide (0 < e.struck), struck := 0,
    damaged := 0, decoder := .reset, index := satAdd 255 e.index 1 })

/-- The engine chooses its page (R139): a page of no octets is printed at once (R140) and the choice goes on. -/
def choosePage : (fuel : Nat) → State → State
  | 0, s => s
  | fuel + 1, s =>
    match s.engine.entry with
    | none => s
    | some n => match s.recept.entryNumbered n with
      | none => s
      | some q => match pageChoice s q with
        | .wait => s.modEngine fun e => { e with page := none }
        | .finish => finishEntry q s
        | .page h =>
          let r := s.entry h.slot
          let s := s.modEngine fun e => { e.beginDecode with page := some h, cls := r.cls }
          if r.byteLen = 0 then choosePage fuel (endPage h s) else askBlock s

/-- The choice, with room for every page of a list (0-255 pages). -/
def nextPage (s : State) : State := choosePage 257 s

/-- The decoder goes on; at the code's end no later block is read, before it the next block is asked for; and a page
whose last head line has been struck ends (R140, R142, R145). -/
def engineOn (s : State) : State :=
  match s.engine.page with
  | none => s
  | some h =>
    if s.engine.stopped then s
    else
      let s := s.modEngine (decodeOn (s.entry h.slot).byteLen)
      if s.engine.decoder.ended then
        let s := withdraw .print s
        if s.engine.ring.isEmpty then nextPage (endPage h s) else s
      else askBlock s

/-! ### Stops (7.8) -/

/-- A page in hand is interrupted (R149), the reads withdrawn or their data dropped. -/
def interruptPage (s : State) : State :=
  match s.engine.page with
  | none => s.modEngine Engine.emptyRing
  | some _ => withdraw .print (s.modEngine fun e => { e.emptyRing with
      decoder := .reset, reprintDue := e.reprintDue || decide (0 < e.struck), struck := 0, damaged := 0 })

/-- The engine resumes when the last stop condition has cleared (R149). With no current entry, the queue head begins
at its own step (R138). -/
def resume (s : State) : State :=
  if s.engine.stopped then s
  else match s.engine.page with
    | some _ =>
      askBlock (s.modEngine fun e => { e.beginDecode with
        reprints := if e.reprintDue then satAdd 65535 e.reprints 1 else e.reprints, reprintDue := false })
    | none => match s.engine.entry with
      | some _ => nextPage s
      | none => s

/-- The fields of PRINTER_FAULT (R148, R150): cause, current entry and page, head lines struck. -/
def printerFaultFields (cause : Nat) (e : Engine) : List Byte :=
  e8 cause ++ eOpt e16 e.entry ++ eOpt ePage e.page ++ e16 e.struck

/-- The paper goes out (R148). -/
def paperGoesOut (s : State) : State :=
  if s.engine.paperOut then s
  else
    let fields := printerFaultFields 0 s.engine
    raise .printerFault fields
      (interruptPage (s.modEngine fun e => { e with paperOut := true, uncut := false, cutFeed := false }))

/-- A jam indication (R150). -/
def jamIndication (s : State) : State :=
  let s := s.modEngine fun e => { e with jamSensor := true }
  if s.engine.jamLatched then s
  else
    let fields := printerFaultFields 1 s.engine
    raise .printerFault fields
      (interruptPage (s.modEngine fun e => { e with jamLatched := true, uncut := false, cutFeed := false }))

/-- The engine ends its work on an entry that PRINT-CANCEL removed (R152). Pages printed keeps its count until the next
entry begins (log 38). -/
def cancelCurrent (s : State) : State :=
  withdraw .print (s.modEngine fun e => { e.emptyRing with
    entry := none, page := none, cutFeed := e.cutFeed || e.uncut, struck := 0, damaged := 0, decoder := .reset,
    reprintDue := false })

/-! ### What reception tells the engine (R147) -/

/-- A page was listed, or the reception ended: in WAIT_PAGE the engine chooses again for the document of its current
entry; in other states the event is taken up at the next choice. -/
def tellEngine (h : InHandle) (s : State) : State :=
  match s.engine.entry with
  | none => s
  | some n => match s.recept.entryNumbered n with
    | none => s
    | some q =>
      if q.job = .document h && s.engine.state = .waitPage then nextPage s else s

/-- A closed page of a receiving line is listed (R124) and the engine told. A page whose reference the close did not take
(`held` false, R13) is no longer in reception and joins no list (R67; log 42). -/
def listAndTell (held : Bool) (h : InHandle) (p : PageHandle) (s : State) : State :=
  if held then tellEngine h (listPage h p s) else s.modInDoc h.slot fun d => { d with inPage := none }

/-- A reception ends (R125) and the engine is told. -/
def endAndTell (quiet : Bool) (h : InHandle) (cause : Cause) (release : DateTime) (lastSent : Bool) (s : State) :
    State :=
  tellEngine h (endInbound quiet h cause release lastSent s)

end Sys2Proof.Machine
end

