-- ==== Sys2Proof/Machine/LineOps.lean ====
section
/-! DEFINITION. The line channels up to connect and from on hook to IDLE (chapter 4): call states and their notice, dial
expansion, seizure and playing, the answer decision, glare, rest, the transmit buffers' fetches, and the end of a call. -/

namespace Sys2Proof.Machine

/-! ### Call states (R82, R83) -/

/-- The fields of LINE_STATE (R82). -/
def lineStateFields (l : LineNo) (old new : CallState) (t : DateTime) (cause : Option Cause) : List Byte :=
  e8 l.val ++ [old.code] ++ [new.code] ++ eTime t ++ eOpt eCause cause

/-- A line changes its call state and raises LINE_STATE (R82). -/
def changeState (l : LineNo) (new : CallState) (cause : Option Cause) (s : State) : State :=
  let old := (s.line l).state
  if old = new then s
  else raise .lineState (lineStateFields l old new s.now cause) (s.modLine l fun x => { x with state := new })

/-- An attempt ended before seizure raises LINE_STATE from IDLE to IDLE (R82). -/
def reportUnseized (l : LineNo) (cause : Cause) (s : State) : State :=
  raise .lineState (lineStateFields l .idle .idle s.now (some cause)) s

def State.modParams (s : State) (l : LineNo) (f : CallParams → CallParams) : State :=
  s.modLine l fun x => { x with params := f x.params }

def State.modProc (s : State) (l : LineNo) (f : Procedure → Procedure) : State :=
  s.modLine l fun x => { x with proc := f x.proc }

def State.modSend (s : State) (l : LineNo) (f : SendSide → SendSide) : State :=
  s.modLine l fun x => { x with send := f x.send }

def State.modRecv (s : State) (l : LineNo) (f : ReceiveSide → ReceiveSide) : State :=
  s.modLine l fun x => { x with recv := f x.recv }

def State.modCall (s : State) (l : LineNo) (f : CallRec → CallRec) : State :=
  s.modLine l fun x => { x with call := x.call.map f }

/-- The document of a line's OUT call. -/
def State.callDoc (s : State) (l : LineNo) : Option Doc :=
  match (s.line l).call with
  | some c => match c.out with
    | some o => s.doc o.doc
    | none => none
  | none => none

/-- The inbound document of a line's IN call. -/
def State.callInbound (s : State) (l : LineNo) : Option InHandle :=
  match (s.line l).call with
  | some c => c.inbound
  | none => none

/-- The page that a receiving line has OPEN (R124). -/
def State.pageInReception (s : State) (l : LineNo) : Option PageHandle :=
  match s.callInbound l with
  | some h => match s.inDoc h with
    | some d => d.inPage
    | none => none
  | none => none

/-! ### Dial expansion (4.3) -/

/-- The charged number of a buffer: its digits at or after the charge point (R73). -/
def chargedDigits (e : Expander) : List Nat :=
  (e.buffer.drop e.charge).filterMap fun x => match x with
    | .digit d => some d
    | .star | .hash | .pause | .wait | .chargePoint | .macroCall _ => none

/-- A symbol placed in the dial buffer, which holds 64 (R78). -/
def placeSym (x : DialSym) (e : Expander) : Expander × Option DialSub :=
  if e.buffer.length < 64 then ({ e with buffer := e.buffer ++ [x] }, none) else (e, some .length)

/-- One symbol of the walk (R77); `inner` walks a macro, and is absent while the stack holds 4 entries (R78). -/
def walkSym (macros : Table (Option (List DialSym))) (inner : Option (List DialSym → Expander → Expander × Option DialSub))
    (x : DialSym) (e : Expander) : Expander × Option DialSub :=
  match x with
  | .digit _ | .star | .hash | .pause | .wait => placeSym x e
  | .chargePoint => ({ e with charge := e.buffer.length }, none)
  | .macroCall n => match inner with
    | none => (e, some .depth)
    | some walk => match macros.get n with
      | none => (e, some .unknownMacro)
      | some body => walk body e

/-- Symbols walked one after another until one fails. -/
def walkList (sym : DialSym → Expander → Expander × Option DialSub) :
    List DialSym → Expander → Expander × Option DialSub
  | [], e => (e, none)
  | x :: xs, e => match sym x e with
    | (e', none) => walkList sym xs e'
    | (e', some err) => (e', some err)

/-- The walk with room for `room` more entries on the expansion stack (R77). -/
def walk (macros : Table (Option (List DialSym))) : (room : Nat) → List DialSym → Expander → Expander × Option DialSub
  | 0 => walkList (walkSym macros none)
  | room + 1 => walkList (walkSym macros (some (walk macros room)))

/-- The expansion of a dial string (R76 to R78): the stack takes 4 entries and is empty at the end. -/
def expand (macros : Table (Option (List DialSym))) (dial : List DialSym) : Expander × Option DialSub :=
  match walk macros 4 dial .reset with
  | (e, some err) => (e, some err)
  | (e, none) => if 32 < (chargedDigits e).length then (e, some .length) else (e, none)

/-! ### Fetches of the transmit buffers (R118) -/

/-- The frames of a page of `n` octets of code: one for an empty page (R103). -/
def frameCount (n : Nat) : Nat := if n = 0 then 1 else (n + 255) / 256

/-- The frames of line block `b` of a page (R103). -/
def blockFrames (n b : Nat) : Nat := min 64 (frameCount n - 64 * b)

/-- The one frame of an empty page (R103, R118). -/
def emptyPageFrame : List Byte := finalBlock []

/-- The buffer whose line block is being fetched. -/
def SendSide.current (x : SendSide) : Option (Bool × TxBuffer) :=
  match x.buf0 with
  | some b => if b.got.length < b.want then some (false, b) else
    match x.buf1 with
    | some c => if c.got.length < c.want then some (true, c) else none
    | none => none
  | none => match x.buf1 with
    | some c => if c.got.length < c.want then some (true, c) else none
    | none => none

/-- A line block takes the free buffer, buffer 0 first (R118); none where both are in use. -/
def SendSide.takeBuffer (x : SendSide) (b : TxBuffer) : Option SendSide :=
  if x.buf0.isNone then some { x with buf0 := some b }
  else if x.buf1.isNone then some { x with buf1 := some b }
  else none

/-- The line block after (position, block) in sending order, none past the attempt's last page (R118). -/
def nextFetch (pages : List PageHandle) (byteLen pos b : Nat) : Option (Nat × Nat) :=
  if 64 * (b + 1) < frameCount byteLen then some (pos, b + 1)
  else if pos + 1 < pages.length then some (pos + 1, 0) else none

/-- The channel goes on with its fetches, one block at a time (R118). -/
def fetchOn : (fuel : Nat) → LineNo → State → State
  | 0, _, s => s
  | fuel + 1, l, s =>
    if s.outstanding (.lc l) then s
    else match s.callDoc l with
      | none => s
      | some d =>
        let x := (s.line l).send
        match x.current with
        | some (_, b) => match d.pages[b.pos]? with
          | some p => askRead (.lc l) p (64 * b.block + b.got.length) s
          | none => s
        | none => match x.fetch with
          | none => s
          | some (pos, b) => match d.pages[pos]? with
            | none => s
            | some p =>
              let n := (s.entry p.slot).byteLen
              match x.takeBuffer { pos, block := b, want := blockFrames n b,
                                   got := if n = 0 then [emptyPageFrame] else [] } with
              | none => s
              | some x' => fetchOn fuel l (s.modSend l fun _ => { x' with fetch := nextFetch d.pages n pos b })

/-! ### Stamps (R197) -/

/-- The call record gains TIME_SUSPECT when a connect or release is stamped while the flag is set (R197). -/
def CallRec.stamped (c : CallRec) (suspect : Bool) : CallRec :=
  if suspect then { c with flags := { c.flags with timeSuspect := true } } else c

/-! ### Playing the dial buffer (R85) -/

/-- The symbol at the position played. -/
def Line.symbol (x : Line) : Option DialSym := x.expander.buffer[x.playPos]?

/-- With dial tone present a W completes as it begins, and so does one that follows it (R85). -/
def Line.skipWaits (x : Line) : Line :=
  if x.dialTone then
    { x with playPos := x.playPos + ((x.expander.buffer.drop x.playPos).takeWhile fun y => decide (y = .wait)).length }
  else x

/-- The symbol at the position begins: a W with dial tone present completes at once, a digit, * or # brings DIALLING and
ends the tone (log 59), the buffer's end ALERTING (R85, R86). -/
def beginSymbol (l : LineNo) (s : State) : State :=
  let s := s.modLine l Line.skipWaits
  match (s.line l).symbol with
  | none => changeState l .alerting none s
  | some .pause | some .wait => s
  | some (.digit _) | some .star | some .hash | some .chargePoint | some (.macroCall _) =>
    changeState l .dialling none (s.modLine l fun x => { x with dialTone := false })

/-- The symbol at the position is over. -/
def nextSymbol (l : LineNo) (s : State) : State :=
  beginSymbol l (s.modLine l fun x => { x with playPos := x.playPos + 1 })

/-! ### Seizure (R84) -/

/-- The line seizes for its attempt in a zone: off hook, no dial tone reported yet, the call record, the log's
reservation, the preload, the first symbol (R84, R118). -/
def seize (l : LineNo) (a : Attempt) (zone : Nat) (s : State) : State :=
  let call : CallRec :=
    { out := some ⟨a.doc, a.index, a.desk, a.priority⟩, inbound := none, charged := (s.line l).charged,
      zone := some zone, reserved := true, start := s.now, connect := none, release := none, cause := none, pages := 0,
      flags := .none }
  let s := changeState l .seized none s
  let s := s.modLine l fun x => { x with
    call := some call, fillCount := 0, playPos := 0, dialTone := false, deferred := false, proc := .reset,
    send := { SendSide.reset with fetch := some (a.firstPage, 0) }, recv := .reset }
  beginSymbol l (fetchOn 4 l s)

/-! ### The end of a call (R87, R115, R119) -/

/-- A receiving line closes its OPEN page TRUNCATED with the blocks committed and has it listed (R109, R113, R117). -/
def closeReceived (quiet : Bool) (l : LineNo) (s : State) : State :=
  match s.callInbound l, s.pageInReception l with
  | some h, some p =>
    let held := s.refTaken p
    let s := withdraw (.lc l) s
    let s := finishClose quiet p { code := 0, lineCount := 0, truncated := true, hold := .reference } s
    listAndTell held h p (s.modCall l fun c => { c with pages := satAdd 255 c.pages 1 })
  | _, _ => s

/-- The report that follows the log's fill: the attempt's outcome, or the end of the inbound document (R115). -/
def reportEnd (quiet : Bool) (l : LineNo) (call : CallRec) (cause : Cause) (release : DateTime) (logged : Nat)
    (s : State) : State :=
  match call.out with
  | some o => outcomeReport quiet o.doc o.index cause release (some logged) s
  | none => match call.inbound with
    | some h => endAndTell quiet h cause release (s.line l).proc.goodLast s
    | none => s

/-- The line goes on hook with a cause: release stamped, page in reception closed, the call charged, added to its desk
and logged, the outcome or the reception's end reported, LINE_STATE raised, buffers emptied, REST (R87, R115, R119).
`quiet` leaves out the notices that a reset of scope ENGINE leaves out (R24, R72, R136). -/
def hangUp (quiet : Bool) (l : LineNo) (cause : Cause) (s : State) : State :=
  let release := s.now
  let s := closeReceived quiet l s
  match (s.line l).call with
  | none => s
  | some call =>
    let call := { call with release := some release, cause := some cause }.stamped s.tk.suspect
    let (s, q) := chargeAndLog l call cause release s
    let s := reportEnd quiet l call cause release q s
    let s := changeState l .rest (some cause) s
    let s := s.modLine l fun x => { x with
      attempt := none, call := none, lastCause := some cause, proc := .reset, send := .reset, recv := .reset,
      params := { x.params with detector := .disarmed } }
    askPass (withdraw (.lc l) s)

/-! ### Connect (R86, R90, R94) -/

/-- The call parameters filled at connect (R94). -/
def connectParams (role : Role) (firstPage : Nat) : CallParams :=
  { CallParams.reset with role := some role, pagePos := firstPage }

/-- An OUT call connects: stamped, its zone row captured, its parameters filled (R86, R94, R164). -/
def connectOut (l : LineNo) (s : State) : State :=
  let x := s.line l
  let zone := match x.call with
    | some c => c.zone.getD 0
    | none => 0
  let first := match x.attempt with
    | some a => a.firstPage
    | none => 0
  let s := s.modLine l fun x => { x with
    call := x.call.map fun c => { c with connect := some s.now }.stamped s.tk.suspect,
    charging := captureRow s.charge zone x.config.metered, params := connectParams .sender first }
  changeState l .negotiating none s

/-- An IN call's answer tone has ended: stamped, its parameters filled, the wait for the first OFFER begun (R90, R99,
R121). -/
def connectIn (l : LineNo) (s : State) : State :=
  let s := match s.callInbound l with
    | some h => s.modInDoc h.slot fun d => { d with connect := some s.now }
    | none => s
  let s := s.modLine l fun x => { x with
    call := x.call.map fun c => { c with connect := some s.now }.stamped s.tk.suspect,
    params := connectParams .receiver 0, proc := { Procedure.reset with timer := true } }
  changeState l .negotiating none s

/-! ### Rings and the answer decision (4.7) -/

/-- Reasons of RING_REFUSED in the order of R89. -/
inductive RingRefusal where
  | direction | lineState | store | inboundSlots | log
  deriving DecidableEq, Repr

def RingRefusal.code : RingRefusal → Byte
  | .direction => 0 | .lineState => 1 | .store => 2 | .inboundSlots => 3 | .log => 4

/-- Conditions 3 and 4 of R89, which a glare tests too (R91). -/
def storeRefusal (s : State) : Option RingRefusal :=
  if s.freeCount < s.cfg.receptionReserve then some .store
  else if s.freeInSlots = 0 then some .inboundSlots
  else none

/-- The first condition of R89 that fails; `resting` is the ring test at a rest's end, which stands before IDLE (R92). -/
def ringRefusal (resting : Bool) (l : LineNo) (s : State) : Option RingRefusal :=
  let x := s.line l
  if x.config.direction = .outOnly then some .direction
  else if !(resting || (x.state = .idle && x.attempt.isNone)) then some .lineState
  else match storeRefusal s with
    | some r => some r
    | none => if s.logHasRoom then none else some .log

/-- RING_REFUSED, once in a burst (R89). -/
def refuseRing (l : LineNo) (r : RingRefusal) (s : State) : State :=
  let x := s.line l
  if x.refused then s
  else raise .ringRefused (e8 l.val ++ e8 x.ringCount ++ [r.code])
    (s.modLine l fun x => { x with refused := x.burst })

/-- The line answers (R90): ANSWERING, the call record, the reservation unless `passed` on, the inbound document, the end
of the burst. The record begins with no flags, in a glare too: a CLOCK_STEP gained in SEIZED (R195) does not pass to the
call IN that R91 makes of it (DESIGN CHOICE: the spec says neither; log 61). -/
def answer (l : LineNo) (passed : Bool) (cause : Option Cause) (s : State) : State :=
  let t := s.now
  let s := changeState l .answering cause s
  let s := if passed then s else (logReserve s).getD s
  let (s, h) := openInbound l t s
  s.modLine l fun x => { x with
    call := some { out := none, inbound := h, charged := [], zone := none, reserved := true, start := t, connect := none,
                   release := none, cause := none, pages := 0, flags := .none },
    ringCount := 0, burst := false, refused := false, deferred := false, proc := .reset, send := .reset, recv := .reset }

/-- The answer decision (R89): whether the line answered. -/
def answerDecision (resting : Bool) (l : LineNo) (s : State) : State × Bool :=
  match ringRefusal resting l s with
  | none => (answer l false none s, true)
  | some r => (refuseRing l r s, false)

/-- A deferred decision is made as the line lets its attempt go (R89). -/
def deferredDecision (l : LineNo) (s : State) : State :=
  if (s.line l).deferred then (answerDecision false l (s.modLine l fun x => { x with deferred := false })).1 else s

/-- A burst in progress with enough rings (R92). -/
def Line.ringDue (x : Line) : Bool := x.burst && Nat.ble x.config.ringsToAnswer x.ringCount

/-- The line lets go of an attempt that has not seized. -/
def letGo (l : LineNo) (s : State) : State := s.modLine l fun x => { x with attempt := none }

/-- A glare (R91): a ring taken, it begins a burst (R88; log 25); the attempt is withdrawn, its reservation passes to the
incoming call or is given back. -/
def glare (l : LineNo) (s : State) : State :=
  let s := s.modLine l fun x => { x with burst := true }
  let x := s.line l
  let s := match x.attempt with
    | some a => withdrawAttempt a.doc a.index s
    | none => s
  let s := withdraw (.lc l) (s.modLine l fun x => { x with attempt := none, send := .reset })
  match storeRefusal s with
  | none => answer l true (some .glare) s
  | some r =>
    let s := refuseRing l r (logGiveBack s)
    let s := changeState l .rest (some .glare) s
    s.modLine l fun x => { x with call := none, proc := .reset, recv := .reset }

/-- A ring (R88): counted on hook, a glare in SEIZED on a line configured BOTH, ignored otherwise. -/
def ring (l : LineNo) (s : State) : State :=
  let x := s.line l
  match x.state with
  | .idle | .outOfService =>
    let s := s.modLine l fun x => { x with burst := true, ringCount := satAdd 255 x.ringCount 1 }
    let x := s.line l
    if !x.ringDue then s
    else if x.attempt.isSome then s.modLine l fun x => { x with deferred := true }
    else (answerDecision false l s).1
  | .rest => s.modLine l fun x => { x with burst := true, ringCount := satAdd 255 x.ringCount 1 }
  | .seized => if x.config.direction = .both then glare l s else s
  | .dialling | .alerting | .answering | .negotiating | .training | .sending | .receiving | .postPage | .releasing => s

/-- The rest is over (R92): the ring test, and otherwise IDLE and a pass. -/
def restEnd (l : LineNo) (s : State) : State :=
  let x := s.line l
  if x.state = .rest then
    if x.ringDue then
      match answerDecision true l s with
      | (s, true) => s
      | (s, false) => askPass (changeState l .idle none s)
    else askPass (changeState l .idle none s)
  else s

/-! ### A reset's end of a line (R93, R119) -/

/-- A RESET command of either scope ends what the line has in hand. The kept parameter repeats returns to 0 on the lines
whose call the command ends, and stands on the others (R94, R119; log 57). -/
def resetLine (quiet : Bool) (s : State) (l : LineNo) : State :=
  let x := s.line l
  let s :=
    if x.state.inProgress then
      (hangUp quiet l .reset s).modLine l fun x => { x with params := { x.params with repeats := 0 } }
    else match x.attempt with
      | some a => letGo l (outcomeReport quiet a.doc a.index .reset s.now none s)
      | none => s
  s.modLine l fun x => { x with
    ringCount := 0, burst := false, refused := false, deferred := false, expander := .reset, charged := [], playPos := 0 }

end Sys2Proof.Machine
end

