-- ==== Sys2Proof/Machine/ScanUnit.lean ====
section
/-! DEFINITION. The scan unit (chapter 2): from samples to dots, the page coder, the two code buffers, and a job's
pages, holds and endings. -/

namespace Sys2Proof.Machine

/-! ### From samples to dots (2.4) -/

/-- The sample that dot `j` takes (R28). -/
def sampleOf (j : Nat) : Nat := j * 32 / 27

/-- P ÷ 64 rounded (R29). -/
def roundDensity (mode : Rounding) (p : Int) : Int :=
  let q := p / 64
  let r := p % 64
  match mode with
  | .floor => q
  | .nearestEven => if r < 32 then q else if 32 < r then q + 1 else if q % 2 = 0 then q else q + 1

/-- The density value before its clamp (R29). -/
def rawDensity (c : ScanSettings) (g : Nat) : Int :=
  roundDensity c.rounding (((g : Int) - (c.offset : Int)) * (c.gain : Int))

/-- The density value of a grey value (R29). -/
def density (c : ScanSettings) (g : Nat) : Int := max 0 (min 255 (rawDensity c g))

/-- The density value of a grey value is a clamped one (R29). -/
def clips (c : ScanSettings) (g : Nat) : Bool := decide (rawDensity c g < 0) || decide (255 < rawDensity c g)

/-- A line in TEXT mode: black below the threshold (R30). -/
def textDots (threshold : Nat) (v : List Int) : DotLine := v.map fun x => decide (x < (threshold : Int))

/-- A line in HALFTONE mode with the carry `e` (R31). -/
def halftoneDots (e : Int) : List Int → DotLine
  | [] => []
  | v :: vs =>
    let w := v + e
    if w < 128 then true :: halftoneDots (max (-255) (min 255 w)) vs
    else false :: halftoneDots (max (-255) (min 255 (w - 255))) vs

/-- The grey values of the 1728 dots (R28). -/
def greyValues (samples : List Byte) : List Nat :=
  (List.range 1728).map fun j => ((samples[sampleOf j]?).getD 0).toNat

/-- The dots of a line of samples by the settings (R29 to R31). -/
def reduceLine (c : ScanSettings) (samples : List Byte) : DotLine :=
  let v := (greyValues samples).map (density c)
  match c.mode with
  | .text => textDots c.threshold v
  | .halftone => halftoneDots 0 v

/-- Some dot of the line was clamped (R29). -/
def lineClips (c : ScanSettings) (samples : List Byte) : Bool := (greyValues samples).any (clips c)

/-! ### The page coder (2.5) -/

/-- The lengths of the runs of a line, `n` dots of `colour` already counted. -/
def runsFrom (colour : Bool) (n : Nat) : DotLine → List Nat
  | [] => [n]
  | d :: r => if d = colour then runsFrom colour (n + 1) r else n :: runsFrom d 1 r

/-- The octets of a run token in its shorter form (R32). -/
def runOctets (n : Nat) : List Byte := if n < 128 then [oct n] else [oct (0x80 + n / 256), oct (n % 256)]

/-- A line coded as runs, the first one white (R32). -/
def runsCode (dots : DotLine) : List Byte := (runsFrom false 0 dots).flatMap runOctets

/-- The token of a pending repeat (R34). -/
def repeatCode (n : Nat) : List Byte := if n = 0 then [] else if n = 1 then [0xC1] else [0xC2, oct n]

/-- A token leaves the coder for the code buffers, its end offset kept with the lines that it stands for (R35). -/
def emit (code : List Byte) (lines : Nat) (u : Scan) : Scan :=
  if code = [] then u
  else
    let codeLen := u.codeLen + code.length
    { u with backlog := u.backlog ++ code, codeLen, marks := u.marks ++ [(codeLen, lines)] }

/-- The pending repeat is written first (R34). -/
def flushRepeat (u : Scan) : Scan := { emit (repeatCode u.repeats) u.repeats u with repeats := 0 }

/-- A line is coded by the first case of R34 that applies, and its image becomes the previous line. -/
def codeLine (dots : DotLine) (u : Scan) : Scan :=
  let u' :=
    if dots.all (! ·) then { emit [0xC3] 1 (flushRepeat u) with lineWaits := true }
    else if u.previous = some dots then
      if u.repeats < 255 then { u with repeats := u.repeats + 1, coded := satAdd 6912 u.coded 1 }
      else { emit [0xC2, 0xFF] 255 u with repeats := 1, lineWaits := true }
    else { emit (runsCode dots) 1 (flushRepeat u) with lineWaits := true }
  { u' with previous := some dots }

/-! ### Buffers and pages (2.6, 2.7) -/

def State.modScan (s : State) (f : Scan → Scan) : State := { s with scan := f s.scan }

/-- The coder's and the buffers' contents of a page are given up. -/
def Scan.emptied (u : Scan) : Scan :=
  { u with filling := [], full := none, backlog := [], lineWaits := false, codeLen := 0, marks := [], repeats := 0,
           previous := none, step := 0, endStep := none, ending := none }

/-- Octets go from the line being coded into the filling buffer as far as it has room; a line whose last octet is placed
is coded (R34, R35). -/
def Scan.place (u : Scan) : Scan :=
  let k := 256 - u.filling.length
  let u := { u with filling := u.filling ++ u.backlog.take k, backlog := u.backlog.drop k }
  if u.backlog = [] ∧ u.lineWaits then { u with lineWaits := false, coded := satAdd 6912 u.coded 1 } else u

/-- The fields of SCAN_ABORTED (R37, R41; log 16): cause, discarded page, pages closed. -/
def scanAbortedFields (cause : ScanEnd) (h : Option PageHandle) (pages : Nat) : List Byte :=
  [cause.code] ++ eOpt ePage h ++ e16 pages

/-- A page is opened for the next sheet (R37); without a FREE entry the job ends. -/
def openSheet (s : State) : State :=
  match openPage .scan .scan s.scan.settings.cls s with
  | .ok (s, h) => s.modScan fun u => { u.emptied with page := some h, coded := 0, committed := 0, state := .scanning }
  | .error _ =>
    raise .scanAborted (scanAbortedFields .directoryFull none s.scan.pagesClosed)
      (s.modScan fun u => { u with state := .idle, endCause := .directoryFull })

/-- The paper-present sensor decides: the next sheet's page, or the end of the job with EMPTY (R38, R42). -/
def nextSheetOrEnd (s : State) : State :=
  if s.scan.paper then openSheet s else s.modScan fun u => { u with state := .idle, endCause := .empty }

/-- The current page has closed (R38): after the trailing edge the sensor is read, otherwise the sheet is carried out.
Lines coded and lines committed keep the page's last values until the next page opens (log 45). -/
def pageDone (e : PageEnding) (s : State) : State :=
  let s := s.modScan fun u => { u.emptied with page := none, pagesClosed := satAdd 65535 u.pagesClosed 1 }
  match e with
  | .trailingEdge => nextSheetOrEnd s
  | .length | .pageLimit => s.modScan fun u => { u with state := .ejecting, nextSheet := true }

/-- The page's chain is full (R42): the buffers are emptied unwritten, the page is closed TRUNCATED with its lines
committed. -/
def limitPage (s : State) : State :=
  match s.scan.page with
  | none => s
  | some h =>
    let req : CloseReq := { code := 0, lineCount := s.scan.committed, truncated := true, hold := .scanTarget }
    pageDone .pageLimit (finishClose false h req (s.modScan Scan.emptied))

/-- A block write of the scan unit was refused (R40, R42). -/
def scanRefused (a : Allocation) (s : State) : State :=
  match a with
  | .pass => s
  | .pageLimit => limitPage s
  | .storeFull =>
    if s.scan.state = .scanning then
      let fields := (match s.scan.page with | some h => ePage h | none => []) ++ e16 s.freeCount ++
        e16 s.cfg.receptionReserve
      raise .scanHeld fields (s.modScan fun u => { u with state := .held, holdTime := 0 })
    else s

/-- The full buffer is presented to the page store (R35, R40). -/
def presentBlock (s : State) : State :=
  match s.scan.page, s.scan.full with
  | some h, some data =>
    match askWrite .scan h data none s with
    | (s', a) => scanRefused a s'
  | _, _ => s

/-- Octets are gathered as far as the buffers take them; a filled buffer is presented when the other is free (R35). -/
def pump : (fuel : Nat) → State → State
  | 0, s => s
  | fuel + 1, s =>
    if s.scan.page.isNone then s
    else
      let s := s.modScan Scan.place
      if s.scan.filling.length = 256 ∧ s.scan.full = none then
        pump fuel (presentBlock (s.modScan fun u => { u with full := some u.filling, filling := [] }))
      else s

/-- A page that has ended is closed once its last block write has committed (R38). -/
def tryEnd (s : State) : State :=
  match s.scan.page, s.scan.ending with
  | some h, some e =>
    let u := s.scan
    if u.full = none ∧ u.backlog = [] ∧ u.filling.length < 256 ∧ u.state = .scanning ∧ !s.outstanding .scan then
      if u.filling ≠ [] ∧ allocTest s (s.entry h.slot) .scan = .pageLimit then limitPage s
      else
        let req : CloseReq :=
          { code := 0, lineCount := u.committed + (u.marks.map (·.2)).sum, truncated := decide (e ≠ .trailingEdge),
            hold := .scanTarget }
        match startClose .scan h u.filling req s with
        | (s', .waits) => s'.modScan fun u => { u with filling := [] }
        | (s', .closed _) => pageDone e s'
    else s
  | _, _ => s

/-- The page ends (R38): any pending repeat is written, the block writes follow, then the close. -/
def endSheetPage (e : PageEnding) (s : State) : State :=
  tryEnd (pump 8 (s.modScan fun u => { flushRepeat u with ending := some e }))

/-- At each commit the lines committed become the count of coded lines whose tokens lie within the committed byte length
(R35). -/
def Scan.countLines (byteLen : Nat) (u : Scan) : Scan :=
  { u with committed := satAdd 6912 u.committed ((u.marks.filter fun m => decide (m.1 ≤ byteLen)).map (·.2)).sum,
           marks := u.marks.filter fun m => decide (byteLen < m.1) }

/-- A block write of the scan unit has committed (R35, R41): its buffer is free, the lines committed are counted, a hold
ends, coding goes on. -/
def scanCommitted (byteLen : Nat) (s : State) : State :=
  tryEnd (pump 8 (s.modScan fun u =>
    { u.countLines byteLen with
             full := none,
             state := if u.state = .held then .scanning else u.state,
             holdTime := if u.state = .held then 0 else u.holdTime }))

/-- The held block write is asked again after a release or a change of the reserve (R40). -/
def scanRetry (s : State) : State :=
  if s.scan.state = .held ∧ !s.outstanding .scan then presentBlock s else s

/-- The current page is discarded and the sheet carried out, the job at its end (R41, R43); the page's lines coded and
committed and the hold time keep their last values (logs 21, 45). -/
def abandonSheet (cause : ScanEnd) (s : State) : State :=
  let s := match s.scan.page with
    | some h => discardPage h s
    | none => s
  withdraw .scan (s.modScan fun u =>
    { u.emptied with page := none, state := .ejecting, nextSheet := false, endCause := cause })

/-- A line captured at a capture step (R26, R29). -/
def captureLine (samples : List Byte) (s : State) : State :=
  match s.scan.page with
  | none => s
  | some h =>
    let c := s.scan.settings
    let s := if lineClips c samples then s.modEntry h.slot fun e => { e with clipped := true } else s
    pump 8 (s.modScan fun u => { codeLine (reduceLine c samples) u with samples })

/-- Feeder steps from one capture to the next (R26). -/
def captureStride : ResClass → Nat
  | .coarse => 4 | .fine => 2 | .extra => 1

end Sys2Proof.Machine
end

