-- ==== Sys2Proof/Machine/Clock.lean ====
section
/-! DEFINITION. The timekeeper (chapter 10): counting tenths, the crystal and its monitor, the loss of the backup
domain's contents, the power-on tests, CLOCK-SET and CLOCK-READ. -/

namespace Sys2Proof.Machine

def State.modTk (s : State) (f : Timekeeper → Timekeeper) : State := { s with tk := f s.tk }

/-- Causes of TIME_SUSPECT in the order of 11.7.2. -/
inductive SuspectCause where
  | crystalStop | range | invalid | stalled | held
  deriving DecidableEq, Repr

def SuspectCause.code : SuspectCause → Byte
  | .crystalStop => 0 | .range => 1 | .invalid => 2 | .stalled => 3 | .held => 4

/-- The fields of TIME_SUSPECT (R193; log 16): cause, time, crystal stops, and whether the flag was already set. -/
def timeSuspectFields (cause : SuspectCause) (already : Bool) (k : Timekeeper) : List Byte :=
  [cause.code] ++ eTime k.time ++ e8 k.stops ++ eBool already

/-- TIME_SUSPECT raised by the timekeeper, `already` telling how the flag stood before. -/
def raiseSuspect (cause : SuspectCause) (already : Bool) (s : State) : State :=
  raise .timeSuspect (timeSuspectFields cause already s.tk) s

/-- Every call in progress gains CLOCK_STEP in its call record (R191, R195). -/
def markClockStep (s : State) : State :=
  allLines.foldl (fun s l =>
    if (s.line l).state.inProgress then s.modCall l fun c => { c with flags := { c.flags with clockStep := true } }
    else s) s

/-! ### Counting time (R191, R192) -/

/-- The time advances by one tenth; passing the end of 2099 sets TIME_SUSPECT (R191). -/
def Timekeeper.advance (k : Timekeeper) : Timekeeper × Bool :=
  let (time, ended) := k.time.tick
  ({ k with time, suspect := k.suspect || ended }, ended)

/-- A tenth counted with the main supplies on (R191). It advances the free time of a domain whose contents have been lost
too (R200; the model's choice, logs 12 and 29). -/
def tenthPowered (s : State) : State :=
  let already := s.tk.suspect
  let (k, ended) := s.tk.advance
  let s := { s with tk := k }
  if ended then markClockStep (raiseSuspect .range already s) else s

/-- A tenth comes from the source (R192): none from a crystal that has not started again since it stopped. -/
def Timekeeper.counts (k : Timekeeper) : Bool := k.crystalRuns || decide (k.source = .fallback)

/-- With the main supplies off, the tenths come from the crystal alone, as long as the backup supply holds (R192). The
range's end sets TIME_SUSPECT without its notice, since the host link has no supply (the model's choice, log 58). -/
def tenthUnpowered (s : State) : State :=
  if s.tk.crystalRuns && !s.tk.lost then { s with tk := s.tk.advance.1 } else s

def execTenthCounted (s : State) : Outcome := .next (if s.power then (if s.tk.counts then tenthPowered s else s) else tenthUnpowered s)

/-! ### The crystal and its monitor (R192 to R194) -/

/-- 4 ms without a crystal edge, due in CRYSTAL (R193). -/
def crystalGap (s : State) : State :=
  if s.tk.source = .crystal then
    let already := s.tk.suspect
    raiseSuspect .crystalStop already (s.modTk fun k => { k with
      source := .fallback, suspect := true, stops := satAdd 255 k.stops 1, crystalRuns := false })
  else s

def execCrystalGapExpiry (s : State) : Outcome := .next (whenOn crystalGap s)

/-- Edges for 250 ms without a gap, due in FALLBACK (R194). -/
def crystalReturn (s : State) : State :=
  if s.tk.source = .fallback then s.modTk fun k => { k with source := .crystal, crystalRuns := true } else s

def execCrystalReturn (s : State) : Outcome := .next (whenOn crystalReturn s)

/-- The crystal stops while the main supplies are off: the time stands still and the stall mark is set (R192, R200). -/
def execCrystalStopUnpowered (s : State) : Outcome :=
  .next (if !s.power && s.tk.crystalRuns then s.modTk fun k => { k with stallMark := true, crystalRuns := false } else s)

/-- A crystal that had stopped starts again, and the time goes on (R192); with the main supplies on this may come within
the 4 ms after power-on in which the monitor has not found it stopped (R200), and in FALLBACK the source waits for R194
(log 29). -/
def execCrystalStartsAgain (s : State) : Outcome := .next (s.modTk fun k => { k with crystalRuns := true })

/-- The main supplies go off: from then on the tenths come from the crystal alone (R192). -/
def execMainSuppliesOff (s : State) : Outcome := .next (whenOn (fun s => { s with power := false }) s)

/-! ### The backup domain (R200) -/

/-- The items of 10.1 after the `n`-th loss, each a free value within its range (log 12). -/
def Timekeeper.lose (n : Nat) (k : Timekeeper) : Timekeeper :=
  let item (i m : Nat) : Nat := Config.lostItem n i % m
  { k with
    time := timeOfTenths (item 0 rangeTenths), valid := decide (item 1 2 = 1), suspect := decide (item 2 2 = 1),
    source := if item 3 2 = 1 then .fallback else .crystal, stops := item 4 256, stallMark := decide (item 5 2 = 1),
    lastSet := if item 6 2 = 1 then some (timeOfTenths (item 7 rangeTenths)) else none,
    lastStep := if item 8 2 = 1 then some ((item 9 (2 * rangeTenths - 1) : Int) - ((rangeTenths - 1 : Nat) : Int)) else none,
    lost := true }

/-- The backup supply fails: the backup domain loses its contents, found so at the next power-on (R200). With the main
supplies on the items are free values from then on. -/
def execBackupSupplyFail (s : State) : Outcome :=
  .next (if s.power then { s with tk := s.tk.lose s.draws, draws := s.draws + 1 }
    else s.modTk fun k => { k with lost := true })

/-- The timekeeper's power-on tests (R200): its items, and the cause of the start-up notice with how TIME_SUSPECT stood
before the tests. A range's end passed with the main supplies off is told as HELD (the model's choice, log 58). -/
def Timekeeper.powerOn (k : Timekeeper) : Timekeeper × Option (SuspectCause × Bool) :=
  if k.lost then ({ Timekeeper.reset with crystalRuns := k.crystalRuns }, some (.invalid, false))
  else
    let k' := { k with source := .crystal, stallMark := false, suspect := k.suspect || k.stallMark }
    (k', if k.stallMark then some (.stalled, k.suspect) else if k.suspect then some (.held, true) else none)

/-! ### CLOCK-SET (R195, R196) -/

/-- The step of a setting, in tenths (R195). -/
def clockStep (old new : DateTime) : Int := (new.tenths : Int) - (old.tenths : Int)

/-- The setting's own event: the items, the calls marked, the deadline test, a dispatcher pass for the retry test. -/
def setClock (t : DateTime) (s : State) : State :=
  let step := clockStep s.now t
  let s := s.modTk fun k => { k with time := t, valid := true, suspect := false, lastSet := some t, lastStep := some step }
  scanRetry (askPass (expireAll (markClockStep s)))

def clockSet (body : List Byte) (s : State) : Except Status (State × List Byte) :=
  match body with
  | [y, mo, d, h, mi, sec, t] =>
    let time := timeOf y mo d h mi sec t
    if !time.valid then .error .badField
    else .ok (setClock time s, eTime s.now ++ eTime time ++ eStep (clockStep s.now time) ++ e8 s.callsInProgress ++
      [s.tk.source.code])
  | _ => .error .badLength

def execClockSet (tag : Byte) (body : List Byte) (s : State) : Outcome := .next (command 0x58 tag body (clockSet body) s)

/-! ### CLOCK-READ (R199) -/

/-- The fields of CLOCK-READ without a date (R199; log 15). -/
def clockFields (s : State) : List Byte :=
  let k := s.tk
  eTime k.time ++ e8 k.time.date.weekday ++ [(dayType s.charge k.time.date).code] ++ eBool k.valid ++ eBool k.suspect ++
    [k.source.code] ++ e8 k.stops ++ eBool k.stallMark ++ eOpt eTime k.lastSet ++ eOpt eStep k.lastStep ++
    e8 s.callsInProgress

def clockRead (body : List Byte) (s : State) : Except Status (State × List Byte) :=
  match body with
  | [] => .ok (s, clockFields s)
  | [y, m, d] =>
    let date := dateOf y m d
    if !date.valid then .error .badField
    else .ok (s, clockFields s ++ e8 date.weekday ++ [(dayType s.charge date).code])
  | _ => .error .badLength

def execClockRead (tag : Byte) (body : List Byte) (s : State) : Outcome := .next (command 0x59 tag body (clockRead body) s)

end Sys2Proof.Machine
end

