-- ==== Sys2Proof/Machine/DocCommands.lean ====
section
/-! DEFINITION. The document commands but for DOC-CANCEL (R49 to R52, R69 to R71), and the steps of the document table
and the dispatcher (R53, R62, R63). -/

namespace Sys2Proof.Machine

/-- A date and time in an optional field's octets. -/
def timeField (v : Option (List Byte)) : Option DateTime :=
  match v with
  | some [y, mo, d, h, mi, s, t] => some (timeOf y mo d h mi s t)
  | _ => none

/-- DOC-CREATE (R49). -/
def docCreate (body : List Byte) (s : State) : Except Status (State × List Byte) :=
  match body with
  | desk :: prio :: r =>
    match readOpt 7 r with
    | .error e => .error e
    | .ok (v, [lim, i1, i0, flag]) =>
      let deadline := timeField v
      match boolOf flag with
      | none => .error .badField
      | some releasePages =>
        if 15 < desk.toNat ∨ !deadline.all DateTime.valid then .error .badField
        else match s.docs.docs.lowest 64 fun d => decide (d.state = .free) with
          | none => .error .tableFull
          | some slot =>
            let issue := (s.docs.docs.get slot).issue
            let d := { Doc.freeWith issue with
              state := .draft, desk := desk.toNat, priority := clamp 0 3 prio.toNat, deadline,
              retryLimit := clamp 0 15 lim.toNat, retryInterval := clamp 30 3600 (nat16 i1 i0), releasePages,
              pagesHeld := true }
            .ok (s.setDoc slot d, e8 d.priority ++ e8 d.retryLimit ++ e16 d.retryInterval ++ eDoc ⟨slot, issue⟩)
    | .ok _ => .error .badLength
  | _ => .error .badLength

/-- Page handles of two octets each. -/
def pageHandles : List Byte → List PageHandle
  | a :: b :: r => pageOf a b :: pageHandles r
  | _ => []

/-- DOC-ADD-PAGES (R50). The page handles are resolved first, whatever the document's handle names (R3). -/
def docAddPages (body : List Byte) (s : State) : Except Status (State × List Byte) :=
  match body with
  | a :: b :: n :: r =>
    if n = 0 ∨ r.length ≠ 2 * n.toNat then .error .badLength
    else
      let h := docOf a b
      let pages := pageHandles r
      if pages.any fun p => (s.page p).isNone then .error .noSuchPage
      else match s.doc h with
      | none => .error .noSuchDoc
      | some d =>
        if d.state ≠ .draft then .error .wrongState
        else if 255 < d.pages.length + pages.length then .error .tableFull
        else match raiseRefs pages s with
          | .error e => .error e
          | .ok s =>
            let d := { d with pages := d.pages ++ pages }
            .ok (s.setDoc h.slot d, e8 d.pages.length)
  | _ => .error .badLength

/-- Records are drawn from the pool for dial strings, the lowest-numbered free ones first (R47). -/
def drawRecords (now : DateTime) : List (List DialSym) → Table (Option Dest) → Table (Option Dest) × List Nat
  | [], pool => (pool, [])
  | dial :: rest, pool =>
    match pool.lowest 2048 Option.isNone with
    | none => (pool, [])
    | some r =>
      let x : Dest := { dial, state := .waiting, attempts := 0, confirmed := 0, eligible := now, lastCause := none,
                        lastLine := none, lastLog := none }
      let (p, rs) := drawRecords now rest (pool.set r (some x))
      (p, r :: rs)

/-- The dial strings of DOC-ADD-DESTS: each 1-40 allowed symbols (R51). -/
def dialStrings (strings : List (Nat × List (Option DialSym))) : Option (List (List DialSym)) :=
  allSome (strings.map fun x => if 1 ≤ x.1 ∧ x.1 ≤ 40 then allSome x.2 else none)

/-- DOC-ADD-DESTS (R51). -/
def docAddDests (body : List Byte) (s : State) : Except Status (State × List Byte) :=
  match body with
  | a :: b :: c :: r =>
    match readStrings (r.length + 1) (c :: r) with
    | none => .error .badLength
    | some strings =>
      let h := docOf a b
      match s.doc h with
      | none => .error .noSuchDoc
      | some d =>
        if d.state ≠ .draft then .error .wrongState
        else match dialStrings strings with
          | none => .error .badField
          | some dials =>
            if 200 < d.dests.length + dials.length ∨ s.docs.freeRecords < dials.length then .error .tableFull
            else
              let (pool, rs) := drawRecords s.now dials s.docs.pool
              let d' := { d with dests := d.dests ++ rs }
              .ok ({ s with docs := { s.docs with pool, docs := s.docs.docs.set h.slot d' } },
                e8 d'.dests.length ++ e8 d.dests.length)
  | _ => .error .badLength

/-- DOC-SUBMIT (R52): queued with its sequence, tested against its deadline (R64), and a pass asked for. -/
def docSubmit (body : List Byte) (s : State) : Except Status (State × List Byte) :=
  match body with
  | [a, b] =>
    let h := docOf a b
    match s.doc h with
    | none => .error .noSuchDoc
    | some d =>
      if d.state ≠ .draft then .error .wrongState
      else if d.pages = [] ∨ d.dests = [] then .error .badField
      else if d.pages.any fun p => decide ((s.entry p.slot).state = .opened) then .error .wrongState
      else
        let q := s.docs.counter
        let s := s.setDoc h.slot { d with state := .queued, sequence := q }
        let s := { s with docs := { s.docs with counter := wrapSucc 65536 q } }
        let s := askPass (expireDoc h.slot s)
        .ok (scanRetry s, e16 q ++ [(s.docs.docs.get h.slot).state.code])
  | _ => .error .badLength

/-- Records go back to the pool (R47). -/
def freeRecordList (rs : List Nat) (pool : Table (Option Dest)) : Table (Option Dest) :=
  rs.foldl (fun p r => p.set r none) pool

/-- DOC-DELETE (R69). -/
def docDelete (body : List Byte) (s : State) : Except Status (State × List Byte) :=
  match body with
  | [a, b] =>
    let h := docOf a b
    match s.doc h with
    | none => .error .noSuchDoc
    | some d =>
      if d.state = .queued ∨ d.state = .active then .error .wrongState
      else
        let s := { s with docs := { s.docs with pool := freeRecordList d.dests s.docs.pool,
                                                docs := s.docs.docs.set h.slot (.freeWith (wrapSucc 256 d.issue)) } }
        let s := if d.pagesHeld then lowerRefs d.pages s else s
        .ok (scanRetry s, e16 s.docs.freeRecords)
  | _ => .error .badLength

/-- The fields of DOC-STATUS (R70). -/
def docStatusFields (s : State) (d : Doc) : List Byte :=
  e8 d.issue ++ [d.state.code] ++ e8 d.desk ++ e8 d.priority ++ eOpt eTime d.deadline ++ e8 d.retryLimit ++
    e16 d.retryInterval ++ eBool d.releasePages ++ eBool d.cancelReq ++ eBool d.pagesHeld ++ e16 d.sequence ++
    eList ePage d.pages ++ e8 d.dests.length ++ e8 d.sent ++ e8 d.failed ++ e8 d.expired ++ e8 d.cancelled ++
    e8 (s.countDests d fun st => decide (st = .waiting)) ++ e8 (s.countDests d fun st => decide (st = .retryWait)) ++
    e8 (s.countDests d fun st => decide (st = .onLine)) ++ eBool (s.desks.get d.desk).reached

def docStatus (body : List Byte) (s : State) : Except Status (State × List Byte) :=
  match body with
  | [a, b] => match s.doc (docOf a b) with
    | none => .error .noSuchDoc
    | some d => .ok (s, docStatusFields s d)
  | _ => .error .badLength

/-- A destination record with its index, as DOC-DEST-STATUS reports it (R71). -/
def eDest (index : Nat) (x : Dest) : List Byte :=
  e8 index ++ eSyms x.dial ++ [x.state.code] ++ e8 x.attempts ++ e8 x.confirmed ++ eTime x.eligible ++
    eOpt eCause x.lastCause ++ eOpt (fun l : LineNo => e8 l.val) x.lastLine ++ eOpt e16 x.lastLog

def docDestStatus (body : List Byte) (s : State) : Except Status (State × List Byte) :=
  match body with
  | [a, b, f, n] => match s.doc (docOf a b) with
    | none => .error .noSuchDoc
    | some d =>
      if d.dests.length ≤ f.toNat then .error .badField
      else .ok (s, eList (fun p : Nat × Nat => match s.dest p.1 with | some x => eDest p.2 x | none => [])
        ((d.dests.zipIdx.drop f.toNat).take (clamp 1 10 n.toNat)))
  | _ => .error .badLength

def execDocCreate (tag : Byte) (body : List Byte) (s : State) : Outcome := .next (command 0x28 tag body (docCreate body) s)

def execDocAddPages (tag : Byte) (body : List Byte) (s : State) : Outcome :=
  .next (command 0x29 tag body (docAddPages body) s)

def execDocAddDests (tag : Byte) (body : List Byte) (s : State) : Outcome :=
  .next (command 0x2A tag body (docAddDests body) s)

def execDocSubmit (tag : Byte) (body : List Byte) (s : State) : Outcome := .next (command 0x2B tag body (docSubmit body) s)

def execDocStatus (tag : Byte) (body : List Byte) (s : State) : Outcome := .next (command 0x2D tag body (docStatus body) s)

def execDocDestStatus (tag : Byte) (body : List Byte) (s : State) : Outcome :=
  .next (command 0x2E tag body (docDestStatus body) s)

def execDocDelete (tag : Byte) (body : List Byte) (s : State) : Outcome := .next (command 0x2F tag body (docDelete body) s)

/-! ### Times reached, and the pass -/

/-- The time has reached a document's deadline (R63). -/
def execDeadlineReached (slot : Nat) (s : State) : Outcome := .next (whenOn (fun s => scanRetry (expireDoc slot s)) s)

/-- The time has reached a destination's next eligible time (R62): the dispatcher is asked for a pass. -/
def retryEligible (record : Nat) (s : State) : State :=
  match s.dest record with
  | some x => if x.state = .retryWait ∧ x.eligible.le s.now then askPass s else s
  | none => s

def execRetryEligible (record : Nat) (s : State) : Outcome := .next (whenOn (retryEligible record) s)

/-- A pass that has been asked for (R53; log 24). -/
def execDispatcherPass (s : State) : Outcome :=
  .next (whenOn (fun s => if s.docs.passAsked then dispatcherPass s else s) s)

end Sys2Proof.Machine
end

