-- ==== Sys2Proof/Machine/HostLink.lean ====
section
/-! DEFINITION. The host link (chapter 11): the receiver of frames, the transmitter, and the general commands but for
RESET (R202 to R213). -/

namespace Sys2Proof.Machine

def State.modLink (s : State) (f : Link → Link) : State := { s with link := f s.link }

/-! ### Receiving frames (R204 to R206) -/

/-- Causes of LINK_CHECK in the order of 11.7.2. -/
inductive CheckCause where
  | crc | length | gap | framing
  deriving DecidableEq, Repr

def CheckCause.code : CheckCause → Byte
  | .crc => 0 | .length => 1 | .gap => 2 | .framing => 3

/-- The fields of LINK_CHECK (R205): cause, kind and tag where taken, octets taken after the start octet. -/
def linkCheckFields (cause : CheckCause) (candidate : List Byte) : List Byte :=
  [cause.code] ++ eOpt (fun b : Byte => [b]) candidate[3]? ++ eOpt (fun b : Byte => [b]) candidate[4]? ++
    e16 (candidate.length - 1)

def raiseCheck (cause : CheckCause) (candidate : List Byte) (s : State) : State :=
  raise .linkCheck (linkCheckFields cause candidate) s

/-- A frame that passed its checks joins the receive buffer, or is discarded while 8 are held (R206). -/
def completeFrame (f : Frame) (s : State) : State :=
  if s.link.held.length < 8 then s.modLink fun k => { k with held := k.held ++ [f] }
  else raise .linkOverrun ([f.kind, f.tag] ++ e8 8) s

/-- What the octets of a candidate frame, its start octet first, come to (R204). -/
inductive Candidate where
  | partly
  | tooLong
  | complete (f : Frame) (octets : Nat)
  | badCrc (octets : Nat)
  deriving DecidableEq, Repr

def judge (c : List Byte) : Candidate :=
  match c with
  | _ :: n1 :: n0 :: r =>
    let n := nat16 n1 n0
    if 1040 < n then .tooLong
    else if r.length < n + 4 then .partly
    else match r with
      | kind :: tag :: q =>
        let f : Frame := ⟨kind, tag, q.take n⟩
        if crcOctets f.covered = (q.drop n).take 2 then .complete f (n + 7) else .badCrc (n + 7)
      | _ => .partly
  | _ => .partly

/-- Octets examined from HUNTING on (R204, R205): each candidate is completed, or failed and its octets after the start
octet examined again, or kept as the frame in receipt. -/
def examine : (fuel : Nat) → List Byte → State → State
  | 0, _, s => s
  | fuel + 1, octets, s =>
    match octets with
    | [] => s.modLink fun k => { k with candidate := [] }
    | o :: rest =>
      if o ≠ 0xA5 then examine fuel rest s
      else match judge octets with
        | .partly => s.modLink fun k => { k with candidate := octets }
        | .tooLong => examine fuel rest (raiseCheck .length (octets.take 3) s)
        | .complete f n => examine fuel (octets.drop n) (completeFrame f s)
        | .badCrc n => examine fuel rest (raiseCheck .crc (octets.take n) s)

/-- Octets examined, with fuel for each of them. -/
def examineAll (octets : List Byte) (s : State) : State := examine (octets.length + 1) octets s

/-- The frame in receipt fails with a cause, and so does any candidate that re-examination leaves unfinished (R205;
log 17). -/
def failCandidate (cause : CheckCause) : (fuel : Nat) → State → State
  | 0, s => s
  | fuel + 1, s =>
    match s.link.candidate with
    | [] => s
    | _ :: rest => failCandidate cause fuel (examineAll rest (raiseCheck cause s.link.candidate s))

def failReceipt (cause : CheckCause) (s : State) : State := failCandidate cause (s.link.candidate.length + 1) s

/-- An octet of the serial line (R204). -/
def octetReceived (octet : Byte) (stopBit : Bool) (s : State) : State :=
  if stopBit then examineAll (s.link.candidate ++ [octet]) s else failReceipt .framing s

def execHostOctetReceived (octet : Byte) (stopBit : Bool) (s : State) : Outcome :=
  .next (whenOn (octetReceived octet stopBit) s)

/-- 50 ms without an octet within a frame (R204). -/
def execFrameGapExpiry (s : State) : Outcome := .next (whenOn (failReceipt .gap) s)

/-- The host's READY input (R203). -/
def execHostReadyChange (asserted : Bool) (s : State) : Outcome :=
  .next (s.modLink fun k => { k with hostReady := asserted })

/-- The part's READY output (R203, R215). -/
def State.partReady (s : State) : Bool := s.power && decide (s.link.held.length ≤ 6)

/-! ### Transmitting (R203, R208, R210) -/

/-- A frame begins while the transmitter is free and the host's READY asserted: the oldest reply, otherwise the head
notice with the lost count. -/
def transmitStart (s : State) : State :=
  if s.link.tx ≠ .free ∨ !s.link.hostReady then s
  else match s.link.replies, s.link.notices with
    | r :: _, _ => s.modLink fun k => { k with tx := .sendingReply r.frame.octets }
    | [], n :: _ => s.modLink fun k => { k with tx := .sendingNotice (n.frame k.lost).octets, lost := 0 }
    | [], [] => s

def execFrameTransmitStart (s : State) : Outcome := .next (whenOn transmitStart s)

/-- A reply has been sent whole (R202, R208): it and its command's frame leave, and a LINK-RATE's new rate comes in.
Both rules name that one moment. DESIGN CHOICE (log 41): the held frame leaves first and the frame in receipt fails with
FRAMING after it, so with 8 held a frame completed by the re-examination joins, without LINK_OVERRUN. -/
def replySent (s : State) : State :=
  match s.link.tx, s.link.replies with
  | .sendingReply _, r :: rest =>
    let s := s.modLink fun k => { k with tx := .free, replies := rest, held := k.held.tail, taken := k.taken - 1 }
    match r.newRate with
    | none => s
    | some rate => if rate = s.link.rate then s else failReceipt .framing (s.modLink fun k => { k with rate })
  | _, _ => s

def execReplySent (s : State) : Outcome := .next (whenOn replySent s)

/-- A notice has been sent whole (R210). -/
def noticeSent (s : State) : State :=
  match s.link.tx with
  | .sendingNotice _ => s.modLink fun k => { k with tx := .free, notices := k.notices.tail }
  | .free | .sendingReply _ => s

def execNoticeSent (s : State) : Outcome := .next (whenOn noticeSent s)

/-! ### Commands of no kind, and the general commands (R202, R207, R211 to R213) -/

/-- The 55 command kinds (11.7.2). -/
def isCommandKind (kind : Byte) : Bool :=
  let k := kind.toNat
  (1 ≤ k && k ≤ 0x06) || (0x10 ≤ k && k ≤ 0x17) || (0x20 ≤ k && k ≤ 0x23) || (0x28 ≤ k && k ≤ 0x35) ||
    (0x38 ≤ k && k ≤ 0x40) || (0x48 ≤ k && k ≤ 0x53) || (0x58 ≤ k && k ≤ 0x59)

/-- A kind that is no command kind (R207). -/
def execUnknownKindCommand (kind tag : Byte) (body : List Byte) (s : State) : Outcome :=
  .next (if isCommandKind kind then s else hostCommand kind tag body (refuse 0xFE tag .unknownKind) s)

/-- "MELKJAR" and "TF440" (R212). -/
def vendorName : List Byte := [0x4D, 0x45, 0x4C, 0x4B, 0x4A, 0x41, 0x52]
def partName : List Byte := [0x54, 0x46, 0x34, 0x34, 0x30]

/-- IDENTIFY (R212). The reply queue's length is that before its own reply joins (log 56). -/
def identify (body : List Byte) (s : State) : Except Status (State × List Byte) :=
  if body ≠ [] then .error .badLength
  else .ok (s, eChars vendorName ++ eChars partName ++ e8 1 ++ e8 4 ++ e16 8192 ++ e16 1024 ++ eChars s.cfg.identity ++
    [s.link.rate.code] ++ e8 s.link.mask ++ e8 s.link.held.length ++ e8 s.link.replies.length ++
    e8 s.link.notices.length ++ e8 s.link.lost)

def execIdentify (tag : Byte) (body : List Byte) (s : State) : Outcome := .next (command 0x01 tag body (identify body) s)

/-- LINK-RATE (R202): the reply brings the new rate in when it has been sent. -/
def linkRate (tag : Byte) (body : List Byte) (s : State) : State :=
  match body with
  | [c] => match hostRateOf c with
    | none => refuse 0x02 tag .badField s
    | some rate => s.modLink fun k => { k with
        replies := k.replies ++ [{ frame := ⟨0x82, tag, [Status.ok.code, rate.code]⟩, newRate := some rate }] }
  | _ => refuse 0x02 tag .badLength s

def execLinkRate (tag : Byte) (body : List Byte) (s : State) : Outcome :=
  .next (hostCommand 0x02 tag body (linkRate tag body) s)

/-- NOTICE-MASK (R211). -/
def noticeMask (body : List Byte) (s : State) : Except Status (State × List Byte) :=
  match body with
  | [m] =>
    let mask := clamp 0 3 m.toNat
    .ok (s.modLink fun k => { k with mask }, e8 mask ++ e8 s.link.notices.length ++ e8 s.link.lost)
  | _ => .error .badLength

def execNoticeMask (tag : Byte) (body : List Byte) (s : State) : Outcome :=
  .next (command 0x03 tag body (noticeMask body) s)

/-- The octets of a configuration item's value (R213; log 13); none for a number that is no item. -/
def itemLength (item : Nat) (r : List Byte) : Option Nat :=
  if item = 1 then some (1 + (r.headD 0).toNat)
  else if item = 2 ∨ item = 6 then some 2
  else if item = 3 ∨ item = 4 ∨ item = 5 ∨ item = 7 then some 1
  else none

/-- Reads `n` configuration items: number and value octets (R213). A number that is no item has no length, so the reading
ends there with BAD_FIELD and what follows is not looked at: DESIGN CHOICE, log 13. -/
def readItems : (n : Nat) → List Byte → Except Status (List (Nat × List Byte))
  | 0, [] => .ok []
  | 0, _ :: _ => .error .badLength
  | _ + 1, [] => .error .badLength
  | n + 1, i :: r =>
    match itemLength i.toNat r with
    | none => .error .badField
    | some k =>
      if r.length < k then .error .badLength
      else match readItems n (r.drop k) with
        | .error e => .error e
        | .ok items => .ok ((i.toNat, r.take k) :: items)

/-- One item into the configuration, numeric ones clamped; none for a value it cannot take (R213). -/
def applyItem (c : ConfigItems) (x : Nat × List Byte) : Option ConfigItems :=
  match x.1, x.2 with
  | 1, _ :: chars =>
    if chars.length ≤ 20 ∧ chars.all fun o => decide (0x20 ≤ o.toNat) && decide (o.toNat ≤ 0x7E) then
      some { c with identity := chars }
    else none
  | 2, [a, b] => some { c with receptionReserve := clamp 0 2048 (nat16 a b) }
  | 3, [a] => some { c with inboundReserve := clamp 0 3 a.toNat }
  | 4, [a] => (boolOf a).map fun v => { c with autoPrint := v }
  | 5, [a] => (boolOf a).map fun v => { c with autoDiscard := v }
  | 6, [a, b] => some { c with strikeLimit := clamp 216 1728 (nat16 a b) }
  | 7, [a] => some { c with tolerance := clamp 0 15 a.toNat }
  | _, _ => none

def applyItems : List (Nat × List Byte) → ConfigItems → Option ConfigItems
  | [], c => some c
  | x :: xs, c => match applyItem c x with
    | none => none
    | some c' => applyItems xs c'

/-- No item stands twice. -/
def itemsOnce : List (Nat × List Byte) → Bool
  | [] => true
  | x :: xs => xs.all (fun y => decide (y.1 ≠ x.1)) && itemsOnce xs

/-- The seven items (R213): their values in the order of the item numbers, without the numbers (the model's choice,
log 15). -/
def configFields (c : ConfigItems) : List Byte :=
  eChars c.identity ++ e16 c.receptionReserve ++ e8 c.inboundReserve ++ eBool c.autoPrint ++ eBool c.autoDiscard ++
    e16 c.strikeLimit ++ e8 c.tolerance

/-- CONFIG-SET (R213): all items in one event; a changed reserve is tested for STORE_LOW and lets a held scan job retry
(R6, R40), a changed inbound reserve makes the dispatcher pass (R53). -/
def configSet (body : List Byte) (s : State) : Except Status (State × List Byte) :=
  match body with
  | [] => .error .badLength
  | n :: r =>
    if n = 0 then .error .badLength
    else match readItems n.toNat r with
      | .error e => .error e
      | .ok items =>
        if !itemsOnce items then .error .badField
        else match applyItems items s.cfg with
          | none => .error .badField
          | some cfg =>
            let pass := decide (cfg.inboundReserve ≠ s.cfg.inboundReserve)
            let s := scanRetry (lowTest { s with cfg })
            .ok (if pass then askPass s else s, configFields cfg)

def configGet (body : List Byte) (s : State) : Except Status (State × List Byte) :=
  if body ≠ [] then .error .badLength else .ok (s, configFields s.cfg)

def execConfigSet (tag : Byte) (body : List Byte) (s : State) : Outcome := .next (command 0x04 tag body (configSet body) s)

def execConfigGet (tag : Byte) (body : List Byte) (s : State) : Outcome := .next (command 0x05 tag body (configGet body) s)

end Sys2Proof.Machine
end

