-- ==== Sys2Proof/Machine/LineCommands.lean ====
section
/-! DEFINITION. The line and macro commands (R75, R80 to R82), DOC-CANCEL (R65, R66), and the steps of dialling, answering
and rest (R76, R79, R85 to R92). -/

namespace Sys2Proof.Machine

/-- A line number of a body. -/
def lineOf (b : Byte) : Option LineNo := if h : b.toNat < 4 then some ⟨b.toNat, h⟩ else none

/-! ### Line commands -/

/-- The five items of a line's configuration (R80). -/
def lineConfigFields (c : LineConfig) : List Byte :=
  [c.direction.code] ++ eBool c.metered ++ e8 c.restTime ++ e8 c.ringsToAnswer ++ e8 c.answerTimeout

/-- LINE-CONFIG (R80). -/
def lineConfigure (body : List Byte) (s : State) : Except Status (State × List Byte) :=
  match body with
  | [n, d, m, rest, rings, timeout] => match lineOf n with
    | none => .error .noSuchEntry
    | some l => match directionOf d, boolOf m with
      | some direction, some metered =>
        if (s.line l).inCall then .error .busy
        else
          let config : LineConfig :=
            { direction, metered, restTime := clamp 1 10 rest.toNat, ringsToAnswer := clamp 1 9 rings.toNat,
              answerTimeout := clamp 30 120 timeout.toNat }
          .ok (askPass (s.modLine l fun x => { x with config }), lineConfigFields config)
      | _, _ => .error .badField
  | _ => .error .badLength

/-- The call record as LINE-STATUS reports it (R82, R83). Document, index, desk and priority, which only an OUT call has,
stand behind one presence octet (log 15). -/
def callFields (c : CallRec) : List Byte :=
  [if c.out.isSome then 0 else 1] ++ eOpt (fun o : OutCall => eDoc o.doc ++ e8 o.index ++ e8 o.desk ++ e8 o.priority) c.out ++
    eOpt eDigits (c.out.map fun _ => c.charged) ++ eOpt e8 c.zone ++ eBool c.reserved ++ eTime c.start ++
    eOpt eTime c.connect ++ eOpt eTime c.release ++ eOpt eCause c.cause ++ e8 c.pages ++ [c.flags.octet] ++
    eOpt eIn c.inbound

/-- The charging state as LINE-STATUS reports it (R164, R165). -/
def chargeFields (c : ChargeState) : List Byte :=
  eBool c.captured ++ e8 c.zone ++
    ((List.range 8).flatMap fun b => e8 (rateAt c.rates b).setup ++ e16 (rateAt c.rates b).period) ++
    [c.rounding.code] ++ e8 c.minimum ++ e16 c.price ++ eBool c.metered ++ e16 c.pulses ++ eBool c.saturated

/-- The call parameters in the order of their table (R94). -/
def paramFields (p : CallParams) : List Byte :=
  eOpt (fun r : Role => [r.code]) p.role ++ eOpt eChars p.remoteId ++ eOpt eLineRate p.rateChosen ++
    eOpt eLineRate p.rate ++ e8 p.stepDowns ++ eOpt eOrder p.order ++ eBool p.chop ++
    eOpt (fun b : Byte => [b]) p.classes ++ eBool p.trained ++ e8 p.pageSeq ++ e8 p.pagePos ++ e8 p.block ++
    e8 p.round ++ e8 p.repeats ++ e16 p.framesResent ++ [p.detector.code]

/-- The fields of LINE-STATUS (R82, R94, R164; log 15). -/
def lineStatusFields (x : Line) : List Byte :=
  [x.state.code] ++ lineConfigFields x.config ++ e8 x.ringCount ++ eBool x.burst ++
    eOpt (fun a : Attempt => eDoc a.doc ++ e8 a.index) x.attempt ++ eSyms x.expander.buffer ++ e8 x.expander.charge ++
    eDigits x.charged ++ eOpt callFields x.call ++ chargeFields x.charging ++ e16 x.fillCount ++
    eOpt eCause x.lastCause ++ paramFields x.params

def lineStatusOf (body : List Byte) (s : State) : Except Status (State × List Byte) :=
  match body with
  | [n] => match lineOf n with
    | none => .error .noSuchEntry
    | some l => .ok (s, lineStatusFields (s.line l))
  | _ => .error .badLength

/-- LINE-HOLD (R81). -/
def lineHoldOf (body : List Byte) (s : State) : Except Status (State × List Byte) :=
  match body with
  | [n] => match lineOf n with
    | none => .error .noSuchEntry
    | some l =>
      if (s.line l).inCall then .error .busy
      else
        let s := changeState l .outOfService none s
        .ok (s, [(s.line l).state.code])
  | _ => .error .badLength

/-- LINE-RELEASE (R81): IDLE, then the ring test of R92, then a pass. -/
def lineReleaseOf (body : List Byte) (s : State) : Except Status (State × List Byte) :=
  match body with
  | [n] => match lineOf n with
    | none => .error .noSuchEntry
    | some l =>
      if (s.line l).state ≠ .outOfService then .error .wrongState
      else
        let s := changeState l .idle none s
        let s := if (s.line l).ringDue then (answerDecision false l s).1 else s
        .ok (askPass s, [(s.line l).state.code])
  | _ => .error .badLength

def execLineConfig (tag : Byte) (body : List Byte) (s : State) : Outcome :=
  .next (command 0x30 tag body (lineConfigure body) s)

def execLineStatus (tag : Byte) (body : List Byte) (s : State) : Outcome :=
  .next (command 0x31 tag body (lineStatusOf body) s)

def execLineHold (tag : Byte) (body : List Byte) (s : State) : Outcome := .next (command 0x32 tag body (lineHoldOf body) s)

def execLineRelease (tag : Byte) (body : List Byte) (s : State) : Outcome :=
  .next (command 0x33 tag body (lineReleaseOf body) s)

/-! ### Macros (R75) -/

/-- MACRO-SET's reply: the new length, absent for unset. -/
def macroSetFields (m : Option (List DialSym)) : List Byte := eOpt (fun l : List DialSym => e8 l.length) m

def setMacro (n : Nat) (m : Option (List DialSym)) (s : State) : Except Status (State × List Byte) :=
  if 31 < n then .error .noSuchEntry else .ok ({ s with macros := s.macros.set n m }, macroSetFields m)

/-- MACRO-SET (R75): the number, then absent for unset or the count and the symbols. -/
def macroSet (body : List Byte) (s : State) : Except Status (State × List Byte) :=
  match body with
  | n :: p :: r =>
    if p = 0 then if r = [] then setMacro n.toNat none s else .error .badLength
    else if p = 1 then match r with
      | [] => .error .badLength
      | c :: q => match readSyms c.toNat q with
        | none => .error .badLength
        | some (_, _ :: _) => .error .badLength
        | some (syms, []) =>
          if 31 < n.toNat then .error .noSuchEntry
          else if 40 < c.toNat then .error .badField
          else match allSome syms with
            | none => .error .badField
            | some l => setMacro n.toNat (some l) s
    else .error .badField
  | _ => .error .badLength

def macroGet (body : List Byte) (s : State) : Except Status (State × List Byte) :=
  match body with
  | [n] => if 31 < n.toNat then .error .noSuchEntry else .ok (s, eOpt eSyms (s.macros.get n.toNat))
  | _ => .error .badLength

def execMacroSet (tag : Byte) (body : List Byte) (s : State) : Outcome := .next (command 0x34 tag body (macroSet body) s)

def execMacroGet (tag : Byte) (body : List Byte) (s : State) : Outcome := .next (command 0x35 tag body (macroGet body) s)

/-! ### DOC-CANCEL (R65, R66, R114) -/

/-- Every page of the line's document has been confirmed to its destination. -/
def State.allConfirmed (s : State) (l : LineNo) : Bool :=
  match (s.line l).call with
  | some c => match c.out with
    | some o => match s.doc o.doc with
      | some d => match d.dests[o.index]? with
        | some r => match s.dest r with
          | some x => Nat.beq x.confirmed d.pages.length
          | none => false
        | none => false
      | none => false
    | none => false
  | none => false

/-- A line is told to end the attempt of a cancelled document (R66, R114): before connect it goes on hook at once, in
RELEASING its cause becomes CANCELLED unless every page was confirmed, in the other states its procedure ends it. -/
def cancelOnLine (h : DocHandle) (s : State) (l : LineNo) : State :=
  let x := s.line l
  match x.attempt with
  | none => s
  | some a =>
    if a.doc ≠ h then s
    else match x.state with
      | .seized | .dialling | .alerting => hangUp false l .cancelled s
      | .releasing =>
        if s.allConfirmed l then s
        else (s.modCall l fun c => { c with cause := some .cancelled }).modProc l fun p =>
          { p with awaitQuit := p.awaitQuit.map fun _ => .cancelled }
      | .idle | .answering | .negotiating | .training | .sending | .receiving | .postPage | .rest | .outOfService => s

/-- Every destination of a DRAFT document becomes CANCELLED, and so does the document (R65). -/
def cancelDraft (slot : Nat) (s : State) : State × Nat :=
  let (s, n) := moveAllWaiting .cancelled slot s
  (endDoc false slot .cancelled s, n)

/-- A QUEUED or ACTIVE document is cancelled (R65). The number handed back is that of the destinations moved from WAITING
and RETRY_WAIT, without those whose calls end here; several calls not yet connected end in the order LC0 to LC3, which
settles their log sequences and notices (the model's choice, log 46). -/
def cancelRunning (h : DocHandle) (s : State) : State × Nat :=
  let (s, n) := moveAllWaiting .cancelled h.slot s
  let d := s.docs.docs.get h.slot
  if s.countDests d (fun st => st = .onLine) = 0 then (completeTest false true h.slot s, n)
  else (allLines.foldl (cancelOnLine h) (s.setDoc h.slot { d with cancelReq := true }), n)

def docCancel (body : List Byte) (s : State) : Except Status (State × List Byte) :=
  match body with
  | [a, b] =>
    let h := docOf a b
    match s.doc h with
    | none => .error .noSuchDoc
    | some d =>
      if d.state = .done ∨ d.state = .cancelled then .error .wrongState
      else
        let (s, n) := if d.state = .draft then cancelDraft h.slot s else cancelRunning h s
        .ok (scanRetry s, [(s.docs.docs.get h.slot).state.code] ++ e8 n)
  | _ => .error .badLength

def execDocCancel (tag : Byte) (body : List Byte) (s : State) : Outcome := .next (command 0x2C tag body (docCancel body) s)

/-! ### Expansion and lookup (R76 to R79) -/

/-- An attempt ends before seizure with a cause (R78, R79): the outcome without a log sequence, LINE_STATE, the deferred
decision. -/
def endUnseized (l : LineNo) (a : Attempt) (cause : Cause) (s : State) : State :=
  deferredDecision l (reportUnseized l cause (letGo l (outcomeReport false a.doc a.index cause s.now none s)))

/-- The dial string of an attempt is expanded (R76), due once for each hand-off. A failed expansion keeps the buffer and has
no charged number (R78; log 49). -/
def dialExpansion (l : LineNo) (s : State) : State :=
  match (s.line l).attempt with
  | none => s
  | some a =>
    if (s.line l).state ≠ .idle ∨ a.expanded then s
    else match expand s.macros a.dial with
      | (e, some sub) =>
        endUnseized l a (.dialError sub) (s.modLine l fun x => { x with expander := e, charged := [] })
      | (e, none) => s.modLine l fun x => { x with
          expander := e, charged := chargedDigits e, attempt := some { a with expanded := true } }

def execDialExpansion (l : LineNo) (s : State) : Outcome := .next (whenOn (fun s => scanRetry (dialExpansion l s)) s)

/-- The document table confirms a seizure (R58): the desk below its limit, no cancel requested; the log's room is tested
by the reservation (R184). -/
def seizureAllowed (a : Attempt) (s : State) : Bool :=
  !(s.desk a.desk).reached && (match s.doc a.doc with | some d => !d.cancelReq | none => false)

/-- The zone lookup of an expanded attempt (R79), due once: BARRED ends it, a zone asks for the seizure. -/
def zoneLookup (l : LineNo) (s : State) : State :=
  match (s.line l).attempt with
  | none => s
  | some a =>
    if (s.line l).state ≠ .idle ∨ !a.expanded then s
    else match s.charge.lookup (s.line l).charged with
      | none => endUnseized l a .barred s
      | some zone =>
        if seizureAllowed a s then
          match logReserve s with
          | some s => seize l a zone s
          | none => deferredDecision l (letGo l (withdrawAttempt a.doc a.index s))
        else deferredDecision l (letGo l (withdrawAttempt a.doc a.index s))

def execZoneLookup (l : LineNo) (s : State) : Outcome := .next (whenOn (fun s => scanRetry (zoneLookup l s)) s)

/-! ### Dialling (R85 to R87) -/

/-- The line is playing its dial buffer. -/
def CallState.playing : CallState → Bool
  | .seized | .dialling => true
  | .idle | .alerting | .answering | .negotiating | .training | .sending | .receiving | .postPage | .releasing | .rest
  | .outOfService => false

/-- The symbol played, other than a W, is over (R85). -/
def dialSymbolEnd (l : LineNo) (s : State) : State :=
  let x := s.line l
  if x.state.playing && x.symbol.isSome && !(x.symbol = some .wait) then nextSymbol l s else s

def execDialSymbolEnd (l : LineNo) (s : State) : Outcome := .next (whenOn (dialSymbolEnd l) s)

/-- The modem reports dial tone while the dial buffer plays (R85): a W that waits for it completes, and one that begins
later finds it present (log 59). -/
def dialToneReport (l : LineNo) (s : State) : State :=
  let x := s.line l
  if x.state.playing then
    let s := s.modLine l fun x => { x with dialTone := true }
    if x.symbol = some .wait then beginSymbol l s else s
  else s

def execDialToneReport (l : LineNo) (s : State) : Outcome := .next (whenOn (dialToneReport l) s)

/-- 10 s of a W without dial tone (R85). -/
def dialToneTimeout (l : LineNo) (s : State) : State :=
  let x := s.line l
  if x.state.playing && x.symbol = some .wait then hangUp false l .noDialTone s else s

def execDialToneTimeout (l : LineNo) (s : State) : Outcome := .next (whenOn (fun s => scanRetry (dialToneTimeout l s)) s)

/-- Busy tone in DIALLING or ALERTING (R85, R86). -/
def busyTone (l : LineNo) (s : State) : State :=
  let x := s.line l
  if x.state = .dialling ∨ x.state = .alerting then hangUp false l .busy s else s

def execBusyTone (l : LineNo) (s : State) : Outcome := .next (whenOn (fun s => scanRetry (busyTone l s)) s)

/-- The answer indication in DIALLING or ALERTING connects the call (R85, R86). -/
def answerIndication (l : LineNo) (s : State) : State :=
  let x := s.line l
  if x.state = .dialling ∨ x.state = .alerting then connectOut l s else s

def execAnswerIndication (l : LineNo) (s : State) : Outcome := .next (whenOn (answerIndication l) s)

/-- The answer timer of ALERTING has run out (R86). -/
def answerTimeout (l : LineNo) (s : State) : State :=
  if (s.line l).state = .alerting then hangUp false l .noAnswer s else s

def execAnswerTimeout (l : LineNo) (s : State) : Outcome := .next (whenOn (fun s => scanRetry (answerTimeout l s)) s)

/-! ### Rings, answering, rest (R88 to R92) -/

def execRing (l : LineNo) (s : State) : Outcome := .next (whenOn (fun s => scanRetry (ring l s)) s)

/-- 8 s after the last ring the burst ends, and with it the refusal mark (R88). -/
def ringBurstEnd (l : LineNo) (s : State) : State :=
  if (s.line l).burst then
    s.modLine l fun x => { x with ringCount := 0, burst := false, refused := false, deferred := false }
  else s

def execRingBurstEnd (l : LineNo) (s : State) : Outcome := .next (whenOn (ringBurstEnd l) s)

/-- The answer tone sent has ended (R90). -/
def answerToneEnd (l : LineNo) (s : State) : State :=
  if (s.line l).state = .answering then connectIn l s else s

def execAnswerToneEnd (l : LineNo) (s : State) : Outcome := .next (whenOn (answerToneEnd l) s)

def execRestEnd (l : LineNo) (s : State) : Outcome := .next (whenOn (restEnd l) s)

end Sys2Proof.Machine
end

