-- ==== Sys2Proof/Machine/PageCommands.lean ====
section
/-! DEFINITION. The host page commands (R15, R19 to R23) and the progress of those that wait on the store port. -/

namespace Sys2Proof.Machine

def State.setJob (s : State) (j : Option HostJob) : State := { s with link := { s.link with job := j } }

/-- PAGE-OPEN-WRITE (R19). -/
def pageOpenWrite (body : List Byte) (s : State) : Except Status (State × List Byte) :=
  match body with
  | [c] => match classOf c with
    | none => .error .badField
    | some cls => match openPage .hostXfer .host cls s with
      | .error e => .error e
      | .ok (s, h) => .ok (s, ePage h)
  | _ => .error .badLength

/-- The handle of an upload (R20, R21): the page named, OPEN for HOSTXFER. -/
def uploadPage (s : State) (h : PageHandle) : Except Status PageEntry :=
  match s.page h with
  | none => .error .noSuchPage
  | some e => if e.state = .opened ∧ e.writer = some .hostXfer then .ok e else .error .wrongState

/-- The reply fields of PAGE-WRITE-DATA (R20): octets accepted, byte length plus pending count. -/
def writeFields (s : State) (h : PageHandle) (accepted : Nat) : List Byte :=
  let e := s.entry h.slot
  e16 accepted ++ e32 (e.byteLen + e.pending.length)

/-- An upload goes on (R20): its next store block is asked for, or its reply formed. -/
def writeOn (tag : Byte) (h : PageHandle) (left : List Byte) (fromPending accepted : Nat) (s : State) : State :=
  if 256 ≤ left.length then
    match askWrite .hostXfer h (left.take 256) none s with
    | (s', .pass) => s'.setJob (some (.writeData tag h left fromPending accepted))
    | (s', _) =>
      let s' := s'.modEntry h.slot fun e => { e with pending := left.take fromPending }
      reply 0x11 tag .storeFull (writeFields s' h accepted) (s'.setJob none)
  else
    let s := s.modEntry h.slot fun e => { e with pending := left }
    reply 0x11 tag .ok (writeFields s h (accepted + (left.length - fromPending))) (s.setJob none)

/-- A block of an upload has committed (R20). -/
def writeCommitted (tag : Byte) (h : PageHandle) (left : List Byte) (fromPending accepted : Nat) (s : State) : State :=
  writeOn tag h (left.drop 256) 0 (accepted + (256 - fromPending)) s

/-- An upload's block was refused at grant (R5, R20). -/
def writeRefused (tag : Byte) (h : PageHandle) (left : List Byte) (fromPending accepted : Nat) (s : State) : State :=
  let s := s.modEntry h.slot fun e => { e with pending := left.take fromPending }
  reply 0x11 tag .storeFull (writeFields s h accepted) (s.setJob none)

/-- PAGE-WRITE-DATA (R20). -/
def pageWriteData (tag : Byte) (body : List Byte) (s : State) : State :=
  match body with
  | a :: b :: data =>
    if data = [] ∨ 1024 < data.length then refuse 0x11 tag .badLength s
    else
      let h := pageOf a b
      match uploadPage s h with
      | .error e => refuse 0x11 tag e s
      | .ok e => writeOn tag h (e.pending ++ data) e.pending.length 0 s
  | _ => refuse 0x11 tag .badLength s

/-- The reply fields of PAGE-CLOSE (R21): byte length, committed blocks, flags. -/
def closeFields (e : PageEntry) : List Byte := e32 e.byteLen ++ e16 e.committed ++ [e.flagsOctet]

/-- The close of an upload and its reply (R21); the record is read before a page without pin and reference is
released. -/
def closeUpload (tag : Byte) (h : PageHandle) (req : CloseReq) (s : State) : State :=
  let e := s.entry h.slot
  let fields := closeFields { e with truncated := e.truncated || req.truncated }
  reply 0x12 tag .ok fields (finishClose false h req (s.setJob none))

/-- PAGE-CLOSE (R21): the pending buffer is the short final block. -/
def pageClose (tag : Byte) (body : List Byte) (s : State) : State :=
  match body with
  | [a, b, n1, n0] =>
    let h := pageOf a b
    match uploadPage s h with
    | .error e => refuse 0x12 tag e s
    | .ok e =>
      let req : CloseReq := { code := 0, lineCount := nat16 n1 n0, truncated := false, hold := .none }
      if e.pending = [] then closeUpload tag h req s
      else match askWrite .hostXfer h (finalBlock e.pending) (some { req with code := e.pending.length }) s with
        | (s', .pass) => s'.setJob (some (.closePage tag h))
        | (s', _) => closeUpload tag h { req with truncated := true } s'
  | _ => refuse 0x12 tag .badLength s

/-- The reply of PAGE-READ (R22): the count delivered, the octets, the damaged indication. -/
def readReply (tag : Byte) (offset count : Nat) (got : List Byte) (damaged : Bool) (s : State) : State :=
  let data := (got.drop (offset % 256)).take count
  reply 0x13 tag .ok (e16 data.length ++ data ++ eBool damaged) (s.setJob none)

/-- PAGE-READ asks for its next store block, or is answered (R22). -/
def readOn (tag : Byte) (h : PageHandle) (offset count next : Nat) (got : List Byte) (damaged : Bool) (s : State) :
    State :=
  if 256 * next < offset + count then
    askRead .hostXfer h next (s.setJob (some (.readPage tag h offset count next got damaged)))
  else readReply tag offset count got damaged s

/-- PAGE-READ (R22). -/
def pageRead (tag : Byte) (body : List Byte) (s : State) : State :=
  match body with
  | [a, b, o3, o2, o1, o0, n1, n0] =>
    let count := nat16 n1 n0
    if count = 0 ∨ 1024 < count then refuse 0x13 tag .badLength s
    else
      let h := pageOf a b
      match s.page h with
      | none => refuse 0x13 tag .noSuchPage s
      | some e =>
        let offset := nat32 o3 o2 o1 o0
        if e.state = .opened then refuse 0x13 tag .wrongState s
        else if e.byteLen ≤ offset then refuse 0x13 tag .badField s
        else readOn tag h offset (min count (e.byteLen - offset)) (offset / 256) [] false s
  | _ => refuse 0x13 tag .badLength s

/-- Free count, reception reserve and the number of OPEN pages, 0-7 (R23, Opening a page). -/
def storeFields (s : State) : List Byte := e16 s.freeCount ++ e16 s.cfg.receptionReserve ++ e8 s.openPages

/-- Every field of a page record but the chain, of which it gives the length (R23). -/
def pageFields (e : PageEntry) : List Byte :=
  e8 e.issue ++ [e.state.code] ++ (match e.origin with | some o => [o.code] | none => [0]) ++
    eOpt (fun c : Client => [c.writerCode]) e.writer ++ eClass e.cls ++ e16 e.lineCount ++ e32 e.byteLen ++
    e16 e.chain.length ++ e16 e.committed ++ e16 e.refs ++ e8 e.pins ++ [e.flagsOctet] ++ e16 e.damagedLines

/-- PAGE-INFO (R23): the refusal too carries the store's counts. -/
def pageInfo (tag : Byte) (body : List Byte) (s : State) : State :=
  match body with
  | [a, b] => match s.page (pageOf a b) with
    | none => reply 0x14 tag .noSuchPage (storeFields s) s
    | some e =>
      reply 0x14 tag .ok (pageFields e ++ storeFields s ++
        eOpt e8 (if e.state = .opened ∧ e.origin = some .host then some e.pending.length else none)) s
  | _ => refuse 0x14 tag .badLength s

/-- The reply of the pin commands: reference count and pin count after the command (R15). -/
def pinFields (s : State) (h : PageHandle) : List Byte :=
  match s.page h with
  | some e => e16 e.refs ++ e8 e.pins
  | none => e16 0 ++ e8 0

/-- PAGE-PIN (R15). -/
def pagePin (body : List Byte) (s : State) : Except Status (State × List Byte) :=
  match body with
  | [a, b] =>
    let h := pageOf a b
    match s.page h with
    | none => .error .noSuchPage
    | some e =>
      if 15 ≤ e.pins then .error .tableFull
      else
        let s := s.setEntry h.slot { e with pins := e.pins + 1 }
        .ok (s, pinFields s h)
  | _ => .error .badLength

/-- The reply fields of PAGE-UNPIN and PAGE-DROP: the counts, and whether the page was released (R15). -/
def unpinFields (s : State) (h : PageHandle) : List Byte := pinFields s h ++ eBool (s.page h).isNone

/-- PAGE-UNPIN (R15). -/
def pageUnpin (body : List Byte) (s : State) : Except Status (State × List Byte) :=
  match body with
  | [a, b] =>
    let h := pageOf a b
    match s.page h with
    | none => .error .noSuchPage
    | some e =>
      if e.pins = 0 then .error .wrongState
      else
        let s := releaseTest h (s.setEntry h.slot { e with pins := e.pins - 1 })
        .ok (scanRetry s, unpinFields s h)
  | _ => .error .badLength

/-- PAGE-DROP (R15): all pins, or the whole upload of a page OPEN for HOSTXFER. -/
def pageDrop (body : List Byte) (s : State) : Except Status (State × List Byte) :=
  match body with
  | [a, b] =>
    let h := pageOf a b
    match s.page h with
    | none => .error .noSuchPage
    | some e =>
      let s :=
        if e.state = .opened ∧ e.writer = some .hostXfer then discardPage h s
        else releaseTest h (s.setEntry h.slot { e with pins := 0 })
      .ok (scanRetry s, unpinFields s h)
  | _ => .error .badLength

def execPageOpenWrite (tag : Byte) (body : List Byte) (s : State) : Outcome :=
  .next (command 0x10 tag body (pageOpenWrite body) s)

def execPageWriteData (tag : Byte) (body : List Byte) (s : State) : Outcome :=
  .next (hostCommand 0x11 tag body (pageWriteData tag body) s)

def execPageClose (tag : Byte) (body : List Byte) (s : State) : Outcome :=
  .next (hostCommand 0x12 tag body (fun s => scanRetry (pageClose tag body s)) s)

def execPageRead (tag : Byte) (body : List Byte) (s : State) : Outcome :=
  .next (hostCommand 0x13 tag body (pageRead tag body) s)

def execPageInfo (tag : Byte) (body : List Byte) (s : State) : Outcome :=
  .next (hostCommand 0x14 tag body (pageInfo tag body) s)

def execPagePin (tag : Byte) (body : List Byte) (s : State) : Outcome := .next (command 0x15 tag body (pagePin body) s)

def execPageUnpin (tag : Byte) (body : List Byte) (s : State) : Outcome := .next (command 0x16 tag body (pageUnpin body) s)

def execPageDrop (tag : Byte) (body : List Byte) (s : State) : Outcome := .next (command 0x17 tag body (pageDrop body) s)

end Sys2Proof.Machine
end

