-- ==== Sys2Proof/Machine/Procedure.lean ====
section
/-! DEFINITION. The line procedure (chapter 5): transmissions and their turnaround, waits and repeats, negotiation and
training, frames, line blocks and rounds on both sides, received pages in the store, the end of a page and the release. -/

namespace Sys2Proof.Machine

/-! ### Transmissions (R95 to R97) -/

def Line.connected (x : Line) : Bool := x.state.connected

def Line.role (x : Line) : Option Role := x.params.role

/-- The channel listens: connected, and itself neither sending nor in its turnaround (log 30). -/
def Line.listening (x : Line) : Bool := x.connected && x.proc.tx = .quiet

/-- A transmission ready for the turnaround, during which the detector is DISARMED (R96, R116). -/
def holdReady (l : LineNo) (what : Sending) (s : State) : State :=
  (s.modProc l fun p => { p with tx := .ready what, timer := false, incoming := false }).modParams l fun q =>
    { q with detector := .disarmed }

/-- The octets of a message on the line (R95). -/
def sendingOctets : Sending → List Byte
  | .msg m => m.octets
  | .burst _ => []
  | .frames => []

/-- A message or a burst begins to be sent; the detector is DISARMED (R116). -/
def beginSending (l : LineNo) (what : Sending) (s : State) : State :=
  (s.modProc l fun p => { p with
    tx := .sending what, octets := sendingOctets what, lastOut := some what, timer := false, incoming := false }).modParams
    l fun q => { q with detector := .disarmed }

/-- A valid awaited transmission: the timer stops, repeats return to 0, the detector is DISARMED; it is kept to know a
repeat of it (R97, R116). -/
def heard (l : LineNo) (h : Heard) (s : State) : State :=
  (s.modProc l fun p => { p with timer := false, incoming := false, lastIn := some h }).modParams l fun q =>
    { q with repeats := 0, detector := .disarmed }

/-- A transmission that is not acted on has ended (R95, R97): the timer starts again from 0, the detector is DISARMED
(R116), and an answer held for this end begins its turnaround (R96; log 62). -/
def unheard (l : LineNo) (s : State) : State :=
  let s := (s.modProc l fun p => { p with incoming := false }).modParams l fun q => { q with detector := .disarmed }
  match (s.line l).proc.heldAnswer with
  | none => s
  | some what => holdReady l what (s.modProc l fun p => { p with storing := false, heldAnswer := none })

/-- The answer that waited on the store is formed (R108 to R110). It begins its turnaround; while a transmission of the
remote is still in progress it is held until that one has ended (R96), and the detector goes on watching that transmission
(R116; log 62). -/
def answerStored (l : LineNo) (what : Sending) (s : State) : State :=
  if (s.line l).proc.incoming then s.modProc l fun p => { p with storing := true, heldAnswer := some what }
  else holdReady l what (s.modProc l fun p => { p with storing := false })

/-- A repeat of the message answered last is answered again, after the turnaround, without acting on it (R97; log 31);
anything else that is not awaited is discarded (R95). A TRAIN_GOOD or PAGE_GOOD answered with frames is answered again with
their BLOCK_END alone: DESIGN CHOICE, log 31. -/
def repeatOrDiscard (l : LineNo) (h : Heard) (s : State) : State :=
  let p := (s.line l).proc
  match p.lastOut with
  | some out => if p.lastIn = some h then holdReady l out (unheard l s) else unheard l s
  | none => unheard l s

/-! ### Release (R112, R114) -/

/-- A side ends the call with QUIT after the turnaround: RELEASING with the cause (R112). -/
def releaseLater (l : LineNo) (cause : Cause) (s : State) : State :=
  let s := s.modCall l fun c => { c with cause := some cause }
  holdReady l (.msg .quit) (changeState l .releasing none s)

/-- A side ends the call with QUIT at once (R96, R112). -/
def releaseNow (l : LineNo) (cause : Cause) (s : State) : State :=
  let s := s.modCall l fun c => { c with cause := some cause }
  beginSending l (.msg .quit) (changeState l .releasing none s)

/-- The sender's document has cancel requested (R114). -/
def State.cancelAsked (s : State) (l : LineNo) : Bool :=
  match s.callDoc l with
  | some d => d.cancelReq
  | none => false

/-- The page list entry at a page position. -/
def State.sendPage (s : State) (l : LineNo) (pos : Nat) : Option PageEntry :=
  match s.callDoc l with
  | some d => (d.pages[pos]?).map fun p => s.entry p.slot
  | none => none

/-! ### Sending frames (R103 to R106) -/

/-- The page in transfer. -/
def State.pageSent (s : State) (l : LineNo) : Option PageEntry := s.sendPage l (s.line l).params.pagePos

/-- The code octets of a page's last frame (R103). -/
def lastOctets (n : Nat) : Nat := n - 256 * (frameCount n - 1)

/-- The line block is the page's last (R105). -/
def finalLineBlock (n b : Nat) : Bool := decide (frameCount n ≤ 64 * (b + 1))

/-- Frame `f` of line block `b` is the page's short last frame, sent chopped (R103). -/
def shortLast (chop : Bool) (n b f : Nat) : Bool :=
  chop && decide (64 * b + f + 1 = frameCount n) && decide (lastOctets n ≤ 64)

/-- The form of a frame in a round (R103, R106): whole, its one part 0, or from round 3 on four parts. -/
def frameForms (chop : Bool) (n b round f : Nat) : List (Nat × Option Nat) :=
  if shortLast chop n b f then [(f, some 0)]
  else if 3 ≤ round ∧ chop then [(f, some 0), (f, some 1), (f, some 2), (f, some 3)]
  else [(f, none)]

/-- The frames of a pass or round, in frame order. -/
def roundQueue (chop : Bool) (n b round : Nat) (frames : List Nat) : List (Nat × Option Nat) :=
  frames.flatMap (frameForms chop n b round)

/-- The buffer that holds the line block in transfer. -/
def Line.sendBuffer (x : Line) : Option TxBuffer :=
  let here (b : TxBuffer) : Bool := b.pos == x.params.pagePos && b.block == x.send.block
  match x.send.buf0 with
  | some b => if here b then some b else
    match x.send.buf1 with
    | some c => if here c then some c else none
    | none => none
  | none => match x.send.buf1 with
    | some c => if here c then some c else none
    | none => none

/-- The data of a frame or part from the buffer, where its store block has been read (R103). -/
def Line.frameData (x : Line) (f : Nat) (part : Option Nat) : Option (List Byte) :=
  match x.sendBuffer with
  | none => none
  | some b => (b.got[f]?).map fun d => match part with
    | none => d
    | some p => (d.drop (64 * p)).take 64

/-- The BLOCK_END of the pass or round (R105). -/
def blockEndOf (s : State) (l : LineNo) : Msg :=
  let x := s.line l
  let n := match s.pageSent l with | some e => e.byteLen | none => 0
  .blockEnd x.params.pageSeq x.params.block x.params.round (blockFrames n x.send.block)
    (if finalLineBlock n x.send.block then some (lastOctets n) else none)

/-- The next thing of the transmission in progress: a frame, fill while its store block is not in the buffer, or the
BLOCK_END that closes it (R18, R105). -/
def nextFrame (l : LineNo) (s : State) : State :=
  let x := s.line l
  match x.send.queue with
  | [] => beginSending l (.msg (blockEndOf s l)) s
  | (f, part) :: _ => match x.frameData f part with
    | some d =>
      let octets := inLineOrder x.params.order (pageFrame x.params.pageSeq x.params.block f part d)
      s.modLine l fun x => { x with send := { x.send with filling := false }, proc := { x.proc with octets } }
    | none =>
      if x.send.filling then s
      else s.modLine l fun x => { x with
        send := { x.send with filling := true }, fillCount := satAdd 65535 x.fillCount 1,
        proc := { x.proc with octets := [] } }

/-- The frames of the pass or round begin to be sent. -/
def beginFrames (l : LineNo) (s : State) : State :=
  nextFrame l ((s.modProc l fun p => { p with tx := .sending .frames, timer := false, incoming := false }).modParams l
    fun q => { q with detector := .disarmed })

/-- The frames of a pass or round are queued, to be sent after the turnaround. -/
def queueFrames (l : LineNo) (round : Nat) (frames : List Nat) (s : State) : State :=
  let n := match s.pageSent l with | some e => e.byteLen | none => 0
  let s := s.modLine l fun x => { x with
    params := { x.params with round },
    send := { x.send with queue := roundQueue x.params.chop n x.send.block round frames, filling := false } }
  holdReady l .frames s

/-- The whole line block in hand, round 0 (R105). -/
def queueBlock (l : LineNo) (s : State) : State :=
  let n := match s.pageSent l with | some e => e.byteLen | none => 0
  queueFrames l 0 (List.range (blockFrames n (s.line l).send.block)) s

/-- The turnaround is over (R96): the transmission held begins, or QUIT in its place for a cancelled document (R114). -/
def turnaroundExpiry (l : LineNo) (s : State) : State :=
  match (s.line l).proc.tx with
  | .ready (.msg .quit) => beginSending l (.msg .quit) s
  | .ready what =>
    if s.cancelAsked l then releaseNow l .cancelled s
    else match what with
      | .frames => beginFrames l s
      | .msg m => beginSending l (.msg m) s
      | .burst r => beginSending l (.burst r) s
  | .quiet | .sending _ => s

/-- A frame has been sent (R105, R106): counted when sent again, and the next one follows; the last of a cancelled
document's is followed by QUIT at once (R114). -/
def frameSent (l : LineNo) (s : State) : State :=
  let x := s.line l
  match x.proc.tx, x.send.queue with
  | .sending .frames, _ :: rest =>
    if x.send.filling then s
    else
      let s := s.modLine l fun x => { x with
        send := { x.send with queue := rest },
        params := { x.params with
          framesResent := if 0 < x.params.round then satAdd 65535 x.params.framesResent 1 else x.params.framesResent } }
      if rest = [] && s.cancelAsked l then releaseNow l .cancelled s else nextFrame l s
  | _, _ => s

/-! ### The end of a transmission of its own (R97, R110) -/

/-- What follows the PAGE_GOOD just sent (R110): RECEIVING for the next page, or RELEASING to await QUIT. -/
def afterPageGood (l : LineNo) (s : State) : State :=
  match (s.line l).proc.afterGood with
  | none => s
  | some (some c) =>
    let s := s.modLine l fun x => { x with
      params := { x.params with pageSeq := wrapSucc 256 x.params.pageSeq, block := 0, round := 0 },
      recv := { ReceiveSide.reset with cls := c }, proc := { x.proc with afterGood := none } }
    changeState l .receiving none s
  | some none =>
    let s := s.modProc l fun p => { p with afterGood := none, goodLast := true, awaitQuit := some .normal }
    changeState l .releasing none (s.modCall l fun c => { c with cause := some .normal })

/-- A message or burst other than QUIT has been sent (R97): another follows at once, or the answer wait begins. -/
def transmissionSent (l : LineNo) (s : State) : State :=
  match (s.line l).proc.tx with
  | .sending (.msg .quit) => s
  | .sending (.msg m) => match (s.line l).proc.andThen with
    | some n => beginSending l (.msg n) (s.modProc l fun p => { p with andThen := none })
    | none =>
      let s := s.modProc l fun p => { p with tx := .quiet, octets := [], timer := true }
      if m = .pageGood then afterPageGood l s else s
  | .sending (.burst _) => s.modProc l fun p => { p with tx := .quiet, octets := [], timer := true }
  | .sending .frames | .quiet | .ready _ => s

/-- The QUIT has been sent: the side goes on hook (R112). -/
def quitSent (l : LineNo) (s : State) : State :=
  match (s.line l).proc.tx with
  | .sending (.msg .quit) => match (s.line l).call with
    | some c => hangUp false l (c.cause.getD .normal) s
    | none => s
  | _ => s

/-! ### Waits (R97, R99, R102, R112) -/

/-- The answer timer has run out (R97): on hook where QUIT was awaited, without RELEASING from TRAINING or RECEIVING
(R102, R107; log 28), the answerer's count before its first OFFER, a repeat, or TIMEOUT. -/
def answerWaitExpiry (l : LineNo) (s : State) : State :=
  let x := s.line l
  if !(x.listening && x.proc.timer && !x.proc.incoming) then s
  else match x.proc.awaitQuit with
    | some cause => hangUp false l cause s
    | none => match x.proc.lastOut with
      | none =>
        if x.role = some .receiver then
          if x.proc.waits + 1 < 4 then s.modProc l fun p => { p with waits := p.waits + 1 }
          else releaseNow l .timeout (s.modProc l fun p => { p with waits := p.waits + 1 })
        else s
      | some out =>
        if 3 ≤ x.params.repeats then releaseNow l .timeout s
        else beginSending l out (s.modParams l fun q => { q with repeats := q.repeats + 1 })

/-! ### Negotiation (5.3) -/

/-- The remote's answer tone has ended: the OFFER is held for the turnaround (R98). -/
def remoteToneEnd (l : LineNo) (s : State) : State :=
  let x := s.line l
  if x.state = .negotiating ∧ x.role = some .sender ∧ x.proc.tx = .quiet ∧ x.proc.lastOut = none then
    let cls := match s.pageSent l with | some e => e.cls | none => .coarse
    holdReady l (.msg (.offer s.cfg.identity everyRate everyOrder true cls)) s
  else s

/-- The OFFER's identity goes to reception, at the call's first valid OFFER (R99, R122; log 26). -/
def handIdentity (l : LineNo) (identity : List Byte) (s : State) : State :=
  if (s.line l).proc.offerSeen then s
  else
    let s := s.modProc l fun p => { p with offerSeen := true }
    match s.callInbound l with
    | some h => noteSender h identity s
    | none => s

/-- An identity of 0 characters is absent. -/
def presentId (identity : List Byte) : Option (List Byte) := if identity = [] then none else some identity

/-- A valid OFFER (R99). The accepted classes go into the CHOOSE alone: the call parameter of that name is the sender's
(log 50). -/
def takeOffer (l : LineNo) (identity : List Byte) (rates orders : Byte) (chop : Bool) (cls : ResClass) (s : State) :
    State :=
  let s := handIdentity l identity s
  match highestRate rates, chooseOrder orders with
  | some rate, some order =>
    let s := heard l (.msg (.offer identity rates orders chop cls)) s
    let s := s.modLine l fun x => { x with
      params := { x.params with remoteId := presentId identity, rateChosen := some rate, rate := some rate,
                                order := some order, chop },
      recv := { x.recv with cls } }
    holdReady l (.msg (.choose s.cfg.identity rate order chop everyClass)) (changeState l .training none s)
  | _, _ =>
    let s := unheard l (s.modProc l fun p => { p with badOffers := p.badOffers + 1 })
    if 4 ≤ (s.line l).proc.badOffers then releaseLater l .timeout s else s

def offerReceived (l : LineNo) (identity : List Byte) (rates orders : Byte) (chop : Bool) (cls : ResClass) (s : State) :
    State :=
  let x := s.line l
  let m : Msg := .offer identity rates orders chop cls
  if !x.listening then s
  else if x.state = .negotiating ∧ x.role = some .receiver ∧ m.inRange then takeOffer l identity rates orders chop cls s
  else repeatOrDiscard l (.msg m) s

/-- A valid CHOOSE (R100): into the call parameters; then training, or QUIT for a class not accepted or a cancel. -/
def takeChoose (l : LineNo) (identity : List Byte) (rate : LineRate) (order : BitOrder) (chop : Bool) (classes : Byte)
    (s : State) : State :=
  let s := heard l (.msg (.choose identity rate order chop classes)) s
  let s := s.modParams l fun q => { q with
    remoteId := presentId identity, rateChosen := some rate, rate := some rate, order := some order, chop,
    classes := some classes }
  if s.cancelAsked l then releaseLater l .cancelled s
  else match s.pageSent l with
    | some e =>
      if hasClass classes e.cls then holdReady l (.burst rate) (changeState l .training none s)
      else releaseLater l (.remoteRefused .cls) s
    | none => releaseLater l (.remoteRefused .cls) s

def chooseReceived (l : LineNo) (identity : List Byte) (rate : LineRate) (order : BitOrder) (chop : Bool) (classes : Byte)
    (s : State) : State :=
  let x := s.line l
  let m : Msg := .choose identity rate order chop classes
  if !x.listening then s
  else if x.state = .negotiating ∧ x.role = some .sender ∧ x.proc.lastOut.isSome ∧ m.inRange then
    takeChoose l identity rate order chop classes s
  else repeatOrDiscard l (.msg m) s

/-! ### Training (5.4) -/

/-- The current rate becomes the next lower one (R101, R102); false at 2400. -/
def stepDownLine (l : LineNo) (s : State) : State × Bool :=
  match (s.line l).params.rate with
  | some r => match stepDown r with
    | some r' => (s.modParams l fun q => { q with rate := some r', stepDowns := satAdd 5 q.stepDowns 1 }, true)
    | none => (s, false)
  | none => (s, false)

/-- The sender trains at its current rate after the turnaround (R101). -/
def holdBurst (l : LineNo) (s : State) : State :=
  match (s.line l).params.rate with
  | some r => holdReady l (.burst r) s
  | none => s

/-- The sender awaits the answer to its burst. -/
def Line.awaitsTraining (x : Line) : Bool :=
  x.state = .training && x.role = some .sender && (match x.proc.lastOut with | some (.burst _) => true | _ => false)

/-- TRAIN_GOOD (R101, R106): SENDING, the block in hand from its first frame. -/
def trainGoodReceived (l : LineNo) (s : State) : State :=
  let x := s.line l
  if !x.listening then s
  else if x.awaitsTraining then
    let s := (heard l (.msg .trainGood) s).modParams l fun q => { q with trained := true }
    if s.cancelAsked l then releaseLater l .cancelled s
    else queueBlock l (changeState l .sending none s)
  else repeatOrDiscard l (.msg .trainGood) s

/-- TRAIN_BAD (R101): a step down and a new burst, or LINE_QUALITY at 2400. With a cancel asked QUIT goes in their place and
the rate stays (R114): DESIGN CHOICE, log 60. -/
def trainBadReceived (l : LineNo) (s : State) : State :=
  let x := s.line l
  if !x.listening then s
  else if x.awaitsTraining then
    let s := heard l (.msg .trainBad) s
    if s.cancelAsked l then releaseLater l .cancelled s
    else match stepDownLine l s with
      | (s, true) => holdBurst l s
      | (s, false) => releaseLater l .lineQuality s
  else repeatOrDiscard l (.msg .trainBad) s

/-- A burst at this rate repeats one already answered TRAIN_BAD (R102): the last transmission acted on was a burst at the
rate, and it was so answered (log 47). -/
def Procedure.repeatsBad (p : Procedure) (rate : LineRate) : Bool :=
  decide (p.lastIn = some (.burst rate)) && decide (rate ∈ p.badRates)

/-- A burst answered TRAIN_BAD (R102): without a second step down for a repeat of one so answered; at 2400 QUIT is
awaited. -/
def answerBad (l : LineNo) (rate : LineRate) (s : State) : State :=
  let again := (s.line l).proc.repeatsBad rate
  let s := heard l (.burst rate) s
  let s := changeState l .training none s
  let s :=
    if again then s
    else
      let s := s.modProc l fun p => { p with badRates := rate :: p.badRates }
      match stepDownLine l s with
      | (s, true) => s
      | (s, false) => s.modProc l fun p => { p with awaitQuit := some .lineQuality }
  holdReady l (.msg .trainBad) s

/-- A burst answered TRAIN_GOOD (R102): the bursts answered TRAIN_BAD before are past, and no QUIT is awaited. -/
def answerGood (l : LineNo) (rate : LineRate) (s : State) : State :=
  let s := (heard l (.burst rate) s).modLine l fun x => { x with
    params := { x.params with trained := true }, proc := { x.proc with badRates := [], awaitQuit := none } }
  holdReady l (.msg .trainGood) (changeState l .receiving none s)

/-- The receiver awaits a burst: in TRAINING, or in RECEIVING when the last thing it answered was one (R102). -/
def Line.awaitsBurst (x : Line) : Bool :=
  x.role = some .receiver && (x.state = .training ||
    (x.state = .receiving && (match x.proc.lastIn with | some (.burst _) => true | _ => false)))

/-- A training burst judged afresh (R102). -/
def burstReceived (l : LineNo) (rate : LineRate) (goodQuality : Bool) (s : State) : State :=
  let x := s.line l
  if !x.listening then s
  else if x.awaitsBurst then
    if goodQuality && x.params.rate = some rate && !x.proc.repeatsBad rate then answerGood l rate s
    else answerBad l rate s
  else unheard l s

/-! ### Resend lists at the sender (R105, R106) -/

/-- The transmit buffer of the line block accepted becomes free, and the fetches go on (R105, R118). -/
def freeSendBuffer (l : LineNo) (s : State) : State :=
  let x := s.line l
  let here (b : TxBuffer) : Bool := b.pos == x.params.pagePos && b.block == x.send.block
  let keep (b : Option TxBuffer) : Option TxBuffer := match b with
    | some c => if here c then none else some c
    | none => none
  fetchOn 4 l (s.modSend l fun q => { q with buf0 := keep q.buf0, buf1 := keep q.buf1 })

/-- PAGE_END for the page sent (R110): LAST, or MORE with the next entry's class. -/
def pageEndOf (s : State) (l : LineNo) : Msg :=
  let x := s.line l
  let lines := match s.pageSent l with | some e => e.lineCount | none => 0
  .pageEnd x.params.pageSeq lines ((s.sendPage l (x.params.pagePos + 1)).map (·.cls))

/-- The block is accepted (R105): the next line block of the page, or PAGE_END. -/
def blockAccepted (l : LineNo) (s : State) : State :=
  let n := match s.pageSent l with | some e => e.byteLen | none => 0
  let last := finalLineBlock n (s.line l).send.block
  let s := freeSendBuffer l s
  if last then holdReady l (.msg (pageEndOf s l)) (changeState l .postPage none s)
  else
    let s := s.modLine l fun x => { x with
      send := { x.send with block := x.send.block + 1 }, params := { x.params with block := wrapSucc 256 x.params.block } }
    queueBlock l s

/-- A round is asked for (R106): the marked frames again, or after round 4 the fall-back. -/
def resendRound (l : LineNo) (marked : List Nat) (s : State) : State :=
  let x := s.line l
  if x.params.round < 4 then queueFrames l (x.params.round + 1) marked s
  else match stepDownLine l s with
    | (s, true) => holdBurst l (changeState l .training none s)
    | (s, false) => releaseLater l .lineQuality s

/-- The sender awaits the RESEND of its BLOCK_END. -/
def Line.awaitsResend (x : Line) : Bool :=
  x.state = .sending && x.role = some .sender &&
    (match x.proc.lastOut with | some (.msg (.blockEnd _ _ _ _ _)) => true | _ => false)

/-- RESEND (R105, R106); marks at or past the block's frame count are not looked at (log 32). With a cancel asked QUIT
follows and neither block nor round advances (R114): DESIGN CHOICE, log 60. -/
def resendReceived (l : LineNo) (marks : List Byte) (s : State) : State :=
  let x := s.line l
  let m : Msg := .resend marks
  if !x.listening then s
  else if x.awaitsResend && m.inRange then
    let s := heard l (.msg m) s
    let n := match s.pageSent l with | some e => e.byteLen | none => 0
    let marked := (markedFrames marks).filter fun f => decide (f < blockFrames n x.send.block)
    if s.cancelAsked l then releaseLater l .cancelled s
    else if marked = [] then blockAccepted l s
    else resendRound l marked s
  else repeatOrDiscard l (.msg m) s

/-! ### The end of a page at the sender (R110, R111) -/

/-- The next page of the attempt (R111). -/
def nextSentPage (l : LineNo) (s : State) : State :=
  let s := s.modLine l fun x => { x with
    params := { x.params with pageSeq := wrapSucc 256 x.params.pageSeq, pagePos := x.params.pagePos + 1, block := 0,
                              round := 0 },
    send := { x.send with block := 0 } }
  queueBlock l (changeState l .sending none s)

/-- PAGE_GOOD (R111): the page counted and confirmed, then QUIT after the last, the next page, or QUIT for its class or
a cancel. -/
def pageGoodReceived (l : LineNo) (s : State) : State :=
  let x := s.line l
  if !x.listening then s
  else if x.state = .postPage ∧ x.role = some .sender then
    let s := heard l (.msg .pageGood) s
    let s := s.modCall l fun c => { c with pages := satAdd 255 c.pages 1 }
    let s := match x.call with
      | some c => match c.out with
        | some o => confirmPage o.doc o.index s
        | none => s
      | none => s
    match s.sendPage l (x.params.pagePos + 1) with
    | none => releaseLater l .normal s
    | some e =>
      if s.cancelAsked l then releaseLater l .cancelled s
      else if x.params.classes.all fun c => hasClass c e.cls then nextSentPage l s
      else releaseLater l (.remoteRefused .cls) s
  else repeatOrDiscard l (.msg .pageGood) s

/-- PAGE_FAILED in place of PAGE_GOOD or of a RESEND (R111): the receiver's QUIT is awaited. -/
def pageFailedReceived (l : LineNo) (s : State) : State :=
  let x := s.line l
  if !x.listening then s
  else if x.role = some .sender ∧ (x.state = .postPage ∨ x.awaitsResend) then
    let cause : Cause := .remoteRefused .pageFailed
    let s := heard l (.msg .pageFailed) s
    let s := s.modCall l fun c => { c with cause := some cause }
    let s := s.modProc l fun p => { p with awaitQuit := some cause, timer := true, lastIn := none }
    changeState l .releasing none s
  else repeatOrDiscard l (.msg .pageFailed) s

/-- QUIT (R112, R113): heard while the side awaits an answer or waits on its store writes (log 27). The line goes on hook
from the state that it is in, without RELEASING (log 28). -/
def quitReceived (l : LineNo) (s : State) : State :=
  let x := s.line l
  if !x.listening then s
  else if x.role = some .sender ∧ x.proc.lastOut = none then unheard l s
  else match x.proc.awaitQuit with
    | some cause => hangUp false l cause s
    | none => hangUp false l (if x.role = some .sender then .remoteRefused .quit else .remoteQuit) s

/-! ### Frames and blocks at the receiver (R107 to R109) -/

/-- A part is held. -/
def ReceiveSide.holds (r : ReceiveSide) (f p : Nat) : Bool := r.parts.any fun x => x.1 == f && x.2.1 == p

/-- A part joins the receive buffer unless a good copy is held (R107). -/
def ReceiveSide.put (r : ReceiveSide) (f p : Nat) (data : List Byte) : ReceiveSide :=
  if r.holds f p then r else { r with parts := r.parts ++ [(f, p, data)] }

/-- A frame is stored at its place: its four parts, or its one part (R107). -/
def ReceiveSide.store (r : ReceiveSide) (x : LineFrame) : ReceiveSide :=
  match x.part with
  | some p => r.put x.frame p x.data
  | none => ((((r.put x.frame 0 (x.data.take 64)).put x.frame 1 ((x.data.drop 64).take 64)).put x.frame 2
      ((x.data.drop 128).take 64)).put x.frame 3 ((x.data.drop 192).take 64))

/-- A page frame on the line (R107, R217). -/
def frameReceived (l : LineNo) (octets : List Byte) (s : State) : State :=
  let x := s.line l
  if !(x.listening && x.state = .receiving && !x.proc.storing) then s
  else
    let s := s.modProc l fun p => { p with incoming := true }
    match readLineFrame (inLineOrder x.params.order octets) with
    | none => s
    | some y =>
      if y.sequence = x.params.pageSeq ∧ y.block = x.params.block ∧ !x.recv.finalDone then
        s.modRecv l fun r => r.store y
      else s

/-- A frame has been received (R107): all four parts, or part 0 of the page's short last frame. -/
def ReceiveSide.received (r : ReceiveSide) (short : Bool) (f : Nat) : Bool :=
  r.holds f 0 && (short || (r.holds f 1 && r.holds f 2 && r.holds f 3))

/-- Frame `f` is the short last frame by the BLOCK_END's fields (R107). -/
def isShortLast (chop : Bool) (count : Nat) (final : Option Nat) (f : Nat) : Bool :=
  match final with
  | some n => chop && f + 1 == count && Nat.ble n 64
  | none => false

/-- The frames to be marked (R107). -/
def missingFrames (r : ReceiveSide) (chop : Bool) (count : Nat) (final : Option Nat) : List Nat :=
  (List.range count).filter fun f => !r.received (isShortLast chop count final f) f

/-- A part's octets, where held. -/
def ReceiveSide.part (r : ReceiveSide) (f p : Nat) : List Byte :=
  match r.parts.find? fun x => x.1 == f && x.2.1 == p with
  | some x => x.2.2
  | none => []

/-- The octets of a received frame. -/
def ReceiveSide.frame (r : ReceiveSide) (f : Nat) : List Byte :=
  r.part f 0 ++ r.part f 1 ++ r.part f 2 ++ r.part f 3

/-- The receiver cannot store its page (R109): page closed TRUNCATED, PAGE_FAILED, then QUIT at once. -/
def storeFails (l : LineNo) (sub : StoreSub) (s : State) : State :=
  let s := closeReceived false l (withdraw (.lc l) s)
  let s := s.modCall l fun c => { c with cause := some (.storeFull sub) }
  let s := s.modLine l fun x => { x with
    recv := .reset, proc := { x.proc with andThen := some .quit } }
  answerStored l (.msg .pageFailed) (changeState l .releasing none s)

/-- All writes of the block have committed (R108): the buffer is emptied, the block number advances, RESEND without
marks follows. -/
def blockStored (l : LineNo) (s : State) : State :=
  let s := s.modLine l fun x => { x with
    recv := { x.recv with parts := [], answered := none, toWrite := [] },
    params := { x.params with block := wrapSucc 256 x.params.block, round := 0 } }
  answerStored l (.msg (.resend (marksOctets []))) s

/-- The next frame of the block is presented as a block write (R108, R109). -/
def writeNext (l : LineNo) (s : State) : State :=
  match (s.line l).recv.toWrite, s.pageInReception l with
  | [], _ => blockStored l s
  | _ :: _, none => s
  | data :: _, some p => match askWrite (.lc l) p data none s with
    | (s', .pass) => s'.modProc l fun q => { q with storing := true }
    | (s', _) => storeFails l .segments s'

/-- The page is opened for its first accepted block (R108, R124). -/
def openReceived (l : LineNo) (s : State) : Except StoreSub State :=
  match s.callInbound l with
  | none => .ok s
  | some h => match s.inDoc h with
    | none => .ok s
    | some d =>
      if d.inPage.isSome then .ok s
      else if 255 ≤ d.pages.length then .error .pages
      else match openPage (.lc l) (.line l) (s.line l).recv.cls s with
        | .error _ => .error .directory
        | .ok (s, p) => .ok (s.modInDoc h.slot fun d => { d with inPage := some p })

/-- The page's frames that are written as whole blocks, and the code octets kept aside as its short final block
(R108). -/
def blockWrites (r : ReceiveSide) (count : Nat) (final : Option Nat) : List (List Byte) × List Byte :=
  match final with
  | some n =>
    if n < 256 then ((List.range (count - 1)).map r.frame, (r.frame (count - 1)).take n)
    else ((List.range count).map r.frame, [])
  | none => ((List.range count).map r.frame, [])

/-- The block has come out without marks: it is written to the store before any answer (R108). -/
def storeBlock (l : LineNo) (count : Nat) (final : Option Nat) (s : State) : State :=
  match openReceived l s with
  | .error sub => storeFails l sub s
  | .ok s =>
    let (writes, short) := blockWrites (s.line l).recv count final
    writeNext l (s.modRecv l fun r => { r with toWrite := writes, short, finalDone := final.isSome })

/-- RESEND with marks (R107): in answer to round 4 the fall-back, or at 2400 the wait for QUIT. The receiver's parameter
round becomes the round answered with marks, and a fall-back keeps it (log 54). -/
def answerMarks (l : LineNo) (round : Nat) (missing : List Nat) (s : State) : State :=
  let s := s.modLine l fun x => { x with
    recv := { x.recv with answered := some round }, params := { x.params with round } }
  let s :=
    if round < 4 then s
    else match stepDownLine l s with
      | (s, true) => changeState l .training none (s.modRecv l fun r => { r with parts := [], answered := none })
      | (s, false) => s.modProc l fun p => { p with awaitQuit := some .lineQuality }
  holdReady l (.msg (.resend (marksOctets missing))) s

/-- The round that the receiver expects next (R107). -/
def ReceiveSide.nextRound (r : ReceiveSide) : Nat :=
  match r.answered with
  | none => 0
  | some k => k + 1

/-- A valid BLOCK_END (R107). A repeat that ends while the answer still waits, on the store or on this end itself, is not
acted on: the answer is to come (R97, R108), and the detector is DISARMED at its closing sequence (R116). -/
def blockEndReceived (l : LineNo) (sequence block round count : Nat) (final : Option Nat) (s : State) : State :=
  let x := s.line l
  let m : Msg := .blockEnd sequence block round count final
  if !x.listening then s
  else if x.proc.storing then unheard l s
  else if x.state = .receiving ∧ m.inRange ∧ sequence = x.params.pageSeq ∧ block = x.params.block ∧
      round = x.recv.nextRound ∧ !x.recv.finalDone ∧ x.proc.awaitQuit = none then
    let s := heard l (.msg m) s
    match missingFrames x.recv x.params.chop count final with
    | [] => storeBlock l count final s
    | missing => answerMarks l round missing s
  else repeatOrDiscard l (.msg m) s

/-! ### The end of a page at the receiver (R110) -/

/-- The page has closed: listed where its reference was taken (`held`), counted, and PAGE_GOOD held (R110). -/
def pageReceived (l : LineNo) (held : Bool) (s : State) : State :=
  match s.callInbound l, s.pageInReception l with
  | some h, some p =>
    let s := s.modLine l fun x => { x with recv := { x.recv with short := [] } }
    answerStored l (.msg .pageGood) (listAndTell held h p (s.modCall l fun c => { c with pages := satAdd 255 c.pages 1 }))
  | _, _ => s

/-- The page has closed without its final block (R110): PAGE_FAILED and QUIT with STORE_FULL. -/
def pageRefused (l : LineNo) (held : Bool) (s : State) : State :=
  match s.callInbound l, s.pageInReception l with
  | some h, some p =>
    storeFails l .segments (listAndTell held h p (s.modCall l fun c => { c with pages := satAdd 255 c.pages 1 }))
  | _, _ => s

def takePageEnd (l : LineNo) (lineCount : Nat) (next : Option ResClass) (s : State) : State :=
  match s.pageInReception l with
  | none => s
  | some p =>
    let s := changeState l .postPage none (s.modProc l fun q => { q with afterGood := some next })
    let req : CloseReq := { code := 0, lineCount := clamp 0 6912 lineCount, truncated := false, hold := .reference }
    let held := s.refTaken p
    match startClose (.lc l) p (s.line l).recv.short req s with
    | (s, .waits) => s.modProc l fun q => { q with storing := true }
    | (s, .closed none) => pageReceived l held s
    | (s, .closed (some _)) => pageRefused l held s

/-- A valid PAGE_END (R110); a repeat that ends while the answer still waits, on the store or on this end itself, is not
acted on (R97). -/
def pageEndReceived (l : LineNo) (sequence lineCount : Nat) (next : Option ResClass) (s : State) : State :=
  let x := s.line l
  let m : Msg := .pageEnd sequence lineCount next
  if !x.listening then s
  else if x.proc.storing then unheard l s
  else if x.state = .receiving ∧ m.inRange ∧ sequence = x.params.pageSeq ∧ x.recv.finalDone then
    takePageEnd l lineCount next (heard l (.msg m) s)
  else repeatOrDiscard l (.msg m) s

/-! ### Carrier (R116, R117) -/

/-- The remote's carrier begins (R116). -/
def carrierBegin (l : LineNo) (trainingBurst : Bool) (s : State) : State :=
  let x := s.line l
  if x.listening then
    (s.modProc l fun p => { p with incoming := true }).modParams l fun q =>
      { q with detector := if q.trained && !trainingBurst then .armed else .disarmed }
  else s

/-- Carrier is absent during a transmission (R116); with the detector DISARMED the transmission has ended with it. -/
def carrierAbsent (l : LineNo) (s : State) : State :=
  let x := s.line l
  if !x.listening then s
  else match x.params.detector with
    | .armed => s.modParams l fun q => { q with detector := .counting }
    | .disarmed => unheard l s
    | .counting => s

/-- Carrier returns within 2 s (R116). -/
def carrierReturn (l : LineNo) (s : State) : State :=
  let x := s.line l
  if x.listening && x.params.detector = .counting then s.modParams l fun q => { q with detector := .armed } else s

/-- 2 s without carrier (R117): RELEASING, then REST, with cause LINE_DROP, as the worked sequence of 5.10 shows. -/
def carrierLossExpiry (l : LineNo) (s : State) : State :=
  let x := s.line l
  if x.listening && x.params.detector = .counting then hangUp false l .lineDrop (changeState l .releasing none s) else s

/-! ### Steps of the line procedure -/

/-- A closing sequence whose transmission is not valid (R95). -/
def invalidTransmission (l : LineNo) (s : State) : State := if (s.line l).listening then unheard l s else s

def execRemoteAnswerToneEnd (l : LineNo) (s : State) : Outcome := .next (whenOn (remoteToneEnd l) s)

def execTurnaroundExpiry (l : LineNo) (s : State) : Outcome := .next (whenOn (turnaroundExpiry l) s)

def execFrameSent (l : LineNo) (s : State) : Outcome := .next (whenOn (frameSent l) s)

def execTransmissionSent (l : LineNo) (s : State) : Outcome := .next (whenOn (transmissionSent l) s)

def execQuitSent (l : LineNo) (s : State) : Outcome := .next (whenOn (fun s => scanRetry (quitSent l s)) s)

def execAnswerWaitExpiry (l : LineNo) (s : State) : Outcome :=
  .next (whenOn (fun s => scanRetry (answerWaitExpiry l s)) s)

def execInvalidTransmission (l : LineNo) (s : State) : Outcome := .next (whenOn (invalidTransmission l) s)

def execOfferReceived (l : LineNo) (identity : List Byte) (rates orders : Byte) (chop : Bool) (cls : ResClass) (s : State) :
    Outcome :=
  .next (whenOn (offerReceived l identity rates orders chop cls) s)

def execChooseReceived (l : LineNo) (identity : List Byte) (rate : LineRate) (order : BitOrder) (chop : Bool)
    (classes : Byte) (s : State) : Outcome :=
  .next (whenOn (chooseReceived l identity rate order chop classes) s)

def execTrainingBurstReceived (l : LineNo) (rate : LineRate) (goodQuality : Bool) (s : State) : Outcome :=
  .next (whenOn (burstReceived l rate goodQuality) s)

def execTrainGoodReceived (l : LineNo) (s : State) : Outcome := .next (whenOn (trainGoodReceived l) s)

def execTrainBadReceived (l : LineNo) (s : State) : Outcome := .next (whenOn (trainBadReceived l) s)

def execLineFrameReceived (l : LineNo) (octets : List Byte) (s : State) : Outcome :=
  .next (whenOn (frameReceived l octets) s)

def execBlockEndReceived (l : LineNo) (sequence block round count : Nat) (final : Option Nat) (s : State) : Outcome :=
  .next (whenOn (fun s => scanRetry (blockEndReceived l sequence block round count final s)) s)

def execResendReceived (l : LineNo) (marks : List Byte) (s : State) : Outcome := .next (whenOn (resendReceived l marks) s)

def execPageEndReceived (l : LineNo) (sequence lineCount : Nat) (next : Option ResClass) (s : State) : Outcome :=
  .next (whenOn (fun s => scanRetry (pageEndReceived l sequence lineCount next s)) s)

def execPageGoodReceived (l : LineNo) (s : State) : Outcome := .next (whenOn (pageGoodReceived l) s)

def execPageFailedReceived (l : LineNo) (s : State) : Outcome := .next (whenOn (pageFailedReceived l) s)

def execQuitReceived (l : LineNo) (s : State) : Outcome := .next (whenOn (fun s => scanRetry (quitReceived l s)) s)

def execRemoteCarrierBegin (l : LineNo) (trainingBurst : Bool) (s : State) : Outcome :=
  .next (whenOn (carrierBegin l trainingBurst) s)

def execCarrierAbsent (l : LineNo) (s : State) : Outcome := .next (whenOn (carrierAbsent l) s)

def execCarrierReturn (l : LineNo) (s : State) : Outcome := .next (whenOn (carrierReturn l) s)

def execCarrierLossExpiry (l : LineNo) (s : State) : Outcome :=
  .next (whenOn (fun s => scanRetry (carrierLossExpiry l s)) s)

end Sys2Proof.Machine
end

