-- ==== Sys2Proof/Machine/PortSteps.lean ====
section
/-! DEFINITION. The store port (R5, R7, R11, R12, R16, R17): the grant by level and rotation, the commit of a block write
and the delivery of a block read, each with what its client does next. -/

namespace Sys2Proof.Machine

/-! ### The arbiter (R16) -/

/-- The rotation order. -/
def rotation : List Client := [.lc 0, .lc 1, .lc 2, .lc 3, .scan, .print, .hostXfer]

/-- The clients in rotation order from the one after the last winner on; from LC0 without one. -/
def rotationAfter (last : Option Client) : List Client :=
  match last with
  | none => rotation
  | some c =>
    let k := rotation.findIdx (fun d => d == c) + 1
    rotation.drop k ++ rotation.take k

/-- The highest level present. -/
def topLevel (waiting : List Request) : Nat := (waiting.map (·.level)).foldr max 0

/-- The request that the arbiter grants. -/
def Store.pick (t : Store) : Option Request :=
  let level := topLevel t.waiting
  (rotationAfter (t.winners.get level)).findSome? fun c => t.waiting.find? fun r => r.client == c && r.level == level

/-- The store block that a request moves (R7, R12): for a write the next position of the chain's last segment, or
position 0 of the pool's head; for a read the block's place in the chain. -/
def targetBlock (s : State) (op : PortOp) : Nat :=
  match op with
  | .write h _ _ =>
    let e := s.entry h.slot
    if e.needsSegment then blockAddress ((s.store.pool.head).getD 0) 0
    else blockAddress ((e.chain.getLast?).getD 0) (e.committed % 16)
  | .read h k => blockAddress ((((s.entry h.slot).chain)[k / 16]?).getD 0) (k % 16)

/-- A request leaves those waiting. -/
def dropRequest (r : Request) (s : State) : State :=
  { s with store := { s.store with waiting := s.store.waiting.filter fun q => decide (q.client ≠ r.client) } }

/-- The paper-present sensor is read within a step that carries no reading: a free value (log 19). -/
def readPaper (s : State) : State :=
  { s with scan := { s.scan with paper := Config.paperAtGrant s.draws }, draws := s.draws + 1 }

/-- A final block refused at grant (R5, R9): the page is closed TRUNCATED, and its writer goes on; the scan unit reads the
sensor where the page ended by its trailing edge (R38). -/
def closeRefused (c : Client) (h : PageHandle) (req : CloseReq) (a : Allocation) (s : State) : State :=
  match c with
  | .scan => match s.scan.ending with
    | none => s
    | some e =>
      if a = .pageLimit then limitPage s
      else
        let s := finishClose false h { req with truncated := true } s
        pageDone e (if e = .trailingEdge then readPaper s else s)
  | .lc l => pageRefused l (s.refTaken h) (finishClose false h { req with truncated := true } s)
  | .hostXfer => match s.link.job with
    | some (.closePage tag _) => closeUpload tag h { req with truncated := true } s
    | _ => s
  | .print => s

/-- A block refused at grant (R5): its writer is told as at the request. -/
def blockRefused (c : Client) (a : Allocation) (s : State) : State :=
  match c with
  | .scan => scanRefused a s
  | .lc l => storeFails l .segments s
  | .hostXfer => match s.link.job with
    | some (.writeData tag h left fromPending accepted) => writeRefused tag h left fromPending accepted s
    | _ => s
  | .print => s

/-- The transfer begins and its client is the last winner of its level (R16). -/
def grantTo (r : Request) (s : State) : State :=
  { s with store := { s.store with port := some { req := r, addr := targetBlock s r.op, void := false },
                                   winners := s.store.winners.set r.level (some r.client) } }

/-- The arbiter grants one request (R16), with the allocation test made again for a write (R5). -/
def grantStep (s : State) : State :=
  if s.store.port.isSome then s
  else match s.store.pick with
    | none => s
    | some r =>
      let s := dropRequest r s
      match r.op with
      | .read _ _ => grantTo r s
      | .write h _ close => match allocTest s (s.entry h.slot) r.client with
        | .pass => grantTo r s
        | a => match close with
          | none => blockRefused r.client a s
          | some req => closeRefused r.client h req a s

def execStorePortGrant (s : State) : Outcome := .next (whenOn (fun s => scanRetry (grantStep s)) s)

/-! ### A write completes (R7, R8) -/

/-- A write's transfer moves its 256 octets, and its check word into the check area beside them, whatever becomes of the
block (R7, R17). -/
def moveBlock (addr : Nat) (data : List Byte) (s : State) : State :=
  { s with mem := Memory.writeBlock s.mem addr data,
           store := { s.store with checks := cellSet s.store.checks addr (Config.checkWord data) } }

/-- The block is committed: the segment taken if one is needed, the page's counts moved, the STORE_LOW test made
(R6, R7). -/
def commitBlock (h : PageHandle) (code : Nat) (s : State) : State :=
  let e := s.entry h.slot
  let grow := e.needsSegment
  let s := { s with
    store := { s.store with
      pool := if grow then s.store.pool.tail else s.store.pool,
      dir := s.store.dir.set h.slot { e with
        chain := if grow then e.chain ++ s.store.pool.head.toList else e.chain,
        committed := e.committed + 1, byteLen := e.byteLen + code } } }
  if grow then lowTest s else s

/-- The writer is told that its final block has committed: the page closes (R9, R21, R38, R110), the scan unit's lines
committed counted at this commit too (R35). -/
def closeCommitted (c : Client) (h : PageHandle) (req : CloseReq) (s : State) : State :=
  match c with
  | .scan =>
    let s := s.modScan (Scan.countLines (s.entry h.slot).byteLen)
    match s.scan.ending with
    | none => s
    | some e => pageDone e (finishClose false h req s)
  | .lc l => pageReceived l (s.refTaken h) (finishClose false h req s)
  | .hostXfer => match s.link.job with
    | some (.closePage tag _) => closeUpload tag h req s
    | _ => s
  | .print => s

/-- The writer is told that its block has committed (R7, R20, R35, R108). -/
def blockCommitted (c : Client) (h : PageHandle) (s : State) : State :=
  match c with
  | .scan => scanCommitted (s.entry h.slot).byteLen s
  | .lc l => writeNext l (s.modRecv l fun r => { r with toWrite := r.toWrite.tail })
  | .hostXfer => match s.link.job with
    | some (.writeData tag p left fromPending accepted) => writeCommitted tag p left fromPending accepted s
    | _ => s
  | .print => s

/-- The transfer in progress leaves the port. -/
def freePort (s : State) : State := { s with store := { s.store with port := none } }

/-- A write's page is there to take its block: the handle names an OPEN page (R3), and the pool has the segment that the
write needs (R7: between grant and completion no other transfer takes one). -/
def State.takesBlock (s : State) (h : PageHandle) : Bool :=
  match s.page h with
  | some e => decide (e.state = .opened) && !(e.needsSegment && s.store.pool.head.isNone)
  | none => false

/-- A granted block write completes (R7, R17); one whose job has ended or whose page has gone commits nothing (R3, R8). -/
def writeStep (s : State) : State :=
  match s.store.port with
  | none => s
  | some t => match t.req.op with
    | .read _ _ => s
    | .write h data close =>
      let s := moveBlock t.addr data (freePort s)
      if t.void || !s.takesBlock h then s
      else match close with
        | none => blockCommitted t.req.client h (commitBlock h 256 s)
        | some req => closeCommitted t.req.client h req (commitBlock h req.code s)

def execBlockWriteCommit (paper : Bool) (s : State) : Outcome :=
  .next (whenOn (fun s => scanRetry (writeStep (s.modScan fun u => { u with paper }))) s)

/-! ### A read completes (R11, R12) -/

/-- The octets of a stored check word, high octet first. -/
def checkOctets (w : Word16) : List Byte := [w.extractLsb' 8 8, w.extractLsb' 0 8]

def wordOf (octets : List Byte) : Word16 := BitVec.ofNat 16 (((octets[0]?).getD 0).toNat * 256 + ((octets[1]?).getD 0).toNat)

/-- A block as the port reads it, with whether its check word matches (R11). Nothing disturbed, it is the block as it was
written with its own check word (log 9). -/
def readChecked (s : State) (addr : Nat) (disturbed : List (Nat × Byte)) : List Byte × Bool :=
  let data := Memory.readBlock s.mem addr
  if disturbed = [] then (data, true)
  else
    let whole := disturb (data ++ checkOctets (checkAt s.store.checks addr)) disturbed
    let data := whole.take 256
    (data, Config.checkWord data == wordOf (whole.drop 256))

/-- A mismatch sets DAMAGED, and raises STORE_DAMAGE the first time (R11). -/
def markDamaged (h : PageHandle) (k : Nat) (s : State) : State :=
  let e := s.entry h.slot
  if e.damaged then s else raise .storeDamage (ePage h ++ e16 k) (s.setEntry h.slot { e with damaged := true })

/-- A block joins the transmit buffer whose line block is being fetched (R118). -/
def SendSide.deliver (x : SendSide) (data : List Byte) : SendSide :=
  match x.current with
  | some (false, b) => { x with buf0 := some { b with got := b.got ++ [data] } }
  | some (true, b) => { x with buf1 := some { b with got := b.got ++ [data] } }
  | none => x

/-- A fill period ends when the block it waited for has come (R18). -/
def endFill (l : LineNo) (s : State) : State := if (s.line l).send.filling then nextFrame l s else s

/-- The block goes to its reader (R12, R22, R118, R140). -/
def deliver (c : Client) (data : List Byte) (matched : Bool) (s : State) : State :=
  match c with
  | .lc l => endFill l (fetchOn 4 l (s.modSend l fun x => x.deliver data))
  | .print => engineOn (s.modEngine fun e => { e with
      decoder := { e.decoder with delivered := e.decoder.delivered + 1, stream := e.decoder.stream ++ data } })
  | .hostXfer => match s.link.job with
    | some (.readPage tag h offset count next got damaged) =>
      readOn tag h offset count (next + 1) (got ++ data) (damaged || !matched) s
    | _ => s
  | .scan => s

/-- A PAGE-READ whose page has gone during its transfer (R3, R22). -/
def readGone (c : Client) (s : State) : State :=
  match c, s.link.job with
  | .hostXfer, some (.readPage tag _ _ _ _ _ _) => reply 0x13 tag .noSuchPage [] (s.setJob none)
  | _, _ => s

/-- A block read is checked: a mismatch marks its page, if it is still there (R3, R11). -/
def checkRead (h : PageHandle) (k : Nat) (matched : Bool) (s : State) : State :=
  if matched || (s.page h).isNone then s else markDamaged h k s

/-- A granted block read completes and is checked (R11, R12); the data of one whose reader or page has gone are not used
(R3, R17, R119, R149). -/
def readStep (disturbed : List (Nat × Byte)) (s : State) : State :=
  match s.store.port with
  | none => s
  | some t => match t.req.op with
    | .write _ _ _ => s
    | .read h k =>
      let s := freePort s
      let (data, matched) := readChecked s t.addr disturbed
      let s := checkRead h k matched s
      if t.void then readGone t.req.client s else deliver t.req.client data matched s

def execBlockReadComplete (disturbed : List (Nat × Byte)) (s : State) : Outcome :=
  .next (whenOn (fun s => scanRetry (readStep disturbed s)) s)

end Sys2Proof.Machine
end

