-- ==== Sys2Proof/Machine/PrintCommands.lean ====
section
/-! DEFINITION. The inbound and print commands (6.3, 6.8, 6.9, R151, R153) and the steps of the print engine (R138,
R143, R145, R148, R150). -/

namespace Sys2Proof.Machine

/-! ### Inbound documents -/

/-- A handle in the fields of a body. -/
def inField (v : Option (List Byte)) : Option InHandle :=
  match v with
  | some [a, b] => some (inOf a b)
  | _ => none

/-- A body whose first octet, 0 or 1, selects one of two forms: this form's frame, or one that either refuses (log 13). -/
def selectorForm (k : Nat) : List Byte → Bool
  | [] => true
  | o :: _ => decide (o.toNat = k) || decide (1 < o.toNat)

/-- Every field of an inbound record, then its entry's number and position while it has one (R134). -/
def inDocFields (s : State) (h : InHandle) (d : InDoc) : List Byte :=
  e8 d.issue ++ [d.state.code] ++ e8 d.line ++ eOpt eChars d.sender ++ eBool d.urgent ++ eTime d.answer ++
    eOpt eTime d.connect ++ eOpt eTime d.release ++ eOpt eCause d.cause ++ eBool d.lastSent ++ eList ePage d.pages ++
    eOpt ePage d.inPage ++ [d.printState.code] ++ eOpt e16 d.firstClose ++
    eOpt (fun n => e16 n ++ e8 ((s.recept.positionOf n).getD 0)) ((s.recept.entryOf h).map (·.number))

def inboundStatus (body : List Byte) (s : State) : Except Status (State × List Byte) :=
  match readOpt 2 body with
  | .error e => .error e
  | .ok (_, _ :: _) => .error .badLength
  | .ok (v, []) => match inField v with
    | none => .error .badField
    | some h => match s.inDoc h with
      | none => .error .noSuchDoc
      | some d => .ok (s, inDocFields s h d)

/-- The summary of the 32 slots, which stand without a count (R134; log 15). -/
def inboundSummary (body : List Byte) (s : State) : Except Status (State × List Byte) :=
  match readOpt 2 body with
  | .error e => .error e
  | .ok (_, _ :: _) => .error .badLength
  | .ok (_, []) =>
    .ok (s, ((s.recept.docs.toList 32).flatMap fun d => e8 d.issue ++ [d.state.code] ++ [d.printState.code]) ++
      e8 s.freeInSlots ++ eList eIn s.recept.waitList ++ e16 s.cfg.receptionReserve ++ eBool s.cfg.autoPrint ++
      eBool s.cfg.autoDiscard)

/-- INBOUND-DELETE (R133): the pages released are counted by the live pages before and after. -/
def inboundDelete (body : List Byte) (s : State) : Except Status (State × List Byte) :=
  match body with
  | [a, b] =>
    let h := inOf a b
    match s.inDoc h with
    | none => .error .noSuchDoc
    | some d =>
      if d.state = .receiving ∨ d.printState = .queued ∨ d.printState = .printing then .error .wrongState
      else
        let s' := freeInbound h.slot (leaveWaiting h s)
        .ok (scanRetry s', e8 (s.livePages - s'.livePages) ++ e16 s'.freeCount)
  | _ => .error .badLength

/-- URGENT-SET (R123); the reply's 16 entries stand without a count (log 15). -/
def urgentSet (body : List Byte) (s : State) : Except Status (State × List Byte) :=
  match body with
  | n :: p :: r =>
    let put (v : Option (List Byte)) : Except Status (State × List Byte) :=
      if 15 < n.toNat then .error .noSuchEntry
      else if v.any fun t => t.isEmpty || decide (20 < t.length) then .error .badField
      else
        let s := { s with recept := { s.recept with urgentTable := s.recept.urgentTable.set n.toNat v } }
        .ok (s, (s.recept.urgentTable.toList 16).flatMap (eOpt eChars))
    if p = 0 then if r = [] then put none else .error .badLength
    else if p = 1 then
      match readCounted r with
      | .error e => .error e
      | .ok (_, _ :: _) => .error .badLength
      | .ok (t, []) => put (some t)
    else .error .badField
  | _ => .error .badLength

def execInboundStatus (tag : Byte) (body : List Byte) (s : State) : Outcome :=
  .next (formCommand (selectorForm 1 body) 0x38 tag body (inboundStatus body) s)

def execInboundStatusSummary (tag : Byte) (body : List Byte) (s : State) : Outcome :=
  .next (formCommand (selectorForm 0 body) 0x38 tag body (inboundSummary body) s)

def execInboundDelete (tag : Byte) (body : List Byte) (s : State) : Outcome :=
  .next (command 0x39 tag body (inboundDelete body) s)

def execUrgentSet (tag : Byte) (body : List Byte) (s : State) : Outcome := .next (command 0x3A tag body (urgentSet body) s)

/-! ### The print queue -/

/-- Number and position of an entry, as the replies of R130 and R131 carry them. -/
def entryReply (s : State) (n : Nat) : List Byte := e16 n ++ e8 ((s.recept.positionOf n).getD 0)

def printDoc (body : List Byte) (s : State) : Except Status (State × List Byte) :=
  match body with
  | [a, b] =>
    let h := inOf a b
    match s.inDoc h with
    | none => .error .noSuchDoc
    | some d =>
      if d.printState = .queueWait ∨ d.printState = .queued ∨ d.printState = .printing ∨ d.pages = [] then
        .error .wrongState
      else if 48 ≤ s.recept.queue.length then .error .tableFull
      else
        let (s, n) := placeDoc h s
        .ok (s, entryReply s n)
  | _ => .error .badLength

def printPage (body : List Byte) (s : State) : Except Status (State × List Byte) :=
  match body with
  | [a, b] =>
    let h := pageOf a b
    match s.page h with
    | none => .error .noSuchPage
    | some e =>
      if e.state ≠ .closed then .error .wrongState
      else if 48 ≤ s.recept.queue.length then .error .tableFull
      else match raiseRef h s with
        | .error st => .error st
        | .ok s =>
          let (s, n) := placeEntry (.page h) false s
          .ok (s, entryReply s n)
  | _ => .error .badLength

/-- The removal of an entry (R132): the engine ends its work on a begun one, the document becomes HELD or the page's
reference is lowered, and a waiting document joins. -/
def removeEntry (q : QueueEntry) (s : State) : State :=
  let s := if q.begun then cancelCurrent s else s
  let s := match q.job with
    | .document h => s.modInDoc h.slot fun d => { d with printState := .held }
    | .page h => lowerRef h s
  leaveQueue q.number s

/-- The reply of PRINT-CANCEL (R132; log 15): the number removed, absent for a wait-list removal, and the length. -/
def cancelReply (n : Option Nat) (s : State) : List Byte := eOpt e16 n ++ e8 s.recept.queue.length

def printCancelEntry (body : List Byte) (s : State) : Except Status (State × List Byte) :=
  match body with
  | [o, a, b] =>
    if o ≠ 0 then .error .badField
    else match s.recept.entryNumbered (nat16 a b) with
      | none => .error .noSuchEntry
      | some q =>
        let s := removeEntry q s
        .ok (scanRetry s, cancelReply (some q.number) s)
  | _ => .error .badLength

/-- PRINT-CANCEL by handle (R132). A handle whose document the finish has freed names no document: NO_SUCH_DOC (R120;
log 51). -/
def printCancelDoc (body : List Byte) (s : State) : Except Status (State × List Byte) :=
  match body with
  | [o, a, b] =>
    if o ≠ 1 then .error .badField
    else
      let h := inOf a b
      match s.inDoc h with
      | none => .error .noSuchDoc
      | some d => match d.printState with
        | .queueWait =>
          let s := leaveWaiting h (s.setInDoc h.slot { d with printState := .held })
          .ok (s, cancelReply none s)
        | .queued | .printing => match s.recept.entryOf h with
          | none => .error .wrongState
          | some q =>
            let s := removeEntry q s
            .ok (scanRetry s, cancelReply (some q.number) s)
        | .notQueued | .printed | .held => .error .wrongState
  | _ => .error .badLength

/-- PRINT-PAUSE (R151): the page in hand is interrupted, and printed paper before the cutter is cut. Never refused; a body of
any octet does not fit it (R207): DESIGN CHOICE, log 13. -/
def printPause (body : List Byte) (s : State) : Except Status (State × List Byte) :=
  if body ≠ [] then .error .badLength
  else
    let working := !s.engine.stopped
    let s := s.modEngine fun e => { e with hostPause := true, cutFeed := e.cutFeed || (working && e.uncut) }
    let s := if working then interruptPage s else s
    .ok (s, [s.engine.state.code])

/-- PRINT-RESUME (R151). -/
def printResume (body : List Byte) (s : State) : Except Status (State × List Byte) :=
  if body ≠ [] then .error .badLength
  else if s.engine.jamSensor then .error .busy
  else if !s.engine.hostPause && !s.engine.jamLatched then .error .wrongState
  else
    let s := resume (s.modEngine fun e => { e with hostPause := false, jamLatched := false })
    .ok (scanRetry s, [s.engine.state.code])

/-- An entry as PRINT-STATUS reports it (R135). -/
def eQueueEntry (e : QueueEntry) : List Byte :=
  e16 e.number ++ (match e.job with
    | .document h => [0] ++ eIn h
    | .page h => [1] ++ ePage h) ++ eBool e.urgent ++ eBool e.begun

/-- The engine's progress (R153): of the strikes of R144 their counts, on the last head line and on the page. The
page's class is absent with no current page (log 15). -/
def engineFields (strikeLimit : Nat) (e : Engine) : List Byte :=
  [e.state.code] ++ eBool e.paperOut ++ eBool e.jamLatched ++ eBool e.hostPause ++ eBool e.jamSensor ++
    eOpt e16 e.entry ++ eOpt e8 (e.entry.map fun _ => e.index) ++ eOpt ePage e.page ++
    eOpt eClass (e.page.map fun _ => e.cls) ++ e16 e.struck ++ e16 e.damaged ++ e8 e.ring.length ++ e8 e.printed ++
    e16 e.reprints ++ e16 strikeLimit ++ e8 e.lastStrikes.length ++ e32 e.pageStrikes ++ eBool e.uncut

/-- PRINT-STATUS (R135): never refused; a body of any octet does not fit it (R207): DESIGN CHOICE, log 13. -/
def printStatus (body : List Byte) (s : State) : Except Status (State × List Byte) :=
  if body ≠ [] then .error .badLength
  else .ok (s, eList eQueueEntry s.recept.queue ++ eList eIn s.recept.waitList ++ e8 s.recept.queue.length ++
    e16 s.recept.entryCounter ++ engineFields s.cfg.strikeLimit s.engine)

def execPrintDoc (tag : Byte) (body : List Byte) (s : State) : Outcome := .next (command 0x3B tag body (printDoc body) s)

def execPrintPage (tag : Byte) (body : List Byte) (s : State) : Outcome := .next (command 0x3C tag body (printPage body) s)

def execPrintCancelEntry (tag : Byte) (body : List Byte) (s : State) : Outcome :=
  .next (formCommand (selectorForm 0 body) 0x3D tag body (printCancelEntry body) s)

def execPrintCancelDoc (tag : Byte) (body : List Byte) (s : State) : Outcome :=
  .next (formCommand (selectorForm 1 body) 0x3D tag body (printCancelDoc body) s)

def execPrintPause (tag : Byte) (body : List Byte) (s : State) : Outcome := .next (command 0x3E tag body (printPause body) s)

def execPrintResume (tag : Byte) (body : List Byte) (s : State) : Outcome :=
  .next (command 0x3F tag body (printResume body) s)

def execPrintStatus (tag : Byte) (body : List Byte) (s : State) : Outcome :=
  .next (command 0x40 tag body (printStatus body) s)

/-! ### Steps of the engine -/

/-- The engine begins the entry at the queue's head (R138), due with no current entry and no stop condition. -/
def entryBegin (s : State) : State :=
  if s.engine.entry.isNone && !s.engine.stopped then
    match s.recept.queue with
    | [] => s
    | q :: rest =>
      let s := { s with recept := { s.recept with queue := { q with begun := true } :: rest } }
      let s := match q.job with
        | .document h => s.modInDoc h.slot fun d => { d with printState := .printing }
        | .page _ => s
      nextPage (s.modEngine fun e => { e with entry := some q.number, index := 0, printed := 0, damaged := 0, struck := 0 })
  else s

def execPrintEntryBegin (s : State) : Outcome := .next (whenOn (fun s => scanRetry (entryBegin s)) s)

/-- A head line is struck (R143), due while printing with a line ready and no cut feed under way. -/
def headLineStruck (s : State) : State :=
  if s.engine.state = .decodingPrinting && !s.engine.cutFeed then
    match headLine s.engine with
    | none => s
    | some (dots, frees) => engineOn (s.modEngine (strikeLine s.cfg.strikeLimit dots frees))
  else s

def execHeadLineStruck (s : State) : Outcome := .next (whenOn (fun s => scanRetry (headLineStruck s)) s)

/-- The cut feed is over and the paper cut (R145). -/
def cutFeedDone (s : State) : State :=
  if s.engine.cutFeed then s.modEngine fun e => { e with cutFeed := false, uncut := false } else s

def execCutFeedDone (s : State) : Outcome := .next (whenOn cutFeedDone s)

def execPaperOut (s : State) : Outcome := .next (whenOn paperGoesOut s)

/-- Paper is restored (R148). -/
def paperRestored (s : State) : State :=
  if s.engine.paperOut then resume (s.modEngine fun e => { e with paperOut := false }) else s

def execPaperRestored (s : State) : Outcome := .next (whenOn (fun s => scanRetry (paperRestored s)) s)

def execJam (s : State) : Outcome := .next (whenOn jamIndication s)

/-- The jam sensor reports clear (R150): the latch stays. -/
def execJamSensorClear (s : State) : Outcome :=
  .next (whenOn (fun s => s.modEngine fun e => { e with jamSensor := false }) s)

end Sys2Proof.Machine
end

