-- ==== Sys2Proof/Machine/Resets.lean ====
section
/-! DEFINITION. Resets: POWER_ON, the RESET line, and the RESET command with scope LINES and with scope ENGINE (R214 and
the reset rule of every block: R24, R45, R72, R93, R119, R136, R153, R175, R190, R200, R201, R215). -/

namespace Sys2Proof.Machine

/-! ### Power-on and the RESET line -/

/-- Every block but the timekeeper at its reset value; kept are the queue of commands, the pins (the host's READY, the
paper-present sensor), the page memory and its check area, and the counter of free values. The scan unit is IDLE at once,
while it carries out a sheet between its rollers (R45; log 53). -/
def State.blocksReset (s : State) : State :=
  { State.reset with
    pending := s.pending, tk := s.tk, link := { Link.reset with hostReady := s.link.hostReady },
    store := { Store.reset with checks := s.store.checks }, mem := s.mem,
    scan := { Scan.reset with paper := s.scan.paper }, draws := s.draws }

/-- The print engine reads its sensors after its reset (R153). -/
def readPrinterSensors (paperAbsent jamReported : Bool) (s : State) : State :=
  let s := if paperAbsent then paperGoesOut s else s
  if jamReported then jamIndication s else s

/-- Power-on (R200, R215): the page memory comes up unwritten (log 7), every block at its reset value, the timekeeper by
its tests with the start-up notice first, then the printer's sensors. -/
def powerOn (paperAbsent jamReported : Bool) (s : State) : State :=
  let s := s.blocksReset
  let (k, notice) := s.tk.powerOn
  let s := { s with tk := k, mem := [], store := .reset }
  let s := match notice with
    | some (cause, already) => raiseSuspect cause already s
    | none => s
  readPrinterSensors paperAbsent jamReported s

def execPowerOn (paperAbsent jamReported : Bool) (s : State) : Outcome := .next (powerOn paperAbsent jamReported s)

/-- The RESET line (R201, R215): as power-on, the timekeeper running on and the memory keeping what it holds; the
printer's sensors read as they stand. -/
def resetLineInput (s : State) : State := readPrinterSensors s.engine.paperOut s.engine.jamSensor s.blocksReset

def execResetLine (s : State) : Outcome := .next (whenOn resetLineInput s)

/-! ### The RESET command (R214) -/

/-- This row's frame: its scope, or a body that either scope's row refuses (log 13). -/
def scopeForm (k : Nat) : List Byte → Bool
  | [o] => decide (o.toNat = k) || decide (1 < o.toNat)
  | [] | _ :: _ :: _ => true

/-- Every line's calls and attempts ended (R93, R119), LC0 first and LC3 last (log 52). -/
def resetAllLines (quiet : Bool) (s : State) : State := allLines.foldl (resetLine quiet) s

/-- The reply fields of RESET (R214): `before` is the part as the command was taken. -/
def resetFields (scope : Nat) (before after : State) : List Byte :=
  let filled := after.log.records.length - before.log.records.length
  e8 scope ++ eTime before.now ++ e8 before.callsInProgress ++ e8 filled ++
    eOpt e16 (if filled = 0 then none else some before.log.sequence) ++ e16 after.freeCount

def resetScopeLines (body : List Byte) (s : State) : Except Status (State × List Byte) :=
  match body with
  | [o] =>
    if o ≠ 0 then .error .badField
    else
      let s' := scanRetry (resetAllLines false s)
      .ok (s', resetFields 0 s s')
  | _ => .error .badLength

def execResetLines (tag : Byte) (body : List Byte) (s : State) : Outcome :=
  .next (if scopeForm 0 body then command 0x06 tag body (resetScopeLines body) s else s)

/-- The print engine at a reset of scope ENGINE (R153): the head stops, uncut paper is fed and cut, entry, page, ring
and counts are cleared. -/
def Engine.scopeReset (e : Engine) : Engine :=
  { e.emptyRing with
    entry := none, index := 0, page := none, printed := 0, struck := 0, damaged := 0, decoder := .reset,
    cutFeed := e.cutFeed || e.uncut, jamLatched := false, hostPause := false, reprintDue := false, pageStrikes := 0 }

/-- The page store at a reset of scope ENGINE (R24): a transfer on the port completes and commits nothing, requests are
withdrawn, every page is released and every slot's issue one past its value in `dir`, taken before the reset. -/
def Store.scopeReset (dir : Table PageEntry) (t : Store) : Store :=
  { t with pool := .reset, dir := dir.map fun e => .freeWith (wrapSucc 64 e.issue), waiting := [],
           port := t.port.map fun x => { x with void := true }, winners := .all none, lowArmed := true }

/-- The scan unit at a reset of scope ENGINE (R45): a running job ends with RESET, its sheet carried out; the target
becomes LOOSE. The hold time and the page's line counts stay (logs 21, 45). -/
def Scan.scopeReset (u : Scan) : Scan :=
  let u := { u with settings := { u.settings with target := none }, target := none }
  if u.state = .idle then u
  else if u.state = .ejecting ∧ !u.nextSheet then u
  else { u.emptied with page := none, state := .ejecting, nextSheet := false, endCause := .reset }

/-- The document table at a reset of scope ENGINE (R72): every slot and record freed, the counter cleared. -/
def DocTable.scopeReset (docs : Table Doc) (t : DocTable) : DocTable :=
  { t with docs := docs.map fun d => .freeWith (wrapSucc 256 d.issue), pool := .all none, counter := 0 }

/-- Reception and the print queue at a reset of scope ENGINE (R136): slots freed, queue and wait list emptied. -/
def Reception.scopeReset (docs : Table InDoc) (r : Reception) : Reception :=
  { r with docs := docs.map fun d => .freeWith (wrapSucc 256 d.issue), closeCounter := 0, queue := [],
           entryCounter := 0, waitList := [] }

/-- A reset of scope ENGINE: the engine stops, the calls end as for scope LINES without the notices of pages, documents
and receptions, and the blocks are cleared; a jam that the sensor still reports is taken as a jam indication (R153). -/
def scopeEngine (before : State) : State :=
  let s := resetAllLines true (before.modEngine Engine.scopeReset)
  let s := { s with
    store := s.store.scopeReset before.store.dir, scan := s.scan.scopeReset,
    docs := s.docs.scopeReset before.docs.docs, recept := s.recept.scopeReset before.recept.docs }
  if s.engine.jamSensor then jamIndication s else s

def resetScopeEngine (body : List Byte) (s : State) : Except Status (State × List Byte) :=
  match body with
  | [o] =>
    if o ≠ 1 then .error .badField
    else
      let s' := scopeEngine s
      .ok (s', resetFields 1 s s' ++ e16 s.livePages)
  | _ => .error .badLength

def execResetEngine (tag : Byte) (body : List Byte) (s : State) : Outcome :=
  .next (if scopeForm 1 body then command 0x06 tag body (resetScopeEngine body) s else s)

end Sys2Proof.Machine
end

