-- ==== Sys2Proof/Machine/ScanCommands.lean ====
section
/-! DEFINITION. The scan commands (R25, R36, R43, R44) and the steps of the feeder, the sheet-end sensor, the hold and
the ejection (R26, R27, R41, R42). -/

namespace Sys2Proof.Machine

def modeOf (b : Byte) : Option ScanMode := if b = 0 then some .text else if b = 1 then some .halftone else none

def roundingOf (b : Byte) : Option Rounding := if b = 0 then some .floor else if b = 1 then some .nearestEven else none

/-- The settings as SCAN-SET and SCAN-STATUS report them (R25). -/
def scanSettingsFields (c : ScanSettings) : List Byte :=
  eClass c.cls ++ [c.mode.code] ++ e8 c.offset ++ e8 c.gain ++ [c.rounding.code] ++ e8 c.threshold ++ eOpt eDoc c.target

/-- The document handle of an optional field's octets. -/
def docField (v : Option (List Byte)) : Option DocHandle :=
  match v with
  | some [a, b] => some (docOf a b)
  | _ => none

/-- The test of a target (R25, R36): a handle that names no document, or a document that is not DRAFT. -/
def targetRefusal (s : State) (target : Option DocHandle) : Option Status :=
  match target with
  | none => none
  | some h => match s.doc h with
    | none => some .noSuchDoc
    | some d => if d.state = .draft then none else some .wrongState

def scanSet (body : List Byte) (s : State) : Except Status (State × List Byte) :=
  match body with
  | c :: m :: b :: k :: r :: t :: rest =>
    match readOpt 2 rest with
    | .error e => .error e
    | .ok (_, _ :: _) => .error .badLength
    | .ok (v, []) =>
      match classOf c, modeOf m, roundingOf r with
      | some cls, some mode, some rounding =>
        let target := docField v
        match targetRefusal s target with
        | some e => .error e
        | none =>
          if s.scan.state ≠ .idle then .error .busy
          else
            let settings : ScanSettings :=
              { cls, mode, offset := clamp 0 127 b.toNat, gain := clamp 16 255 k.toNat, rounding,
                threshold := clamp 1 255 t.toNat, target }
            .ok (s.modScan fun u => { u with settings }, scanSettingsFields settings)
      | _, _, _ => .error .badField
  | _ => .error .badLength

/-- SCAN-START (R36); its step reads the paper-present sensor (log 19). -/
def scanStart (body : List Byte) (s : State) : Except Status (State × List Byte) :=
  if body ≠ [] then .error .badLength
  else if s.scan.state ≠ .idle then .error .busy
  else match targetRefusal s s.scan.settings.target with
    | some e => .error e
    | none =>
      if !s.scan.paper then .error .noPaper
      else if (s.store.dir.lowest 1024 fun e => decide (e.state = .free)).isNone then .error .tableFull
      else
        let s := openSheet (s.modScan fun u =>
          { u with target := u.settings.target, pagesClosed := 0, endCause := .none, holdTime := 0 })
        .ok (s, match s.scan.page with | some h => ePage h | none => [])

/-- SCAN-STOP (R43). -/
def scanStop (body : List Byte) (s : State) : Except Status (State × List Byte) :=
  if body ≠ [] then .error .badLength
  else match s.scan.state with
    | .idle => .error .wrongState
    | .scanning | .held => .ok (abandonSheet .stopped s, [])
    | .ejecting =>
      .ok (s.modScan fun u => if u.nextSheet then { u with nextSheet := false, endCause := .stopped } else u, [])

/-- The fields of SCAN-STATUS (R44). -/
def scanStatusFields (u : Scan) : List Byte :=
  [u.state.code] ++ scanSettingsFields u.settings ++ eOpt eDoc u.target ++ eOpt ePage u.page ++ e16 u.coded ++
    e16 u.committed ++ e16 u.pagesClosed ++ e16 u.holdTime ++
    eOpt (fun next => e8 (if next then 0 else 1)) (if u.state = .ejecting then some u.nextSheet else none) ++
    [u.endCause.code] ++ eBool u.paper

def scanStatus (body : List Byte) (s : State) : Except Status (State × List Byte) :=
  if body ≠ [] then .error .badLength else .ok (s, scanStatusFields s.scan)

/-- The paper-present sensor's present reading (log 19). -/
def sensePaper (paper : Bool) (s : State) : State := s.modScan fun u => { u with paper }

def execScanSet (tag : Byte) (body : List Byte) (s : State) : Outcome := .next (command 0x20 tag body (scanSet body) s)

def execScanStart (tag : Byte) (body : List Byte) (paper : Bool) (s : State) : Outcome :=
  .next (hostCommand 0x21 tag body (fun s => answered 0x21 tag (scanStart body) (sensePaper paper s)) s)

def execScanStop (tag : Byte) (body : List Byte) (s : State) : Outcome := .next (command 0x22 tag body (scanStop body) s)

def execScanStatus (tag : Byte) (body : List Byte) (paper : Bool) (s : State) : Outcome :=
  .next (hostCommand 0x23 tag body (fun s => answered 0x23 tag (scanStatus body) (sensePaper paper s)) s)

/-! ### The feeder (R26, R27) -/

/-- One step of the feeder, due in SCANNING once the line captured before has been coded (R26). The page ends 64 steps
after the trailing edge, or with TRUNCATED at step 6912 (R27; log 18). -/
def feederStep (samples : List Byte) (s : State) : State :=
  let u := s.scan
  if u.state = .scanning ∧ u.page.isSome ∧ u.backlog = [] ∧ u.ending = none then
    let k := u.step
    let s := s.modScan fun u => { u with step := k + 1 }
    if u.endStep = some k then endSheetPage .trailingEdge s
    else if k = 6912 then endSheetPage .length s
    else if k % captureStride u.settings.cls = 0 then captureLine samples s
    else s
  else s

def execFeederStep (samples : List Byte) (paper : Bool) (s : State) : Outcome :=
  .next (whenOn (fun s => scanRetry (feederStep samples (sensePaper paper s))) s)

/-- The sensor reports the trailing edge at the last step made (R27). -/
def sheetEnd (s : State) : State :=
  let u := s.scan
  if (u.state = .scanning ∨ u.state = .held) ∧ u.page.isSome ∧ u.endStep = none ∧ u.ending = none then
    s.modScan fun u => { u with endStep := some (u.step - 1 + 64) }
  else s

def execSheetEndSensor (s : State) : Outcome := .next (whenOn sheetEnd s)

/-- A tenth of the scan unit's own interval count (R40): in HELD the hold time rises, up to 300. -/
def holdTenth (s : State) : State :=
  if s.scan.state = .held then s.modScan fun u => { u with holdTime := satAdd 300 u.holdTime 1 } else s

/-- What the part does where no command waits: a tenth of the scan unit's count passes (R40; logs 4, 5). -/
def State.idled (s : State) : State := whenOn holdTenth s

/-- The hold has lasted 30 s (R41): due in HELD with the hold time at 300 tenths. -/
def scanHoldTimeout (s : State) : State :=
  if s.scan.state = .held ∧ s.scan.holdTime = 300 then
    raise .scanAborted (scanAbortedFields .storeFull s.scan.page s.scan.pagesClosed) (abandonSheet .storeFull s)
  else s

def execScanHoldTimeout (s : State) : Outcome := .next (whenOn scanHoldTimeout s)

/-- The sheet has left the feeder (R42, R43). -/
def ejectionComplete (s : State) : State :=
  if s.scan.state = .ejecting then
    if s.scan.nextSheet then nextSheetOrEnd s else s.modScan fun u => { u with state := .idle }
  else s

def execEjectionComplete (paper : Bool) (s : State) : Outcome :=
  .next (whenOn (fun s => ejectionComplete (sensePaper paper s)) s)

end Sys2Proof.Machine
end

