-- ==== Sys2Proof/Machine/Dispatch.lean ====
section
/-! DEFINITION. One arm per row of the table: its meaning. -/

namespace Sys2Proof.Machine

-- The effect of a command or event on everything but the queue of waiting commands.
def exec (i : Instr) (s : State) : Host.Outcome State Fault Refusal :=
  match i with
  | .powerOn paperAbsent jamReported => Sys2Proof.Machine.execPowerOn paperAbsent jamReported s
  | .resetLine => Sys2Proof.Machine.execResetLine s
  | .backupSupplyFail => Sys2Proof.Machine.execBackupSupplyFail s
  | .crystalStopUnpowered => Sys2Proof.Machine.execCrystalStopUnpowered s
  | .tenthCounted => Sys2Proof.Machine.execTenthCounted s
  | .crystalGapExpiry => Sys2Proof.Machine.execCrystalGapExpiry s
  | .crystalReturn => Sys2Proof.Machine.execCrystalReturn s
  | .mainSuppliesOff => Sys2Proof.Machine.execMainSuppliesOff s
  | .crystalStartsAgain => Sys2Proof.Machine.execCrystalStartsAgain s
  | .deadlineReached slot => Sys2Proof.Machine.execDeadlineReached slot s
  | .retryEligible record => Sys2Proof.Machine.execRetryEligible record s
  | .hostOctetReceived octet stopBit => Sys2Proof.Machine.execHostOctetReceived octet stopBit s
  | .frameGapExpiry => Sys2Proof.Machine.execFrameGapExpiry s
  | .hostReadyChange asserted => Sys2Proof.Machine.execHostReadyChange asserted s
  | .frameTransmitStart => Sys2Proof.Machine.execFrameTransmitStart s
  | .replySent => Sys2Proof.Machine.execReplySent s
  | .noticeSent => Sys2Proof.Machine.execNoticeSent s
  | .unknownKindCommand kind tag body => Sys2Proof.Machine.execUnknownKindCommand kind tag body s
  | .identify tag body => Sys2Proof.Machine.execIdentify tag body s
  | .linkRate tag body => Sys2Proof.Machine.execLinkRate tag body s
  | .noticeMask tag body => Sys2Proof.Machine.execNoticeMask tag body s
  | .configSet tag body => Sys2Proof.Machine.execConfigSet tag body s
  | .configGet tag body => Sys2Proof.Machine.execConfigGet tag body s
  | .resetLines tag body => Sys2Proof.Machine.execResetLines tag body s
  | .resetEngine tag body => Sys2Proof.Machine.execResetEngine tag body s
  | .pageOpenWrite tag body => Sys2Proof.Machine.execPageOpenWrite tag body s
  | .pageWriteData tag body => Sys2Proof.Machine.execPageWriteData tag body s
  | .pageClose tag body => Sys2Proof.Machine.execPageClose tag body s
  | .pageRead tag body => Sys2Proof.Machine.execPageRead tag body s
  | .pageInfo tag body => Sys2Proof.Machine.execPageInfo tag body s
  | .pagePin tag body => Sys2Proof.Machine.execPagePin tag body s
  | .pageUnpin tag body => Sys2Proof.Machine.execPageUnpin tag body s
  | .pageDrop tag body => Sys2Proof.Machine.execPageDrop tag body s
  | .scanSet tag body => Sys2Proof.Machine.execScanSet tag body s
  | .scanStart tag body paper => Sys2Proof.Machine.execScanStart tag body paper s
  | .scanStop tag body => Sys2Proof.Machine.execScanStop tag body s
  | .scanStatus tag body paper => Sys2Proof.Machine.execScanStatus tag body paper s
  | .docCreate tag body => Sys2Proof.Machine.execDocCreate tag body s
  | .docAddPages tag body => Sys2Proof.Machine.execDocAddPages tag body s
  | .docAddDests tag body => Sys2Proof.Machine.execDocAddDests tag body s
  | .docSubmit tag body => Sys2Proof.Machine.execDocSubmit tag body s
  | .docCancel tag body => Sys2Proof.Machine.execDocCancel tag body s
  | .docStatus tag body => Sys2Proof.Machine.execDocStatus tag body s
  | .docDestStatus tag body => Sys2Proof.Machine.execDocDestStatus tag body s
  | .docDelete tag body => Sys2Proof.Machine.execDocDelete tag body s
  | .lineConfig tag body => Sys2Proof.Machine.execLineConfig tag body s
  | .lineStatus tag body => Sys2Proof.Machine.execLineStatus tag body s
  | .lineHold tag body => Sys2Proof.Machine.execLineHold tag body s
  | .lineRelease tag body => Sys2Proof.Machine.execLineRelease tag body s
  | .macroSet tag body => Sys2Proof.Machine.execMacroSet tag body s
  | .macroGet tag body => Sys2Proof.Machine.execMacroGet tag body s
  | .inboundStatus tag body => Sys2Proof.Machine.execInboundStatus tag body s
  | .inboundStatusSummary tag body => Sys2Proof.Machine.execInboundStatusSummary tag body s
  | .inboundDelete tag body => Sys2Proof.Machine.execInboundDelete tag body s
  | .urgentSet tag body => Sys2Proof.Machine.execUrgentSet tag body s
  | .printDoc tag body => Sys2Proof.Machine.execPrintDoc tag body s
  | .printPage tag body => Sys2Proof.Machine.execPrintPage tag body s
  | .printCancelEntry tag body => Sys2Proof.Machine.execPrintCancelEntry tag body s
  | .printCancelDoc tag body => Sys2Proof.Machine.execPrintCancelDoc tag body s
  | .printPause tag body => Sys2Proof.Machine.execPrintPause tag body s
  | .printResume tag body => Sys2Proof.Machine.execPrintResume tag body s
  | .printStatus tag body => Sys2Proof.Machine.execPrintStatus tag body s
  | .prefixSetSet tag body => Sys2Proof.Machine.execPrefixSetSet tag body s
  | .prefixSetRemove tag body => Sys2Proof.Machine.execPrefixSetRemove tag body s
  | .prefixSetRead tag body => Sys2Proof.Machine.execPrefixSetRead tag body s
  | .prefixSetTest tag body => Sys2Proof.Machine.execPrefixSetTest tag body s
  | .zoneSet tag body => Sys2Proof.Machine.execZoneSet tag body s
  | .zoneSetRead tag body => Sys2Proof.Machine.execZoneSetRead tag body s
  | .bandSet tag body => Sys2Proof.Machine.execBandSet tag body s
  | .bandSetRead tag body => Sys2Proof.Machine.execBandSetRead tag body s
  | .weekdaySet tag body => Sys2Proof.Machine.execWeekdaySet tag body s
  | .weekdaySetRead tag body => Sys2Proof.Machine.execWeekdaySetRead tag body s
  | .holidaySet tag body => Sys2Proof.Machine.execHolidaySet tag body s
  | .holidaySetRead tag body => Sys2Proof.Machine.execHolidaySetRead tag body s
  | .rateSet tag body => Sys2Proof.Machine.execRateSet tag body s
  | .rateSetRead tag body => Sys2Proof.Machine.execRateSetRead tag body s
  | .priceSet tag body => Sys2Proof.Machine.execPriceSet tag body s
  | .priceSetRead tag body => Sys2Proof.Machine.execPriceSetRead tag body s
  | .deskSet tag body => Sys2Proof.Machine.execDeskSet tag body s
  | .deskRead tag body => Sys2Proof.Machine.execDeskRead tag body s
  | .deskClear tag body => Sys2Proof.Machine.execDeskClear tag body s
  | .logRead tag body => Sys2Proof.Machine.execLogRead tag body s
  | .logDiscard tag body => Sys2Proof.Machine.execLogDiscard tag body s
  | .clockSet tag body => Sys2Proof.Machine.execClockSet tag body s
  | .clockRead tag body => Sys2Proof.Machine.execClockRead tag body s
  | .storePortGrant => Sys2Proof.Machine.execStorePortGrant s
  | .blockWriteCommit paper => Sys2Proof.Machine.execBlockWriteCommit paper s
  | .blockReadComplete disturbed => Sys2Proof.Machine.execBlockReadComplete disturbed s
  | .feederStep samples paper => Sys2Proof.Machine.execFeederStep samples paper s
  | .sheetEndSensor => Sys2Proof.Machine.execSheetEndSensor s
  | .scanHoldTimeout => Sys2Proof.Machine.execScanHoldTimeout s
  | .ejectionComplete paper => Sys2Proof.Machine.execEjectionComplete paper s
  | .dispatcherPass => Sys2Proof.Machine.execDispatcherPass s
  | .dialExpansion l => Sys2Proof.Machine.execDialExpansion l s
  | .zoneLookup l => Sys2Proof.Machine.execZoneLookup l s
  | .dialSymbolEnd l => Sys2Proof.Machine.execDialSymbolEnd l s
  | .dialToneReport l => Sys2Proof.Machine.execDialToneReport l s
  | .dialToneTimeout l => Sys2Proof.Machine.execDialToneTimeout l s
  | .busyTone l => Sys2Proof.Machine.execBusyTone l s
  | .answerIndication l => Sys2Proof.Machine.execAnswerIndication l s
  | .answerTimeout l => Sys2Proof.Machine.execAnswerTimeout l s
  | .ring l => Sys2Proof.Machine.execRing l s
  | .ringBurstEnd l => Sys2Proof.Machine.execRingBurstEnd l s
  | .answerToneEnd l => Sys2Proof.Machine.execAnswerToneEnd l s
  | .restEnd l => Sys2Proof.Machine.execRestEnd l s
  | .remoteAnswerToneEnd l => Sys2Proof.Machine.execRemoteAnswerToneEnd l s
  | .turnaroundExpiry l => Sys2Proof.Machine.execTurnaroundExpiry l s
  | .frameSent l => Sys2Proof.Machine.execFrameSent l s
  | .transmissionSent l => Sys2Proof.Machine.execTransmissionSent l s
  | .quitSent l => Sys2Proof.Machine.execQuitSent l s
  | .answerWaitExpiry l => Sys2Proof.Machine.execAnswerWaitExpiry l s
  | .invalidTransmission l => Sys2Proof.Machine.execInvalidTransmission l s
  | .offerReceived l identity rates orders chop cls => Sys2Proof.Machine.execOfferReceived l identity rates orders chop cls s
  | .chooseReceived l identity rate order chop classes => Sys2Proof.Machine.execChooseReceived l identity rate order chop classes s
  | .trainingBurstReceived l rate goodQuality => Sys2Proof.Machine.execTrainingBurstReceived l rate goodQuality s
  | .trainGoodReceived l => Sys2Proof.Machine.execTrainGoodReceived l s
  | .trainBadReceived l => Sys2Proof.Machine.execTrainBadReceived l s
  | .lineFrameReceived l octets => Sys2Proof.Machine.execLineFrameReceived l octets s
  | .blockEndReceived l sequence block round count final => Sys2Proof.Machine.execBlockEndReceived l sequence block round count final s
  | .resendReceived l marks => Sys2Proof.Machine.execResendReceived l marks s
  | .pageEndReceived l sequence lineCount next => Sys2Proof.Machine.execPageEndReceived l sequence lineCount next s
  | .pageGoodReceived l => Sys2Proof.Machine.execPageGoodReceived l s
  | .pageFailedReceived l => Sys2Proof.Machine.execPageFailedReceived l s
  | .quitReceived l => Sys2Proof.Machine.execQuitReceived l s
  | .remoteCarrierBegin l trainingBurst => Sys2Proof.Machine.execRemoteCarrierBegin l trainingBurst s
  | .carrierAbsent l => Sys2Proof.Machine.execCarrierAbsent l s
  | .carrierReturn l => Sys2Proof.Machine.execCarrierReturn l s
  | .carrierLossExpiry l => Sys2Proof.Machine.execCarrierLossExpiry l s
  | .meteringPulse l => Sys2Proof.Machine.execMeteringPulse l s
  | .printEntryBegin => Sys2Proof.Machine.execPrintEntryBegin s
  | .headLineStruck => Sys2Proof.Machine.execHeadLineStruck s
  | .cutFeedDone => Sys2Proof.Machine.execCutFeedDone s
  | .paperOut => Sys2Proof.Machine.execPaperOut s
  | .paperRestored => Sys2Proof.Machine.execPaperRestored s
  | .jam => Sys2Proof.Machine.execJam s
  | .jamSensorClear => Sys2Proof.Machine.execJamSensorClear s

end Sys2Proof.Machine
end

