-- ==== Sys2Proof/Safety.lean ====
section
/-! DEFINITION. What claims are stated with: the parts of the state that a step leaves alone, commands taken one after
another, and the invariants of a safe run. -/

namespace Sys2Proof.Machine

/-! ### Frames -/

/-- The parts of the state. -/
inductive Part where
  | pending | power | tk | link | cfg | store | mem | scan | docs | macros | lines | recept | engine | charge | desks | log
  | draws
  deriving DecidableEq, Repr

/-- A part is the same in two states. -/
def Same (s t : State) : Part → Prop
  | .pending => t.pending = s.pending
  | .power => t.power = s.power
  | .tk => t.tk = s.tk
  | .link => t.link = s.link
  | .cfg => t.cfg = s.cfg
  | .store => t.store = s.store
  | .mem => t.mem = s.mem
  | .scan => t.scan = s.scan
  | .docs => t.docs = s.docs
  | .macros => t.macros = s.macros
  | .lines => t.lines = s.lines
  | .recept => t.recept = s.recept
  | .engine => t.engine = s.engine
  | .charge => t.charge = s.charge
  | .desks => t.desks = s.desks
  | .log => t.log = s.log
  | .draws => t.draws = s.draws

/-- From `s` to `t` nothing changes but the parts named. -/
def OnlyChanges (parts : List Part) (s t : State) : Prop := ∀ p, p ∉ parts → Same s t p

/-- Every line but `l` is the same. -/
def OtherLines (l : LineNo) (s t : State) : Prop := ∀ k, k ≠ l → t.line k = s.line k

/-- Of the host link nothing changes but notices raised: the notice queue and the lost count. -/
def LinkRaises (s t : State) : Prop :=
  ∃ notices lost, t.link = { s.link with notices, lost }

/-- What only the commands and events made for it change: the queue, the supplies, the timekeeper, the page memory, the
configuration, the macro and charging tables, the counter of free values, and of the host link the rate, the mask, the
receiver and the transmitter. -/
structure Keep where
  pending   : List Instr
  power     : Bool
  tk        : Timekeeper
  mem       : List Host.Cell
  cfg       : ConfigItems
  macros    : Table (Option (List DialSym))
  charge    : Charging
  draws     : Nat
  rate      : HostRate
  mask      : Nat
  candidate : List Byte
  held      : List Frame
  taken     : Nat
  tx        : Transmitter
  hostReady : Bool

def State.kept (s : State) : Keep :=
  { pending := s.pending, power := s.power, tk := s.tk, mem := s.mem, cfg := s.cfg, macros := s.macros,
    charge := s.charge, draws := s.draws, rate := s.link.rate, mask := s.link.mask, candidate := s.link.candidate,
    held := s.link.held, taken := s.link.taken, tx := s.link.tx, hostReady := s.link.hostReady }

/-! ### Measures of claims -/

/-- A client's place in the rotation order of the store port (R16). -/
def Client.place : Client → Nat
  | .lc l => l.val
  | .scan => 4 | .print => 5 | .hostXfer => 6

/-- How many clients come before one when the rotation starts after the last winner (R16). -/
def turnAfter (last : Option Client) (c : Client) : Nat :=
  match last with
  | none => c.place
  | some w => (c.place + 6 - w.place) % 7

/-- A dial symbol of the table of R73. -/
def DialSym.inRange : DialSym → Bool
  | .digit d => decide (d ≤ 9)
  | .macroCall n => decide (n ≤ 31)
  | .star | .hash | .pause | .wait | .chargePoint => true

/-- The line begins the symbol at position `p` (R85): ALERTING at the buffer's end, DIALLING at a digit, * or #, which ends
the dial tone (log 59), unchanged at a P or a W. -/
def Line.atSymbol (x : Line) (p : Nat) : Line :=
  match x.expander.buffer[p]? with
  | none => { x with playPos := p, state := .alerting }
  | some .pause => { x with playPos := p }
  | some .wait => { x with playPos := p }
  | some _ => { x with playPos := p, state := .dialling, dialTone := false }

/-- The line `l` becomes `x`, in a new call state: LINE_STATE tells the change, without a cause (R82). -/
def State.entering (s : State) (l : LineNo) (x : Line) : State :=
  raise .lineState ([oct l.val, (s.line l).state.code, x.state.code] ++ eTime s.now ++ [0]) (s.setLine l x)

/-- A line that has heard a transmission it awaited and holds its answer for the turnaround (R96, R97): the timer stopped,
repeats 0, the detector DISARMED. -/
def Line.answering (x : Line) (h : Heard) (what : Sending) : Line :=
  { x with
    params := { x.params with repeats := 0, detector := .disarmed },
    proc := { x.proc with tx := .ready what, timer := false, incoming := false, lastIn := some h } }

/-- A line that begins to send (R96, R116). -/
def Line.sends (x : Line) (what : Sending) : Line :=
  { x with
    params := { x.params with detector := .disarmed },
    proc := { x.proc with tx := .sending what, octets := sendingOctets what, lastOut := some what, timer := false,
                          incoming := false } }

/-- A transmission that a line does not act on has ended (R95, R116): the detector DISARMED, and an answer held for this end
in its turnaround (R96; log 62). -/
def Line.receptionOver (x : Line) : Line :=
  let y : Line := { x with
    params := { x.params with detector := .disarmed }, proc := { x.proc with incoming := false } }
  match x.proc.heldAnswer with
  | none => y
  | some w => { y with proc := { y.proc with tx := .ready w, timer := false, storing := false, heldAnswer := none } }

/-- The row of the table by which line `l` receives a message. -/
def Msg.received (l : LineNo) : Msg → Instr
  | .offer identity rates orders chop cls => .offerReceived l identity rates orders chop cls
  | .choose identity rate order chop classes => .chooseReceived l identity rate order chop classes
  | .trainGood => .trainGoodReceived l
  | .trainBad => .trainBadReceived l
  | .blockEnd sequence block round count final => .blockEndReceived l sequence block round count final
  | .resend marks => .resendReceived l marks
  | .pageEnd sequence lineCount next => .pageEndReceived l sequence lineCount next
  | .pageGood => .pageGoodReceived l
  | .pageFailed => .pageFailedReceived l
  | .quit => .quitReceived l

/-- A listening side awaits the message in its present state and phase (R95): the OFFER and the CHOOSE in NEGOTIATING (R99,
R100), the answer to a burst, a BLOCK_END, a PAGE_END (R101, R105, R106, R111), the BLOCK_END of the block and round due and
the PAGE_END after the page's last block (R107, R110), and a QUIT once anything was sent or it receives (R112, R113; log 27).
While an answer waits on the store no BLOCK_END or PAGE_END is awaited (R108, R110). -/
def Line.awaits (x : Line) : Msg → Prop
  | .offer _ _ _ _ _ => x.state = .negotiating ∧ x.role = some .receiver
  | .choose _ _ _ _ _ => x.state = .negotiating ∧ x.role = some .sender ∧ x.proc.lastOut ≠ none
  | .trainGood | .trainBad => x.state = .training ∧ x.role = some .sender ∧ ∃ r, x.proc.lastOut = some (.burst r)
  | .resend _ => x.state = .sending ∧ x.role = some .sender ∧ ∃ a b c d e, x.proc.lastOut = some (.msg (.blockEnd a b c d e))
  | .blockEnd sequence block round _ _ =>
    x.state = .receiving ∧ sequence = x.params.pageSeq ∧ block = x.params.block ∧
      round = (match x.recv.answered with | none => 0 | some k => k + 1) ∧ x.recv.finalDone = false ∧
      x.proc.awaitQuit = none ∧ x.proc.storing = false
  | .pageEnd sequence _ _ =>
    x.state = .receiving ∧ sequence = x.params.pageSeq ∧ x.recv.finalDone = true ∧ x.proc.storing = false
  | .pageGood => x.state = .postPage ∧ x.role = some .sender
  | .pageFailed => x.role = some .sender ∧
      (x.state = .postPage ∨ x.state = .sending ∧ ∃ a b c d e, x.proc.lastOut = some (.msg (.blockEnd a b c d e)))
  | .quit => x.role = some .sender → x.proc.lastOut ≠ none

/-- A line that hears a message again which it has answered with `out` holds that answer for the turnaround, and does not act
on the message (R97; log 31). -/
def Line.answersAgain (x : Line) (out : Sending) : Line :=
  let y := x.receptionOver
  { y with proc := { y.proc with tx := .ready out, timer := false } }

/-- A line has formed the answer that waited on the store (R108 to R110): in its turnaround, or held with the detector as it
was while a transmission of the remote is in progress (R96, R116; log 62). -/
def AnswerFormed (w : Sending) (x y : Line) : Prop :=
  if x.proc.incoming then
    y.proc.tx = x.proc.tx ∧ y.proc.heldAnswer = some w ∧ y.proc.storing = true ∧ y.proc.incoming = true ∧
      y.params.detector = x.params.detector
  else
    y.proc.tx = .ready w ∧ y.proc.heldAnswer = x.proc.heldAnswer ∧ y.proc.storing = false ∧ y.proc.incoming = false ∧
      y.proc.timer = false ∧ y.params.detector = .disarmed

/-- The call of a line ends with a cause. -/
def Line.withCause (x : Line) (cause : Cause) : Line :=
  { x with call := x.call.map fun c => { c with cause := some cause } }

/-- A log record carries the figures of a charge. -/
def LogRecord.carries (r : LogRecord) (f : Figures) : Prop :=
  r.duration = f.duration ∧ r.computed = f.computed ∧ r.metered = f.metered ∧ r.units = f.units ∧ r.cost = f.cost

/-- A call `c` of line `l` has been released between `s` and `t` (R115): on hook in REST, the call and its attempt gone,
the cause kept, the record `r` at the log's end in the position reserved, with the figures of chapter 8. -/
def Released (l : LineNo) (c : CallRec) (cause : Cause) (r : LogRecord) (s t : State) : Prop :=
  (t.line l).state = .rest ∧ (t.line l).call = none ∧ (t.line l).attempt = none ∧ (t.line l).lastCause = some cause ∧
    (t.line l).params.detector = .disarmed ∧ (t.line l).config = (s.line l).config ∧ OtherLines l s t ∧
    t.log.records = s.log.records ++ [r] ∧ t.log.reserved = s.log.reserved - 1 ∧
    t.log.sequence = (s.log.sequence + 1) % 65536 ∧ r.sequence = s.log.sequence ∧ r.line = l ∧ r.out = c.out ∧
    r.start = c.start ∧ r.connect = c.connect ∧ r.release = s.now ∧ r.cause = cause ∧
    r.carries (callFigures s.charge s.cfg.tolerance (s.line l).charging c s.now) ∧ t.docs.passAsked = true

/-- Document `d` of slot `k` stands before `d'` of slot `k'` in the dispatcher's order (R55): by priority, then deadline,
then submission sequence as a distance, then slot. -/
def Doc.ahead (d : Doc) (k : Nat) (d' : Doc) (k' : Nat) : Prop :=
  d'.priority < d.priority ∨ d.priority = d'.priority ∧
    ((∃ t, d.deadline = some t ∧ (d'.deadline = none ∨ ∃ t', d'.deadline = some t' ∧ t.tenths < t'.tenths)) ∨
      (d.deadline.map DateTime.tenths = d'.deadline.map DateTime.tenths ∧
        let gap := ((d'.sequence : Int) - d.sequence) % 65536
        (1 ≤ gap ∧ gap ≤ 32767 ∨ (gap = 0 ∨ gap = 32768) ∧ k < k')))

/-- A page has been released (R15): its chain at the pool's tail, its slot FREE with the issue advanced, every other entry
as it was. -/
def PageReleased (h : PageHandle) (e : PageEntry) (s t : State) : Prop :=
  t.entry h.slot = .freeWith ((e.issue + 1) % 64) ∧ (∀ k, k ≠ h.slot → t.entry k = s.entry k) ∧
    t.store.pool.toList = s.store.pool.toList ++ e.chain

/-- The scan unit has given its current page up (R41, R43): the page's chain at the pool's tail, its slot FREE with the
issue advanced, the buffers empty, the sheet on its way out with END. -/
def SheetAbandoned (cause : ScanEnd) (h : PageHandle) (e : PageEntry) (s t : State) : Prop :=
  t.entry h.slot = .freeWith ((e.issue + 1) % 64) ∧ (∀ k, k ≠ h.slot → t.entry k = s.entry k) ∧
    t.store.pool.toList = s.store.pool.toList ++ e.chain ∧ t.scan.state = .ejecting ∧ t.scan.nextSheet = false ∧
    t.scan.endCause = cause ∧ t.scan.page = none ∧ t.scan.filling = [] ∧ t.scan.full = none ∧ t.scan.backlog = [] ∧
    t.scan.repeats = 0 ∧ t.scan.settings = s.scan.settings ∧ t.scan.pagesClosed = s.scan.pagesClosed ∧
    OnlyChanges [.store, .scan, .link, .docs] s t ∧ LinkRaises s t

/-- An entry has been made and placed (R127, R128): its number the first from the counter on that no entry holds, its place
after the last entry urgent or begun when it is urgent, the tail otherwise. -/
def EntryPlaced (job : PrintJob) (urgent : Bool) (r : Reception) (queue : List QueueEntry) (counter : Nat) : Prop :=
  ∃ n k front back, k ≤ 48 ∧ n = (r.entryCounter + k) % 65536 ∧ (∀ e ∈ r.queue, e.number ≠ n) ∧
    (∀ j, j < k → ∃ e ∈ r.queue, e.number = (r.entryCounter + j) % 65536) ∧ r.queue = front ++ back ∧
    (urgent = false ∧ back = [] ∨
      urgent = true ∧ (∀ e ∈ back, e.urgent = false ∧ e.begun = false) ∧
        (∀ e, front.getLast? = some e → e.urgent = true ∨ e.begun = true)) ∧
    queue = front ++ { number := n, job, urgent, begun := false } :: back ∧ counter = (n + 1) % 65536

/-- A document of first close order `x` in slot `k` waits before one of `y` in slot `j` (R127). -/
def waitsAhead (x k y j : Nat) : Prop :=
  let gap := ((y : Int) - x) % 65536
  1 ≤ gap ∧ gap ≤ 32767 ∨ (gap = 0 ∨ gap = 32768) ∧ k < j

/-- A page that a receiving line has closed has joined document `d`'s list, no longer in reception (R124): the first one
takes the close order, and auto-print places the document in the queue, or with 48 entries there in the wait list
(R128). A page whose reference was refused (`taken` false) joins no list (log 42). -/
def PageListed (h : InHandle) (d : InDoc) (p : PageHandle) (taken autoPrint : Bool) (r r' : Reception) : Prop :=
  let first : InDoc := { d with pages := [p], inPage := none, firstClose := some r.closeCounter }
  let counted : Reception := { r with closeCounter := (r.closeCounter + 1) % 65536 }
  if taken = false then r' = { r with docs := r.docs.set h.slot { d with inPage := none } }
  else if d.pages ≠ [] then r' = { r with docs := r.docs.set h.slot { d with pages := d.pages ++ [p], inPage := none } }
  else if autoPrint = false then r' = { counted with docs := r.docs.set h.slot first }
  else if r.queue.length < 48 then
    ∃ queue counter, EntryPlaced (.document h) d.urgent r queue counter ∧
      r' = { counted with
        docs := r.docs.set h.slot { first with printState := .queued }, queue, entryCounter := counter }
  else
    ∃ front back, r.waitList = front ++ back ∧
      r' = { counted with
        docs := r.docs.set h.slot { first with printState := .queueWait }, waitList := front ++ h :: back } ∧
      (∀ x ∈ front, ¬waitsAhead r.closeCounter h.slot (((r'.docs.get x.slot).firstClose).getD 0) x.slot) ∧
      ∀ x, back.head? = some x → waitsAhead r.closeCounter h.slot (((r'.docs.get x.slot).firstClose).getD 0) x.slot

/-- The engine is not in WAIT_PAGE for this document (R147). -/
def NotAwaited (h : InHandle) (s : State) : Prop :=
  s.engine.state ≠ .waitPage ∨
    ∃ n q, s.engine.entry = some n ∧ s.recept.entryNumbered n = some q ∧ q.job ≠ .document h

/-- The code of a page's lines, coded one after another, with the repeat that is pending at its end (R34, R38). -/
def codeLines (lines : List DotLine) : List Byte :=
  (flushRepeat (lines.foldl (fun u dots => codeLine dots u) Scan.reset)).backlog

/-- The lines that the print decoder places, the ring emptied as they come, and the faults it counts (R141). -/
def decodeLines (byteLen : Nat) : (fuel : Nat) → Engine → List DotLine × Nat
  | 0, e => ([], e.damaged)
  | fuel + 1, e =>
    if e.decoder.ended then ([], e.damaged)
    else match e.decoder.owed with
      | some (dots, n, faulty) =>
        let r := decodeLines byteLen fuel { placeLine dots n faulty e with ring := [] }
        (dots :: r.1, r.2)
      | none => match oneToken byteLen e with
        | none => ([], e.damaged)
        | some e' => decodeLines byteLen fuel e'

/-! ### Runs -/

/-- Commands and events taken one after another. -/
def execAll : List Instr → State → Outcome
  | [], s => .next s
  | i :: is, s => match exec i s with
    | .next t => execAll is t
    | .fault f => .fault f
    | .refused r => .refused r

/-! ### Invariants -/

/-- The host link's counts within their ranges (R206, R209, R211). -/
def Link.inRange (k : Link) : Prop :=
  k.mask ≤ 3 ∧ k.held.length ≤ 8 ∧ k.taken ≤ k.held.length ∧ k.notices.length ≤ 32 ∧ k.lost ≤ 255

/-- Every command taken and not yet answered on the line has its one reply in the queue, or is the one whose reply waits
on store transfers (R207, R208). -/
def Link.accounted (k : Link) : Prop := k.replies.length + (if k.job.isSome then 1 else 0) = k.taken

/-- The timekeeper's items within their ranges (10.1). -/
def Timekeeper.inRange (k : Timekeeper) : Prop :=
  k.time.valid = true ∧ k.stops ≤ 255 ∧ (∀ t, k.lastSet = some t → t.valid = true) ∧
    (∀ z, k.lastStep = some z → -31557599999 ≤ z ∧ z ≤ 31557599999)

/-- The host link, the timekeeper and the page memory are as the spec says they always are. -/
def State.sound (s : State) : Prop :=
  s.link.inRange ∧ s.link.accounted ∧ s.tk.inRange ∧ Memory.wf s.mem = true

/-- The segments of the page directory's chains, listed slots in order. -/
def Store.chained (t : Store) : List Nat := t.dir.cells.flatMap fun c => c.2.chain

/-- Each of the 8192 segments is in the pool or in the chain of one page that is OPEN or CLOSED, once (R1): the listed
slots ascend, a FREE entry has no segment, and pool and chains together are the numbers 0 to 8191. -/
def Store.accounted (t : Store) : Prop :=
  t.dir.cells.Pairwise (fun a b => a.1 < b.1) ∧ t.dir.rest.state = .free ∧ t.dir.rest.chain = [] ∧
    (∀ c ∈ t.dir.cells, c.2.state = .free → c.2.chain = []) ∧ (t.pool.toList ++ t.chained).Perm (List.range 8192)

end Sys2Proof.Machine
end

