-- ==== Sys2Proof/Certificates/Slice0/Obligations.lean ====
section
/-! DEFINITION. What is to be proved of the part, from the numbered rules of spec/. A command's statement supposes that the
part takes it (`State.takes`, R207), says the state and the reply it leaves, and with them all that stays as it was. -/

open Sys2Proof Sys2Proof.Machine

/-! ### The machine -/

/-- The command at the front of the queue is taken and acts on the part with the rest of the queue; with an empty queue
the part idles, and a tenth passes of the scan unit's own count of a hold (R40), up to 300; so the model counts it.
The model's choices it rests on: logs 4, 5. -/
def Obligations.StepTakesFrontCommand : Prop :=
  ∀ s : State,
    (∀ c rest, s.pending = c :: rest → step s = exec c { s with pending := rest }) ∧ (s.pending = [] →
      (s.power = false ∨ s.scan.state ≠ .held → step s = .next s) ∧
      (s.power = true → s.scan.state = .held →
        step s = .next { s with scan := { s.scan with holdTime := min 300 (s.scan.holdTime + 1) } }))

/-- No row stops the part, and none touches the queue of waiting commands: every refusal is a reply, every failure a
notice or a cause (1.4.3).
The model's choices it rests on: logs 1, 2, 3. -/
def Obligations.EveryRowCompletesKeepingQueue : Prop :=
  ∀ (i : Instr) (s : State), ∃ t, exec i s = .next t ∧ t.pending = s.pending

/-- Values that the spec gives for power-on (R1, R2, R25, R45, R46, R47, R74, R80, R93, R120, R127, R153, R175, R176,
R190, R200, R213, R215).
The model's choices it rests on: log 6. -/
def Obligations.ResetValues : Prop :=
  State.reset.store.pool.toList = List.range 8192 ∧
    (∀ k, (State.reset.store.dir.get k).state = .free ∧ (State.reset.store.dir.get k).issue = 0) ∧
    State.reset.scan.settings =
      { cls := .fine, mode := .text, offset := 16, gain := 72, rounding := .nearestEven, threshold := 128, target := none } ∧
    State.reset.scan.state = .idle ∧
    (∀ k, (State.reset.docs.docs.get k).state = .free) ∧ State.reset.docs.freeRecords = 2048 ∧
    (∀ k, State.reset.macros.get k = none) ∧
    (∀ l, (State.reset.line l).state = .idle ∧
      (State.reset.line l).config =
        { direction := .both, metered := false, restTime := 2, ringsToAnswer := 2, answerTimeout := 60 }) ∧
    (∀ k, (State.reset.recept.docs.get k).state = .free) ∧ State.reset.recept.queue = [] ∧
    State.reset.engine.entry = none ∧ State.reset.engine.ring = [] ∧
    State.reset.charge.defaultZone = none ∧ State.reset.charge.price = 1 ∧
    State.reset.charge.weekdays =
      [.workday, .workday, .workday, .workday, .workday, .saturday, .restDay] ∧
    (∀ k, State.reset.desks.get k =
      { cost := 0, units := 0, calls := 0, limit := none, reached := false, saturated := false }) ∧
    State.reset.log.records = [] ∧ State.reset.log.sequence = 0 ∧
    State.reset.now = ⟨2000, 1, 1, 0, 0, 0, 0⟩ ∧ State.reset.tk.valid = false ∧ State.reset.tk.suspect = true ∧
    State.reset.cfg =
      { identity := [], receptionReserve := 256, inboundReserve := 1, autoPrint := true, autoDiscard := false,
        strikeLimit := 432, tolerance := 2 } ∧
    State.reset.link.rate = .b115200 ∧ State.reset.link.mask = 0 ∧ State.reset.link.held = []

/-- The invariants below hold right after reset.
The model's choices it rests on: log 6. -/
def Obligations.InvariantsAtReset : Prop := State.reset.sound ∧ State.reset.store.accounted

/-- Every step keeps the host link's counts in range with one reply for each command taken, the timekeeper's items in
range, and the page memory in its canonical form.
The model's choices it rests on: log 7. -/
def Obligations.SoundnessKeptByEveryStep : Prop := ∀ s t : State, s.sound → step s = .next t → t.sound

/-- Every step keeps each of the 8192 segments in the pool or in the chain of exactly one page, once (R1). -/
def Obligations.SegmentsAccountedByEveryStep : Prop :=
  ∀ s t : State, s.store.accounted → step s = .next t → t.store.accounted

/-! ### The host link (chapter 11) -/

/-- A command is taken in the order of the receive buffer, one at a time (R207): while a reply waits to be formed no
command is taken; the oldest held frame not yet taken is the only one whose command is, its row acting on the part with
one more frame taken. Outside a frame an octet other than 0xA5 does nothing and 0xA5 begins a candidate (R204); an octet
without its stop bit, or 50 ms without an octet, fails the frame in receipt with its notice, and with no 0xA5 among its
octets after the start octet the receiver is HUNTING again with nothing kept (R205). A frame whose last octet leaves its
CRC wrong, and one whose length field is above 1040, fail with cause CRC or LENGTH; the octets after the start octet, an
0xA5 among them or not, are then examined again in order, as if they came one after another to a receiver in HUNTING.
The model's choices it rests on: logs 1, 2, 16, 17. -/
def Obligations.OctetsAndCommandsTaken : Prop :=
  (∀ (f : Frame) (s : State), s.power = true →
     (s.link.job.isSome → s.takes f = none) ∧
     (∀ g rest, s.link.job = none → s.link.held.drop s.link.taken = g :: rest →
       s.takes f = if g = f then some { s with link := { s.link with taken := s.link.taken + 1 } } else none)) ∧
  (∀ (o : Byte) (s : State), s.power = true →
     (s.link.candidate = [] →
       exec (.hostOctetReceived o true) s =
         .next (if o = 0xA5 then { s with link := { s.link with candidate := [0xA5] } } else s) ∧
       exec (.hostOctetReceived o false) s = .next s ∧ exec .frameGapExpiry s = .next s) ∧
     (∀ rest, s.link.candidate = 0xA5 :: rest → (0xA5 : Byte) ∉ rest →
       exec (.hostOctetReceived o false) s =
         .next { raise .linkCheck (linkCheckFields .framing (0xA5 :: rest)) s with
           link := { (raise .linkCheck (linkCheckFields .framing (0xA5 :: rest)) s).link with candidate := [] } } ∧
       exec .frameGapExpiry s =
         .next { raise .linkCheck (linkCheckFields .gap (0xA5 :: rest)) s with
           link := { (raise .linkCheck (linkCheckFields .gap (0xA5 :: rest)) s).link with candidate := [] } })) ∧
  ∀ s : State, s.power = true →
    let hunting : State := { s with link := { s.link with candidate := [] } }
    let again (octets : List Byte) : List Instr := octets.map fun o => .hostOctetReceived o true
    (∀ (f : Frame) (a b : Byte), f.body.length ≤ 1040 → [a, b] ≠ crcOctets f.covered →
      let taken := e16 f.body.length ++ [f.kind, f.tag] ++ f.body
      s.link.candidate = 0xA5 :: (taken ++ [a]) →
      exec (.hostOctetReceived b true) s = execAll (again (taken ++ [a, b]))
        (raise .linkCheck ([0, 1, f.kind, 1, f.tag] ++ e16 (f.body.length + 6)) hunting)) ∧
    ∀ n1 n0 : Byte, 1040 < 256 * n1.toNat + n0.toNat → s.link.candidate = [0xA5, n1] →
      exec (.hostOctetReceived n0 true) s = execAll (again [n1, n0]) (raise .linkCheck [1, 0, 0, 0, 2] hunting)

/-- The octets of a whole frame, received one after another from HUNTING, bring it into the receive buffer; where 8 are
held it is discarded with LINK_OVERRUN (R204, R206, R216). -/
def Obligations.HostFrameReceivedWhole : Prop :=
  ∀ (f : Frame) (s : State), s.power = true → s.link.candidate = [] → f.body.length ≤ 1040 →
    execAll (f.octets.map fun o => .hostOctetReceived o true) s =
      .next (if s.link.held.length < 8 then { s with link := { s.link with held := s.link.held ++ [f] } }
        else raise .linkOverrun [f.kind, f.tag, 8] s)

/-- The host's READY input follows the host; with it asserted and the transmitter free the oldest reply begins, or else
the head notice with the lost count, which returns to 0; a reply sent whole leaves with its command's frame, a notice
sent whole leaves the queue (R203, R208, R210). A LINK-RATE's new rate comes in as its reply has been sent (R202); a
frame in receipt then fails with cause FRAMING, its octets after the start octet are examined again in order, as if
they came one after another to a receiver in HUNTING, with one more octet without its stop bit: a frame they complete
joins, one that fails or stays unfinished has its notice, and nothing stays in receipt. That this comes after the held
frame has left, at the same moment, is the model's choice (log 41).
The model's choices it rests on: logs 2, 16, 17, 41. -/
def Obligations.LinkTransmits : Prop :=
  ∀ s : State, s.power = true →
    (∀ v, exec (.hostReadyChange v) s = .next { s with link := { s.link with hostReady := v } }) ∧
    (∀ r rest, s.link.tx = .free → s.link.hostReady = true → s.link.replies = r :: rest →
      exec .frameTransmitStart s = .next { s with link := { s.link with tx := .sendingReply r.frame.octets } }) ∧
    (∀ n rest, s.link.tx = .free → s.link.hostReady = true → s.link.replies = [] → s.link.notices = n :: rest →
      exec .frameTransmitStart s =
        .next { s with link := { s.link with tx := .sendingNotice (n.frame s.link.lost).octets, lost := 0 } }) ∧
    (s.link.hostReady = false → exec .frameTransmitStart s = .next s) ∧
    (∀ octets r rest, s.link.tx = .sendingReply octets → s.link.replies = r :: rest →
      (r.newRate = none ∨ r.newRate = some s.link.rate) →
      exec .replySent s = .next { s with link := { s.link with
        tx := .free, replies := rest, held := s.link.held.tail, taken := s.link.taken - 1 } }) ∧
    (∀ octets r rest rate, s.link.tx = .sendingReply octets → s.link.replies = r :: rest → r.newRate = some rate →
      s.link.candidate = [] →
      exec .replySent s = .next { s with link := { s.link with
        tx := .free, replies := rest, held := s.link.held.tail, taken := s.link.taken - 1, rate } }) ∧
    (∀ octets r rest rate o more, s.link.tx = .sendingReply octets → s.link.replies = r :: rest → r.newRate = some rate →
      rate ≠ s.link.rate → s.link.candidate = o :: more →
      let sent : State := { s with link := { s.link with
        tx := .free, replies := rest, held := s.link.held.tail, taken := s.link.taken - 1, rate } }
      let failed : State := raise .linkCheck (linkCheckFields .framing (o :: more)) sent
      ((0xA5 : Byte) ∉ more →
        exec .replySent s = .next { failed with link := { failed.link with candidate := [] } }) ∧
      exec .replySent s =
        execAll ((more.map fun x => .hostOctetReceived x true) ++ [.hostOctetReceived 0 false])
          { failed with link := { failed.link with candidate := [] } } ∧
      ∃ t new, exec .replySent s = .next t ∧ OnlyChanges [.link] s t ∧ t.link.candidate = [] ∧ t.link.tx = .free ∧
        t.link.replies = rest ∧ t.link.rate = rate ∧ t.link.held = s.link.held.tail ++ new ∧
        t.link.taken = s.link.taken - 1) ∧
    (∀ octets, s.link.tx = .sendingNotice octets →
      exec .noticeSent s = .next { s with link := { s.link with tx := .free, notices := s.link.notices.tail } })

/-- A notice below the mask level is discarded and counted nowhere; one that passes it is lost and counted, to 255, while
32 wait; any other is appended with the time and the time-suspect mark of its raising (R209). A kind that is no command
kind is answered UNKNOWN_KIND with kind 0xFE and nothing else (R207); NOTICE-MASK takes the mask clamped to 0-3 (R211);
LINK-RATE answers at the present rate and keeps it until the reply has been sent (R202); a body of another length, or a
code that names no rate, is refused. -/
def Obligations.NoticesAndLinkCommands : Prop :=
  (∀ (kind : NoticeKind) (fields : List Byte) (s : State),
     raise kind fields s =
       if kind.level < s.link.mask then s
       else if s.link.notices.length < 32 then
         { s with link := { s.link with
           notices := s.link.notices ++ [{ kind, time := s.tk.time, suspect := s.tk.suspect, fields }] } }
       else { s with link := { s.link with lost := min 255 (s.link.lost + 1) } }) ∧
  (∀ (kind tag c : Byte) (body : List Byte) (s s₁ : State),
     (s.takes ⟨kind, tag, body⟩ = some s₁ → isCommandKind kind = false →
       exec (.unknownKindCommand kind tag body) s = .next { s₁ with link := { s₁.link with
         replies := s₁.link.replies ++ [{ frame := ⟨0xFE, tag, [3]⟩, newRate := none }] } }) ∧
     (s.takes ⟨0x03, tag, [c]⟩ = some s₁ →
       exec (.noticeMask tag [c]) s = .next { s₁ with link := { s₁.link with
         mask := min 3 c.toNat,
         replies := s₁.link.replies ++
           [⟨⟨0x83, tag, [0, oct (min 3 c.toNat), oct s₁.link.notices.length, oct s₁.link.lost]⟩, none⟩] } }) ∧
     (s.takes ⟨0x02, tag, [c]⟩ = some s₁ → c.toNat < 4 →
       ∃ rate : HostRate, rate.code = c ∧
         exec (.linkRate tag [c]) s = .next { s₁ with link := { s₁.link with
           replies := s₁.link.replies ++ [{ frame := ⟨0x82, tag, [0, c]⟩, newRate := some rate }] } }) ∧
     (s.takes ⟨0x02, tag, [c]⟩ = some s₁ → 4 ≤ c.toNat → exec (.linkRate tag [c]) s = .next (refuse 0x02 tag .badField s₁)) ∧
     (s.takes ⟨0x02, tag, body⟩ = some s₁ → body.length ≠ 1 →
       exec (.linkRate tag body) s = .next (refuse 0x02 tag .badLength s₁)) ∧
     (s.takes ⟨0x03, tag, body⟩ = some s₁ → body.length ≠ 1 →
       exec (.noticeMask tag body) s = .next (refuse 0x03 tag .badLength s₁)))

/-- CONFIG-SET applies all its items in one event, the numeric ones clamped to their ranges, and its reply carries the
seven items as they then stand (R213); of the rest of the part only the reply, the notice STORE_LOW with its arming, a
held scan job's retry and a dispatcher pass asked for can change.
The model's choices it rests on: logs 13, 15, 24. -/
def Obligations.ConfigSetApplies : Prop :=
  (∀ (tag n : Byte) (r : List Byte) (items : List (Nat × List Byte)) (cfg : ConfigItems) (s s₁ : State),
    s.takes ⟨0x04, tag, n :: r⟩ = some s₁ → n ≠ 0 → readItems n.toNat r = .ok items → itemsOnce items = true →
      applyItems items s₁.cfg = some cfg →
      ∃ t, exec (.configSet tag (n :: r)) s = .next (reply 0x04 tag .ok (configFields cfg) t) ∧ t.cfg = cfg ∧
        (s₁.scan.state ≠ .held → OnlyChanges [.cfg, .link, .store, .docs] s₁ t ∧ LinkRaises s₁ t ∧
          t.store = { s₁.store with lowArmed := t.store.lowArmed } ∧
          t.docs = { s₁.docs with passAsked := t.docs.passAsked })) ∧
    ∀ (c : ConfigItems) (a b : Byte),
      applyItem c (2, [a, b]) = some { c with receptionReserve := min 2048 (256 * a.toNat + b.toNat) } ∧
      applyItem c (3, [a]) = some { c with inboundReserve := min 3 a.toNat } ∧
      applyItem c (6, [a, b]) = some { c with strikeLimit := max 216 (min 1728 (256 * a.toNat + b.toNat)) } ∧
      applyItem c (7, [a]) = some { c with tolerance := min 15 a.toNat }

/-! ### The timekeeper (chapter 10) -/

/-- A tenth counted with the main supplies on, from a crystal that runs or in FALLBACK, advances a valid time short of
the range's end by one tenth, carrying through second, minute, hour and calendar date (R191), and changes nothing else:
the hold time of a scan job is the scan unit's own count. Past 2099-12-31 23:59:59.9 the time becomes 2000-01-01
00:00:00.0: TIME_SUSPECT is set, the notice raised with cause RANGE, and every call in progress marked CLOCK_STEP
(R191). In CRYSTAL a crystal that has not started again gives no tenth (R192).
The model's choices it rests on: logs 12, 16, 29. -/
def Obligations.TenthCounted : Prop :=
  (∀ s : State, s.power = true → (s.tk.crystalRuns = true ∨ s.tk.source = .fallback) → s.now.valid = true →
     s.now ≠ ⟨2099, 12, 31, 23, 59, 59, 9⟩ →
     ∃ t : DateTime, t.valid = true ∧ t.tenths = s.now.tenths + 1 ∧
       exec .tenthCounted s = .next { s with tk := { s.tk with time := t } }) ∧
  (∀ s : State, s.power = true → s.tk.crystalRuns = false → s.tk.source = .crystal → exec .tenthCounted s = .next s) ∧
  (∀ s : State, s.power = true → (s.tk.crystalRuns = true ∨ s.tk.source = .fallback) →
     s.now = ⟨2099, 12, 31, 23, 59, 59, 9⟩ →
     ∃ t, exec .tenthCounted s = .next t ∧ t.tk = { s.tk with time := ⟨2000, 1, 1, 0, 0, 0, 0⟩, suspect := true } ∧
       t.link = (raise .timeSuspect ([1] ++ eTime ⟨2000, 1, 1, 0, 0, 0, 0⟩ ++ e8 s.tk.stops ++ eBool s.tk.suspect)
         { s with tk := t.tk }).link ∧
       (∀ l, t.line l =
         if (s.line l).state.inProgress then
           { s.line l with call := (s.line l).call.map fun c => { c with flags := { c.flags with clockStep := true } } }
         else s.line l) ∧
       OnlyChanges [.tk, .link, .lines] s t)

/-- With the main supplies off the time goes on with the crystal alone, stands still while it is stopped, the stop
setting the stall mark, and goes on when it starts again (R192); a backup supply that fails then is found at the next
power-on (R200). That the end of the range, passed with the supplies off, sets TIME_SUSPECT without the notice of cause
RANGE (R191) is the model's choice (log 58). With them on, 4 ms without an edge change CRYSTAL to FALLBACK, set
TIME_SUSPECT, count the stop and raise the notice, which tells whether the flag already stood; the crystal's return
brings CRYSTAL back without a notice and leaves TIME_SUSPECT (R193, R194).
The model's choices it rests on: logs 2, 12, 16, 29, 58. -/
def Obligations.CrystalAndSupplies : Prop :=
  (∀ s : State,
     (s.power = true → exec .mainSuppliesOff s = .next { s with power := false }) ∧
     (s.power = false → s.tk.crystalRuns = true → s.tk.lost = false →
       exec .tenthCounted s = .next { s with tk := { s.tk with time := s.now.tick.1, suspect := s.tk.suspect || s.now.tick.2 } }) ∧
     (s.power = false → s.tk.crystalRuns = true →
       exec .crystalStopUnpowered s = .next { s with tk := { s.tk with stallMark := true, crystalRuns := false } }) ∧
     (s.power = false → s.tk.crystalRuns = false → exec .tenthCounted s = .next s) ∧
     exec .crystalStartsAgain s = .next { s with tk := { s.tk with crystalRuns := true } } ∧
     (s.power = false → exec .backupSupplyFail s = .next { s with tk := { s.tk with lost := true } }) ∧
     (s.power = true → ∃ k, k.lost = true ∧ exec .backupSupplyFail s = .next { s with tk := k, draws := s.draws + 1 })) ∧
  (∀ s : State, s.power = true →
     (s.tk.source = .crystal →
       exec .crystalGapExpiry s = .next (raise .timeSuspect
         ([0] ++ eTime s.now ++ e8 (min 255 (s.tk.stops + 1)) ++ eBool s.tk.suspect)
         { s with tk := { s.tk with
           source := .fallback, suspect := true, stops := min 255 (s.tk.stops + 1), crystalRuns := false } })) ∧
     (s.tk.source = .fallback → exec .crystalGapExpiry s = .next s) ∧
     (s.tk.source = .fallback →
       exec .crystalReturn s = .next { s with tk := { s.tk with source := .crystal, crystalRuns := true } }))

/-- CLOCK-SET (R195, R196): with a date and time in range the time becomes the value given, valid yes, TIME_SUSPECT clear,
last set and last step recorded, every call in progress marked CLOCK_STEP, and the reply carries the times before and
after, the step, the calls marked and the source; out of range it is refused with BAD_FIELD and nothing changes. The
documents' deadline test follows against the new time (R63): of every QUEUED or ACTIVE document whose deadline it has
reached the WAITING and RETRY_WAIT destinations become EXPIRED and are counted, those ON_LINE and the final ones stay, and
with none ON_LINE the document ends, DONE or with cancel requested CANCELLED (R48), letting its pages go with RELEASE_PAGES
(R68); every other destination and document stays as it was. The documents, the store and the host link after the test are
those of `expireAll`, without RELEASE_PAGES the store is as it was and the link has gained notices alone. That the test
takes the documents by slot is the model's choice (log 55), and the dispatcher pass that it asks for is the model's form of
R196's retry test (logs 23, 24). A HELD scan then asks for its write again (R40, `scanRetry`); any other is left alone.
The model's choices it rests on: logs 13, 15, 23, 24, 55. -/
def Obligations.ClockSetSetsTheTime : Prop :=
  ∀ (tag y mo d h mi sec t : Byte) (s s₁ : State),
    s.takes ⟨0x58, tag, [y, mo, d, h, mi, sec, t]⟩ = some s₁ →
    let new := timeOf y mo d h mi sec t
    let step : Int := (new.tenths : Int) - (s₁.now.tenths : Int)
    (new.valid = false → exec (.clockSet tag [y, mo, d, h, mi, sec, t]) s = .next (refuse 0x58 tag .badField s₁)) ∧
    (new.valid = true →
      let mark (x : Line) : Line :=
        if x.state.inProgress then
          { x with call := x.call.map fun c => { c with flags := { c.flags with clockStep := true } } }
        else x
      let set : State := { s₁ with
        tk := { s₁.tk with time := new, valid := true, suspect := false, lastSet := some new, lastStep := some step }
        lines := ⟨mark s₁.lines.lc0, mark s₁.lines.lc1, mark s₁.lines.lc2, mark s₁.lines.lc3⟩ }
      let r : State := { expireAll set with docs := { (expireAll set).docs with passAsked := true } }
      let due (k : Nat) : Prop := k < 64 ∧
        ((s₁.docs.docs.get k).state = .queued ∨ (s₁.docs.docs.get k).state = .active) ∧
        ∃ x, (s₁.docs.docs.get k).deadline = some x ∧ x.tenths ≤ new.tenths
      exec (.clockSet tag [y, mo, d, h, mi, sec, t]) s = .next (reply 0x58 tag .ok
          (eTime s₁.now ++ eTime new ++ eStep step ++ e8 s₁.callsInProgress ++ [s₁.tk.source.code]) (scanRetry r)) ∧
        (s₁.scan.state ≠ .held → scanRetry r = r) ∧
        OnlyChanges [.tk, .lines, .docs, .store, .link] s₁ r ∧ r.tk = set.tk ∧ (∀ l, r.line l = mark (s₁.line l)) ∧
        r.docs.passAsked = true ∧ r.docs = { s₁.docs with docs := r.docs.docs, pool := r.docs.pool, passAsked := true } ∧
        (∀ q k, due k → q ∈ (s₁.docs.docs.get k).dests →
          r.dest q = (s₁.dest q).map fun x =>
            if x.state = .waiting ∨ x.state = .retryWait then { x with state := .expired } else x) ∧
        (∀ q, (∀ k, due k → q ∉ (s₁.docs.docs.get k).dests) → r.dest q = s₁.dest q) ∧
        (∀ k, ¬due k → r.docs.docs.get k = s₁.docs.docs.get k) ∧
        (∀ k, due k → (s₁.docs.docs.get k).dests.Nodup →
          (∀ j, due j → j ≠ k → ∀ q ∈ (s₁.docs.docs.get k).dests, q ∉ (s₁.docs.docs.get j).dests) →
          let d := s₁.docs.docs.get k
          let expired := s₁.countDests d fun st => decide (st = .waiting ∨ st = .retryWait)
          r.docs.docs.get k =
            if s₁.countDests d (fun st => decide (st = .onLine)) ≠ 0 then { d with expired := d.expired + expired }
            else { d with
              expired := d.expired + expired, state := if d.cancelReq then .cancelled else .done,
              pagesHeld := d.pagesHeld && !d.releasePages }) ∧
        ((∀ k, due k → (s₁.docs.docs.get k).releasePages = false) → r.store = s₁.store ∧ LinkRaises s₁ r))

/-- The calendar: the date so many days after 2000-01-01 is a valid one and counts those days, and the time so many
tenths on is valid and counts those tenths, through all of 2000-2099; 2000-01-01 is a Saturday and 2024-12-31 a Tuesday
(R191). Times and counts therefore stand for each other.
The model's choices it rests on: log 15. -/
def Obligations.CalendarRoundTrip : Prop :=
  (∀ n, n < 36525 → (dateOfDays n).valid = true ∧ (dateOfDays n).dayCount = n) ∧
    (∀ n, n < 31557600000 → (timeOfTenths n).valid = true ∧ (timeOfTenths n).tenths = n) ∧
    (∀ t : DateTime, t.valid = true → t.tenths < 31557600000 ∧ timeOfTenths t.tenths = t) ∧
    (⟨2000, 1, 1⟩ : Date).weekday = 5 ∧ (⟨2024, 12, 31⟩ : Date).weekday = 1 ∧ (⟨2024, 12, 31⟩ : Date).dayCount = 9131

/-! ### The page store (chapter 1) -/

/-- PAGE-OPEN-WRITE opens the lowest FREE slot for HOSTXFER with the class given, origin HOST and pin count 1, and
answers with the handle (R4, R19); two uploads open, no slot FREE, or a class that is none refuse it with nothing
changed. The order in which these are tested where several fail, the class first and then the two uploads, follows R19's
sentence and is the model's choice (log 13): R4 names TABLE_FULL first.
The model's choices it rests on: log 13. -/
def Obligations.HostUploadOpens : Prop :=
  ∀ (tag c : Byte) (s s₁ : State), s.takes ⟨0x10, tag, [c]⟩ = some s₁ →
    (∀ (cls : ResClass) (slot : Nat), c = oct (classIndex cls) → s₁.hostUploads < 2 → slot < 1024 →
      (s₁.entry slot).state = .free → (∀ k, k < slot → (s₁.entry k).state ≠ .free) →
      exec (.pageOpenWrite tag [c]) s = .next (reply 0x10 tag .ok (ePage ⟨slot, (s₁.entry slot).issue⟩)
        (s₁.setEntry slot { PageEntry.freeWith (s₁.entry slot).issue with
          state := .opened, origin := some .host, writer := some .hostXfer, cls, pins := 1 }))) ∧
    (c.toNat < 3 → 2 ≤ s₁.hostUploads → exec (.pageOpenWrite tag [c]) s = .next (refuse 0x10 tag .busy s₁)) ∧
    (c.toNat < 3 → s₁.hostUploads < 2 → (∀ k, k < 1024 → (s₁.entry k).state ≠ .free) →
      exec (.pageOpenWrite tag [c]) s = .next (refuse 0x10 tag .tableFull s₁)) ∧
    (3 ≤ c.toNat → exec (.pageOpenWrite tag [c]) s = .next (refuse 0x10 tag .badField s₁))

/-- PAGE-WRITE-DATA (R20): octets that leave fewer than 256 join the pending buffer and are all accepted; from 256 on
the first 256 are asked to be written as one store block and the reply waits, where the chain has a place left or the
allocation test passes for a new segment, the first of an upload with its chain empty among them (R5); a first block
that the test refuses, for the reserve or with PAGE_LIMIT at 2048 segments, is answered STORE_FULL with no octet
accepted and the pending buffer as it was.
The model's choices it rests on: logs 13, 15. -/
def Obligations.UploadGathersBlocks : Prop :=
  ∀ (tag a b : Byte) (data : List Byte) (e : PageEntry) (s s₁ : State),
    s.takes ⟨0x11, tag, a :: b :: data⟩ = some s₁ → data ≠ [] → data.length ≤ 1024 →
    s₁.page (pageOf a b) = some e → e.state = .opened → e.writer = some .hostXfer →
    (e.pending.length + data.length < 256 →
      exec (.pageWriteData tag (a :: b :: data)) s =
        .next (reply 0x11 tag .ok (e16 data.length ++ e32 (e.byteLen + (e.pending.length + data.length)))
          (s₁.setEntry (pageOf a b).slot { e with pending := e.pending ++ data }))) ∧
    (256 ≤ e.pending.length + data.length →
      (e.committed < 16 * e.chain.length ∨ e.chain.length < 2048 ∧ s₁.cfg.receptionReserve < s₁.freeCount) →
      exec (.pageWriteData tag (a :: b :: data)) s = .next { s₁ with
        store := { s₁.store with waiting := s₁.store.waiting ++
          [{ client := .hostXfer, level := 0, op := .write (pageOf a b) ((e.pending ++ data).take 256) none }] },
        link := { s₁.link with job := some (.writeData tag (pageOf a b) (e.pending ++ data) e.pending.length 0) } }) ∧
    (256 ≤ e.pending.length + data.length → 16 * e.chain.length ≤ e.committed →
      (s₁.freeCount ≤ s₁.cfg.receptionReserve ∨ 2048 ≤ e.chain.length) →
      exec (.pageWriteData tag (a :: b :: data)) s =
        .next (reply 0x11 tag .storeFull (e16 0 ++ e32 (e.byteLen + e.pending.length))
          (s₁.setEntry (pageOf a b).slot e)))

/-- PAGE-CLOSE (R9, R21): with nothing pending a pinned upload becomes CLOSED at once, its line count clamped,
PAGE_CLOSED raised, and the reply carries byte length, committed blocks and flags; with octets pending they are asked
to be written as the final block, followed by 0xCF and zeros, and the reply waits, where the chain has a place left or
the allocation test passes for a new segment; where the test refuses the final block, for the reserve or at 2048
segments, the page is closed at once with TRUNCATED (R5, R9). None of it is taken on a page not OPEN for HOSTXFER.
The model's choices it rests on: logs 10, 13, 15, 16. -/
def Obligations.UploadCloses : Prop :=
  ∀ (tag a b n1 n0 : Byte) (e : PageEntry) (s s₁ : State),
    s.takes ⟨0x12, tag, [a, b, n1, n0]⟩ = some s₁ → s₁.scan.state ≠ .held → s₁.page (pageOf a b) = some e →
    (e.state = .opened → e.writer = some .hostXfer → e.pending = [] → 0 < e.pins →
      exec (.pageClose tag [a, b, n1, n0]) s =
        .next (reply 0x12 tag .ok (e32 e.byteLen ++ e16 e.committed ++ [e.flagsOctet])
          (raise .pageClosed
            (pageClosedFields (pageOf a b) { e with lineCount := min 6912 (256 * n1.toNat + n0.toNat) })
            (s₁.setEntry (pageOf a b).slot { e with
              state := .closed, writer := none, lineCount := min 6912 (256 * n1.toNat + n0.toNat), pending := [] })))) ∧
    (e.state = .opened → e.writer = some .hostXfer → e.pending ≠ [] → e.pending.length < 256 →
      (e.committed < 16 * e.chain.length ∨ e.chain.length < 2048 ∧ s₁.cfg.receptionReserve < s₁.freeCount) →
      exec (.pageClose tag [a, b, n1, n0]) s = .next { s₁ with
        store := { s₁.store with waiting := s₁.store.waiting ++
          [{ client := .hostXfer, level := 0,
             op := .write (pageOf a b) (e.pending ++ 0xCF :: List.replicate (255 - e.pending.length) 0)
              (some { code := e.pending.length, lineCount := 256 * n1.toNat + n0.toNat, truncated := false,
                      hold := .none }) }] },
        link := { s₁.link with job := some (.closePage tag (pageOf a b)) } }) ∧
    (e.state = .opened → e.writer = some .hostXfer → e.pending ≠ [] → 16 * e.chain.length ≤ e.committed →
      (s₁.freeCount ≤ s₁.cfg.receptionReserve ∨ 2048 ≤ e.chain.length) → 0 < e.pins →
      let e' : PageEntry := { e with
        state := .closed, writer := none, lineCount := min 6912 (256 * n1.toNat + n0.toNat), truncated := true,
        pending := [] }
      exec (.pageClose tag [a, b, n1, n0]) s =
        .next (reply 0x12 tag .ok (e32 e.byteLen ++ e16 e.committed ++ [e'.flagsOctet])
          (raise .pageClosed (pageClosedFields (pageOf a b) e') (s₁.setEntry (pageOf a b).slot e')))) ∧
    (e.state ≠ .opened ∨ e.writer ≠ some .hostXfer →
      exec (.pageClose tag [a, b, n1, n0]) s = .next (refuse 0x12 tag .wrongState s₁))

/-- PAGE-READ of a CLOSED page asks for the first store block of its range, the count cut at the byte length, and its
reply waits; each block delivered short of the range's end is kept for the reply and the next one asked for, and the
last block's delivery forms the reply with the octets of the range as the memory holds them (R12, R22). An OPEN page, an
offset past the end and a count of 0 or above 1024 are refused. Every block read of a page that is still there is checked
against the check word beside it (R11), for PAGE-READ, for a sending line channel and for the print engine: on a mismatch
the page is DAMAGED, STORE_DAMAGE is raised the first time only with page and block, and the octets are delivered all the
same: told as damaged in PAGE-READ's reply, into the channel's transmit buffer, from which the frame that waited for them
is sent, and into the engine's stream, which the decoder goes on with, asking for the page's next block or ending the
page. A read whose reader has ended is checked likewise, and nothing of it is used (R17). What disturbs a block is the
step's operand.
The model's choices it rests on: logs 8, 9, 13, 15, 16, 38. -/
def Obligations.PageReadDelivers : Prop :=
  (∀ (tag a b o3 o2 o1 o0 n1 n0 : Byte) (e : PageEntry) (s s₁ : State),
    s.takes ⟨0x13, tag, [a, b, o3, o2, o1, o0, n1, n0]⟩ = some s₁ → s₁.page (pageOf a b) = some e →
    let offset := nat32 o3 o2 o1 o0
    let count := nat16 n1 n0
    (1 ≤ count → count ≤ 1024 → e.state = .closed → offset < e.byteLen → offset / 256 < e.committed →
      exec (.pageRead tag [a, b, o3, o2, o1, o0, n1, n0]) s = .next { s₁ with
        store := { s₁.store with waiting := s₁.store.waiting ++
          [{ client := .hostXfer, level := 0, op := .read (pageOf a b) (offset / 256) }] },
        link := { s₁.link with
          job := some (.readPage tag (pageOf a b) offset (min count (e.byteLen - offset)) (offset / 256) [] false) } }) ∧
    (1 ≤ count → count ≤ 1024 → e.state = .opened →
      exec (.pageRead tag [a, b, o3, o2, o1, o0, n1, n0]) s = .next (refuse 0x13 tag .wrongState s₁)) ∧
    (1 ≤ count → count ≤ 1024 → e.state = .closed → e.byteLen ≤ offset →
      exec (.pageRead tag [a, b, o3, o2, o1, o0, n1, n0]) s = .next (refuse 0x13 tag .badField s₁)) ∧
    (count = 0 ∨ 1024 < count →
      exec (.pageRead tag [a, b, o3, o2, o1, o0, n1, n0]) s = .next (refuse 0x13 tag .badLength s₁))) ∧
  ∀ (tag : Byte) (h : PageHandle) (e : PageEntry) (c : Client) (level addr k offset count next : Nat) (got : List Byte)
    (damaged : Bool) (disturbed : List (Nat × Byte)) (s : State),
    s.power = true → s.scan.state ≠ .held → s.page h = some e →
    let whole := disturb (Memory.readBlock s.mem addr ++ checkOctets (checkAt s.store.checks addr)) disturbed
    let matched : Bool := decide (disturbed = []) || Config.checkWord (whole.take 256) == wordOf (whole.drop 256)
    let marked : State := if matched || e.damaged then s
      else raise .storeDamage (ePage h ++ e16 k) (s.setEntry h.slot { e with damaged := true })
    (s.store.port = some { req := { client := .hostXfer, level, op := .read h k }, addr, void := false } →
      s.link.job = some (.readPage tag h offset count next got damaged) → offset + count ≤ 256 * (next + 1) →
      let data := ((got ++ whole.take 256).drop (offset % 256)).take count
      exec (.blockReadComplete disturbed) s =
        .next (reply 0x13 tag .ok (e16 data.length ++ data ++ eBool (damaged || !matched))
          { marked with store := { marked.store with port := none }, link := { marked.link with job := none } })) ∧
    (s.store.port = some { req := { client := .hostXfer, level, op := .read h k }, addr, void := false } →
      s.link.job = some (.readPage tag h offset count next got damaged) → 256 * (next + 1) < offset + count →
      e.state = .closed → next + 1 < e.committed →
      exec (.blockReadComplete disturbed) s = .next { marked with
        store := { marked.store with port := none, waiting := marked.store.waiting ++
          [{ client := .hostXfer, level := 0, op := .read h (next + 1) }] },
        link := { marked.link with
          job := some (.readPage tag h offset count (next + 1) (got ++ whole.take 256) (damaged || !matched)) } }) ∧
    (∀ (l : LineNo) (b : TxBuffer), let x := s.line l
      s.store.port = some { req := { client := .lc l, level, op := .read h k }, addr, void := false } →
      b.got.length < b.want →
      (x.send.buf0 = some b ∨ x.send.buf1 = some b ∧ ∀ b₀, x.send.buf0 = some b₀ → b₀.want ≤ b₀.got.length) →
      let filled : TxBuffer := { b with got := b.got ++ [whole.take 256] }
      let send : SendSide :=
        if x.send.buf0 = some b then { x.send with buf0 := some filled } else { x.send with buf1 := some filled }
      let y : Line := { x with send }
      ∃ t, exec (.blockReadComplete disturbed) s = .next t ∧
        (if x.send.buf0 = some b then (t.line l).send.buf0 = some filled else (t.line l).send.buf1 = some filled) ∧
        (∀ f part rest octets, x.send.filling = true → x.send.queue = (f, part) :: rest →
          y.frameData f part = some octets → (x.send.buf0 ≠ none ∨ x.send.fetch ≠ some (x.params.pagePos, x.send.block)) →
          (t.line l).send.filling = false ∧ (t.line l).proc.octets =
            inLineOrder x.params.order (pageFrame x.params.pageSeq x.params.block f part octets)) ∧
        t.link = marked.link ∧ t.store.dir = marked.store.dir ∧ t.store.port = none ∧ OtherLines l s t ∧
        OnlyChanges [.lines, .store, .link] s t) ∧
    (s.store.port = some { req := { client := .print, level, op := .read h k }, addr, void := false } →
      s.engine.page = some h → s.engine.stopped = false →
      let g := decodeOn e.byteLen { s.engine with decoder := { s.engine.decoder with
        delivered := s.engine.decoder.delivered + 1, stream := s.engine.decoder.stream ++ whole.take 256 } }
      let asks : Bool := !g.decoder.ended && decide (g.decoder.asked = g.decoder.delivered ∧
        g.decoder.asked < e.committed ∧ g.decoder.asked < g.decoder.decoded / 256 + 2)
      (g.decoder.ended = false ∨ g.ring ≠ [] →
        ∃ t, exec (.blockReadComplete disturbed) s = .next t ∧
          t.engine = { g with decoder := { g.decoder with
            asked := if asks then g.decoder.asked + 1 else g.decoder.asked } } ∧
          t.link = marked.link ∧ t.store.dir = marked.store.dir ∧ t.store.port = none ∧
          OnlyChanges [.engine, .store, .link] s t) ∧
      (g.decoder.ended = true → g.ring = [] → exec (.blockReadComplete disturbed) s =
        .next (nextPage (endPage h (withdraw .print
          { marked with engine := g, store := { marked.store with port := none } }))))) ∧
    (s.store.port = some { req := { client := c, level, op := .read h k }, addr, void := true } →
      (c = .hostXfer → s.link.job = none) →
      exec (.blockReadComplete disturbed) s = .next { marked with store := { marked.store with port := none } })

/-- The store port grants one waiting request: of the highest level present, the first client in the rotation LC0 to
LC3, SCAN, PRINT, HOSTXFER from the one after the last winner at that level, which it records (R16); its target block
is fixed, for a new segment block 0 of the pool's head (R7). With the port busy nothing is granted. A write whose
second allocation test fails, for the store or with PAGE_LIMIT at 2048 segments, is withdrawn and refused as at the
first (R5): an upload is answered STORE_FULL with the octets of earlier blocks accepted (R20), its final block closes
the page TRUNCATED (R21); a scanned block holds the job with SCAN_HELD (R40), at PAGE_LIMIT its page closes TRUNCATED
with the lines committed and the sheet is carried out (R42), and a final block refused for the store closes it
TRUNCATED (R9), the sensor then read as a free value (log 19); a line channel's write is the reception store failure,
with no reserve asked of it: its page closes TRUNCATED, counts and is listed, PAGE_FAILED is held with QUIT to follow,
the cause STORE_FULL, SEGMENTS (R109, R110), waiting for the end of a transmission in progress (R96; log 62).
The model's choices it rests on: logs 2, 10, 15, 16, 19, 42, 48, 62. -/
def Obligations.PortGrantsByLevelAndRotation : Prop :=
  ∀ s : State, s.power = true → s.scan.state ≠ .held →
    (s.store.port = none → s.store.waiting ≠ [] →
      (∀ r ∈ s.store.waiting, ∀ h data close, r.op = .write h data close →
        allocTest s (s.entry h.slot) r.client = .pass) →
      ∃ r ∈ s.store.waiting,
        (∀ q ∈ s.store.waiting, q.level ≤ r.level ∧
          (q.level = r.level → turnAfter (s.store.winners.get r.level) r.client ≤
            turnAfter (s.store.winners.get r.level) q.client)) ∧
        exec .storePortGrant s = .next { s with store := { s.store with
          waiting := s.store.waiting.filter fun q => decide (q.client ≠ r.client),
          port := some { req := r, addr := targetBlock s r.op, void := false },
          winners := s.store.winners.set r.level (some r.client) } }) ∧
    (s.store.port.isSome → exec .storePortGrant s = .next s) ∧
    (∀ h data close, (s.entry h.slot).committed = 16 * (s.entry h.slot).chain.length →
      targetBlock s (.write h data close) = 16 * (s.store.pool.toList.headD 0)) ∧
    ∀ (r : Request) (h : PageHandle) (data : List Byte) (close : Option CloseReq),
      s.store.port = none → s.store.pick = some r → r.op = .write h data close →
      let e := s.entry h.slot
      let dropped : Store :=
        { s.store with waiting := s.store.waiting.filter fun q => decide (q.client ≠ r.client) }
      16 * e.chain.length ≤ e.committed →
      (∀ tag left fromPending accepted, r.client = .hostXfer → close = none → s.page h = some e →
        (2048 ≤ e.chain.length ∨ s.freeCount ≤ s.cfg.receptionReserve) → s.link.job = some (.writeData tag h left fromPending accepted) →
        exec .storePortGrant s = .next (reply 0x11 tag .storeFull
          (e16 accepted ++ e32 (e.byteLen + (left.take fromPending).length))
          { s with
            store := { dropped with dir := s.store.dir.set h.slot { e with pending := left.take fromPending } },
            link := { s.link with job := none } })) ∧
      (∀ tag req, r.client = .hostXfer → close = some req → req.hold = .none → s.page h = some e → 0 < e.pins →
        (2048 ≤ e.chain.length ∨ s.freeCount ≤ s.cfg.receptionReserve) → s.link.job = some (.closePage tag h) →
        let e' : PageEntry := { e with
          state := .closed, writer := none, lineCount := min 6912 req.lineCount, truncated := true, pending := [] }
        exec .storePortGrant s = .next (reply 0x12 tag .ok (e32 e.byteLen ++ e16 e.committed ++ [e'.flagsOctet])
          (raise .pageClosed (pageClosedFields h e')
            { s with store := { dropped with dir := s.store.dir.set h.slot e' },
                     link := { s.link with job := none } }))) ∧
      (r.client = .scan → close = none → s.scan.state = .scanning → s.scan.page = some h → e.chain.length < 2048 →
        s.freeCount ≤ s.cfg.receptionReserve →
        exec .storePortGrant s =
          .next (raise .scanHeld (ePage h ++ e16 s.freeCount ++ e16 s.cfg.receptionReserve)
            { s with store := dropped, scan := { s.scan with state := .held, holdTime := 0 } })) ∧
      (r.client = .scan → s.scan.page = some h → s.page h = some e → s.scanTaker h = none →
        let spent : Scan := { s.scan.emptied with
          page := none, target := none, pagesClosed := min 65535 (s.scan.pagesClosed + 1) }
        let closed (lines : Nat) : PageEntry := { e with
          state := .closed, writer := none, lineCount := min 6912 lines, truncated := true, pending := [],
          pins := min 15 (e.pins + 1) }
        (2048 ≤ e.chain.length → (close = none ∨ close.isSome ∧ s.scan.ending.isSome) →
          ∃ t, exec .storePortGrant s = .next t ∧ t.entry h.slot = closed s.scan.committed ∧
            t.scan = { spent with state := .ejecting, nextSheet := true } ∧ t.store.waiting = dropped.waiting ∧
            (∀ k, k ≠ h.slot → t.entry k = s.entry k) ∧ OnlyChanges [.store, .scan, .link] s t ∧ LinkRaises s t) ∧
        ∀ req ending, close = some req → req.hold = .scanTarget → s.scan.ending = some ending → e.chain.length < 2048 →
          s.freeCount ≤ s.cfg.receptionReserve →
          (ending ≠ .trailingEdge →
            ∃ t, exec .storePortGrant s = .next t ∧ t.entry h.slot = closed req.lineCount ∧
              t.scan = { spent with state := .ejecting, nextSheet := true } ∧ t.store.waiting = dropped.waiting ∧
              (∀ k, k ≠ h.slot → t.entry k = s.entry k) ∧ OnlyChanges [.store, .scan, .link] s t ∧ LinkRaises s t) ∧
          (ending = .trailingEdge → (∀ k, k ≠ h.slot → (s.entry k).writer ≠ some .scan) →
            ∃ t, exec .storePortGrant s = .next t ∧ t.entry h.slot = closed req.lineCount ∧
              t.scan.paper = Config.paperAtGrant s.draws ∧ t.draws = s.draws + 1 ∧
              (t.scan.paper = false → t.scan = { spent with state := .idle, endCause := .empty, paper := false }) ∧
              (t.scan.paper = true → ∀ slot, slot < 1024 → (s.entry slot).state = .free →
                (∀ k, k < slot → (s.entry k).state ≠ .free) → t.scan.state = .scanning ∧
                  t.scan.page = some ⟨slot, (s.entry slot).issue⟩ ∧ t.scan.coded = 0 ∧ t.scan.committed = 0) ∧
              (∀ k, k ≠ h.slot → (s.entry k).state ≠ .free → t.entry k = s.entry k) ∧
              OnlyChanges [.store, .scan, .link, .draws] s t ∧ LinkRaises s t)) ∧
      ∀ l c g d lines, r.client = .lc l → (2048 ≤ e.chain.length ∨ s.freeCount = 0) →
        (close = none ∧ lines = 0 ∨ ∃ req, close = some req ∧ req.hold = .reference ∧ lines = min 6912 req.lineCount) →
        (s.line l).call = some c → c.inbound = some g → s.inDoc g = some d → d.inPage = some h → s.page h = some e →
        NotAwaited g s → s.recept.entryCounter < 65536 →
        ∃ t, exec .storePortGrant s = .next t ∧
          t.entry h.slot = { e with
            state := .closed, writer := none, lineCount := lines, truncated := true, refs := min 4095 (e.refs + 1),
            pending := [] } ∧
          PageListed g d h (decide (e.refs < 4095)) s.cfg.autoPrint s.recept t.recept ∧
          (t.line l).state = .releasing ∧ AnswerFormed (.msg .pageFailed) (s.line l) (t.line l) ∧
          (t.line l).proc.andThen = some .quit ∧ (t.line l).recv = .reset ∧
          (t.line l).call = some { c with cause := some (.storeFull .segments), pages := min 255 (c.pages + 1) } ∧
          t.store.waiting = dropped.waiting ∧ (∀ k, k ≠ h.slot → t.entry k = s.entry k) ∧ OtherLines l s t ∧
          OnlyChanges [.lines, .link, .store, .recept] s t ∧ LinkRaises s t

/-- A block write at the completion of its transfer (R7, R17). Whatever becomes of the block, its 256 octets stand in
the memory with their check word in the check area, and no other octet or check word changed. A live one commits: a new
segment leaves the pool's head for the chain's end, committed blocks advance by one and byte length by 256, in a final
block by its code octets. Then the writer goes on: an upload's last block forms the reply (R20) and its final block
closes the page and does so (R21); the scan unit's buffer is free, the lines that the page's code now holds are counted
and a hold ends (R35, R41), and octets that waited with both buffers full move on: a filled buffer is asked to be
written, which a STORE_FULL refusal turns into a hold (R40), and the line counts as coded with its last octet in a
buffer (R34, R35); a line channel asks for its next frame's write or, after the last, holds RESEND without marks
(R108), its round 0 again by the model's choice (log 54), waiting for the end of a transmission in progress (R96; log
62). One whose job has ended commits nothing (R8).
The model's choices it rests on: logs 8, 15, 16, 19, 20, 54, 62. -/
def Obligations.BlockWriteCommits : Prop :=
  ∀ (paper : Bool) (h : PageHandle) (client : Client) (level addr : Nat) (data : List Byte) (close : Option CloseReq)
    (void : Bool) (e : PageEntry) (s : State),
    s.power = true → Memory.wf s.mem = true → data.length = 256 → s.page h = some e →
    s.store.port = some { req := { client, level, op := .write h data close }, addr, void } →
    let grows : Bool := decide (16 * e.chain.length ≤ e.committed)
    let committed : PageEntry := { e with
      chain := if grows then e.chain ++ [s.store.pool.toList.headD 0] else e.chain,
      committed := e.committed + 1,
      byteLen := e.byteLen + (match close with | none => 256 | some req => req.code) }
    let moved (t : State) : Prop :=
      t.store.port = none ∧ (∀ k, k ≠ h.slot → t.entry k = s.entry k) ∧
      (∀ i, i < 256 → Memory.read t.mem (256 * addr + i) = data.getD i 0) ∧
      (∀ a, a < 256 * addr ∨ 256 * addr + 256 ≤ a → Memory.read t.mem a = Memory.read s.mem a) ∧
      checkAt t.store.checks addr = Config.checkWord data ∧
      ∀ k, k ≠ addr → checkAt t.store.checks k = checkAt s.store.checks k
    let taken (t : State) : Prop :=
      moved t ∧ t.store.pool.toList = if grows then s.store.pool.toList.tail else s.store.pool.toList
    (void = true → s.scan.state ≠ .held →
      ∃ t, exec (.blockWriteCommit paper) s = .next t ∧ moved t ∧
        t.store = { s.store with port := none, checks := t.store.checks } ∧ t.scan = { s.scan with paper } ∧
        OnlyChanges [.store, .mem, .scan] s t) ∧
    (void = false → (grows = true → s.store.pool.toList ≠ []) → e.state = .opened →
      (∀ (tag : Byte) (fromPending accepted : Nat) (left : List Byte), client = .hostXfer → close = none →
        s.scan.state ≠ .held → s.link.job = some (.writeData tag h left fromPending accepted) → left.length < 512 →
        ∃ t, exec (.blockWriteCommit paper) s = .next (reply 0x11 tag .ok
            (e16 (accepted + (256 - fromPending) + (left.length - 256)) ++ e32 (e.byteLen + 256 + (left.length - 256)))
            t) ∧
          taken t ∧ t.link.job = none ∧ t.entry h.slot = { committed with pending := left.drop 256 } ∧
          OnlyChanges [.store, .mem, .link, .scan] s t) ∧
      (∀ (tag : Byte) (req : CloseReq), client = .hostXfer → close = some req → s.scan.state ≠ .held →
        s.link.job = some (.closePage tag h) → req.hold = .none → 0 < e.pins →
        let closed : PageEntry := { committed with
          state := .closed, writer := none, lineCount := min 6912 req.lineCount,
          truncated := e.truncated || req.truncated, pending := [] }
        ∃ t, exec (.blockWriteCommit paper) s = .next (reply 0x12 tag .ok
            (e32 (e.byteLen + req.code) ++ e16 (e.committed + 1) ++ [closed.flagsOctet]) t) ∧
          taken t ∧ t.link.job = none ∧ t.entry h.slot = closed ∧ OnlyChanges [.store, .mem, .link, .scan] s t) ∧
      (client = .scan → close = none → (s.scan.state = .scanning ∨ s.scan.state = .held) → s.scan.backlog = [] →
        s.scan.lineWaits = false → s.scan.filling.length < 256 → s.scan.ending = none →
        let held := decide (s.scan.state = .held)
        let done := s.scan.marks.filter fun m => decide (m.1 ≤ e.byteLen + 256)
        ∃ t, exec (.blockWriteCommit paper) s = .next t ∧ taken t ∧ t.entry h.slot = committed ∧
          t.scan = { s.scan with
            full := none, committed := min 6912 (s.scan.committed + (done.map (·.2)).sum),
            marks := s.scan.marks.filter fun m => decide (e.byteLen + 256 < m.1), state := .scanning,
            holdTime := if held then 0 else s.scan.holdTime, paper } ∧
          OnlyChanges [.store, .mem, .link, .scan] s t ∧ LinkRaises s t) ∧
      (client = .scan → close = none → (s.scan.state = .scanning ∨ s.scan.state = .held) → s.scan.page = some h →
        s.scan.filling.length ≤ 256 → s.scan.ending = none →
        let u := s.scan
        let all := u.filling ++ u.backlog
        let free := s.freeCount - (if grows then 1 else 0)
        let on : Scan := { u with
          full := if all.length < 256 then none else some (all.take 256),
          filling := if all.length < 256 then all else (all.drop 256).take 256, backlog := all.drop 512,
          lineWaits := u.lineWaits && decide (512 < all.length),
          coded := if u.lineWaits = true ∧ all.length ≤ 512 then min 6912 (u.coded + 1) else u.coded,
          committed := min 6912 (u.committed + ((u.marks.filter fun m => decide (m.1 ≤ e.byteLen + 256)).map (·.2)).sum),
          marks := u.marks.filter fun m => decide (e.byteLen + 256 < m.1), state := .scanning,
          holdTime := if u.state = .held then 0 else u.holdTime, paper }
        (all.length < 256 ∨ e.committed + 1 < 16 * committed.chain.length ∨
            committed.chain.length < 2048 ∧ s.cfg.receptionReserve < free →
          ∃ t, exec (.blockWriteCommit paper) s = .next t ∧ taken t ∧ t.entry h.slot = committed ∧ t.scan = on ∧
            t.store.waiting = s.store.waiting ++
              (if all.length < 256 then [] else [{ client := .scan, level := 1, op := .write h (all.take 256) none }]) ∧
            OnlyChanges [.store, .mem, .link, .scan] s t ∧ LinkRaises s t) ∧
        (256 ≤ all.length → 16 * committed.chain.length ≤ e.committed + 1 → committed.chain.length < 2048 →
          free ≤ s.cfg.receptionReserve →
          ∃ t m, exec (.blockWriteCommit paper) s = .next t ∧ taken t ∧ t.entry h.slot = committed ∧
            t.scan = { on with state := .held, holdTime := 0 } ∧ t.store.waiting = s.store.waiting ∧ LinkRaises s m ∧
            t.link = (raise .scanHeld (ePage h ++ e16 free ++ e16 s.cfg.receptionReserve) m).link ∧
            OnlyChanges [.store, .mem, .link, .scan] s t)) ∧
      ∀ (l : LineNo) (rest : List (List Byte)), client = .lc l → close = none → s.scan.state ≠ .held →
        let x := s.line l
        x.recv.toWrite = data :: rest →
        (rest = [] →
          ∃ t, exec (.blockWriteCommit paper) s = .next t ∧ taken t ∧ t.entry h.slot = committed ∧
            t.line l = { x with
              recv := { x.recv with parts := [], answered := none, toWrite := [] },
              params := { x.params with
                block := (x.params.block + 1) % 256, round := 0,
                detector := if x.proc.incoming then x.params.detector else .disarmed },
              proc :=
                if x.proc.incoming then
                  { x.proc with storing := true, heldAnswer := some (.msg (.resend (marksOctets []))) }
                else
                  { x.proc with storing := false, tx := .ready (.msg (.resend (marksOctets []))), timer := false } } ∧
            OtherLines l s t ∧ OnlyChanges [.store, .mem, .link, .scan, .lines] s t ∧ LinkRaises s t) ∧
        ∀ next more c g d, rest = next :: more → x.call = some c → c.out = none → c.inbound = some g →
          s.inDoc g = some d → d.inPage = some h →
          (e.committed + 1 < 16 * committed.chain.length ∨
            committed.chain.length < 2048 ∧ 0 < s.freeCount - (if grows then 1 else 0)) →
          ∃ t, exec (.blockWriteCommit paper) s = .next t ∧ taken t ∧ t.entry h.slot = committed ∧
            t.line l = { x with recv := { x.recv with toWrite := rest }, proc := { x.proc with storing := true } } ∧
            t.store.waiting =
              s.store.waiting ++ [{ client := .lc l, level := 3, op := .write h next none }] ∧
            OtherLines l s t ∧ OnlyChanges [.store, .mem, .link, .scan, .lines] s t ∧ LinkRaises s t)

/-- PAGE-PIN raises the pin count to 15 at most, PAGE-UNPIN lowers it, PAGE-DROP clears it; the last hold gone, a
CLOSED page is released: its chain at the pool's tail, its entry FREE with the issue advanced (R14, R15). PAGE-DROP of
a page OPEN for HOSTXFER discards the upload: the page is FREE likewise without PAGE_CLOSED, its writes are aborted and
the documents that held it lose it from their lists (R10). The replies carry the counts after the command.
The model's choices it rests on: logs 15, 16. -/
def Obligations.PinsAndRelease : Prop :=
  ∀ (tag a b : Byte) (s s₁ : State),
    (s.takes ⟨0x15, tag, [a, b]⟩ = some s₁ → s₁.page (pageOf a b) = none →
      exec (.pagePin tag [a, b]) s = .next (refuse 0x15 tag .noSuchPage s₁)) ∧
    ∀ e, s₁.page (pageOf a b) = some e → s₁.scan.state ≠ .held →
      (s.takes ⟨0x15, tag, [a, b]⟩ = some s₁ → e.pins < 15 →
        exec (.pagePin tag [a, b]) s = .next (reply 0x15 tag .ok (e16 e.refs ++ e8 (e.pins + 1))
          (s₁.setEntry (pageOf a b).slot { e with pins := e.pins + 1 }))) ∧
      (s.takes ⟨0x15, tag, [a, b]⟩ = some s₁ → e.pins = 15 →
        exec (.pagePin tag [a, b]) s = .next (refuse 0x15 tag .tableFull s₁)) ∧
      (s.takes ⟨0x16, tag, [a, b]⟩ = some s₁ → e.pins = 0 →
        exec (.pageUnpin tag [a, b]) s = .next (refuse 0x16 tag .wrongState s₁)) ∧
      (s.takes ⟨0x16, tag, [a, b]⟩ = some s₁ → 0 < e.pins → e.state = .opened ∨ 0 < e.refs ∨ 2 ≤ e.pins →
        exec (.pageUnpin tag [a, b]) s = .next (reply 0x16 tag .ok (e16 e.refs ++ e8 (e.pins - 1) ++ eBool false)
          (s₁.setEntry (pageOf a b).slot { e with pins := e.pins - 1 }))) ∧
      (s.takes ⟨0x17, tag, [a, b]⟩ = some s₁ → e.state = .opened → e.writer = some .hostXfer →
        ∃ t, exec (.pageDrop tag [a, b]) s = .next (reply 0x17 tag .ok (e16 0 ++ e8 0 ++ eBool true) t) ∧
          t.entry (pageOf a b).slot = .freeWith ((e.issue + 1) % 64) ∧
          t.store.pool.toList = s₁.store.pool.toList ++ e.chain ∧
          (∀ k, k ≠ (pageOf a b).slot → t.entry k = s₁.entry k) ∧
          (∀ k, t.docs.docs.get k =
            if (s₁.docs.docs.get k).pagesHeld then
              { s₁.docs.docs.get k with
                pages := (s₁.docs.docs.get k).pages.filter fun p => decide (p ≠ pageOf a b) }
            else s₁.docs.docs.get k) ∧
          t.docs = { s₁.docs with docs := t.docs.docs } ∧ (∀ r ∈ t.store.waiting, r.op.page ≠ pageOf a b) ∧
          (∀ x, t.store.port = some x → x.req.op.page = pageOf a b → x.void = true) ∧
          OnlyChanges [.store, .link, .docs] s₁ t ∧ LinkRaises s₁ t) ∧
      (s.takes ⟨0x17, tag, [a, b]⟩ = some s₁ →
        (0 < e.refs ∧ e.state = .closed ∨ e.state = .opened ∧ e.writer ≠ some .hostXfer) →
        exec (.pageDrop tag [a, b]) s = .next (reply 0x17 tag .ok (e16 e.refs ++ e8 0 ++ eBool false)
          (s₁.setEntry (pageOf a b).slot { e with pins := 0 }))) ∧
      ∀ kind i, (kind = (0x16 : Byte) ∧ i = Instr.pageUnpin tag [a, b] ∧ e.pins = 1 ∨
          kind = 0x17 ∧ i = .pageDrop tag [a, b]) →
        s.takes ⟨kind, tag, [a, b]⟩ = some s₁ → e.state = .closed → e.refs = 0 →
        ∃ t, exec i s = .next (reply kind tag .ok (e16 0 ++ e8 0 ++ eBool true) t) ∧
          t.entry (pageOf a b).slot = .freeWith ((e.issue + 1) % 64) ∧
          t.store.pool.toList = s₁.store.pool.toList ++ e.chain ∧
          (∀ k, k ≠ (pageOf a b).slot → t.entry k = s₁.entry k) ∧ OnlyChanges [.store, .link] s₁ t ∧ LinkRaises s₁ t

/-! ### Scanning and the page code (chapter 2) -/

/-- SCAN-SET in IDLE takes every setting, offset, gain and threshold clamped, and answers with the values applied; a
class, mode or rounding outside its set is refused with BAD_FIELD and a scan unit not IDLE with BUSY (R25). Of the part
only the settings and the reply change.
The model's choices it rests on: logs 13, 15. -/
def Obligations.ScanSettingsApplied : Prop :=
  ∀ (tag c m b k r t : Byte) (s s₁ : State), s.takes ⟨0x20, tag, [c, m, b, k, r, t, 0]⟩ = some s₁ →
    (c.toNat < 3 → m.toNat < 2 → r.toNat < 2 → s₁.scan.state = .idle →
      ∃ settings : ScanSettings,
        exec (.scanSet tag [c, m, b, k, r, t, 0]) s = .next (reply 0x20 tag .ok
          [c, m, oct settings.offset, oct settings.gain, r, oct settings.threshold, 0]
          { s₁ with scan := { s₁.scan with settings } }) ∧
        classIndex settings.cls = c.toNat ∧ settings.mode.code = m ∧ settings.rounding.code = r ∧
        settings.offset = min 127 b.toNat ∧ settings.gain = max 16 k.toNat ∧ settings.threshold = max 1 t.toNat ∧
        settings.target = none) ∧
    (c.toNat < 3 → m.toNat < 2 → r.toNat < 2 → s₁.scan.state ≠ .idle →
      exec (.scanSet tag [c, m, b, k, r, t, 0]) s = .next (refuse 0x20 tag .busy s₁)) ∧
    (3 ≤ c.toNat ∨ 2 ≤ m.toNat ∨ 2 ≤ r.toNat →
      exec (.scanSet tag [c, m, b, k, r, t, 0]) s = .next (refuse 0x20 tag .badField s₁))

/-- From samples to dots (R28 to R31): dot j takes sample 32j/27 rounded down; its density value is (g - b) k / 64 rounded
down, or to the nearest with ties to the even, then clamped to 0-255; in TEXT the dot is black below the threshold, in
HALFTONE the carry runs along the line from 0. A line with a clamped dot clips. -/
def Obligations.DotsFromSamples : Prop :=
  ∀ (c : ScanSettings) (samples : List Byte), samples.length = 2048 →
    ∃ v e : Nat → Int,
      (∀ j, j < 1728 →
        let p : Int := (((samples.getD (32 * j / 27) 0).toNat : Int) - c.offset) * c.gain
        (c.rounding = .floor → 64 * v j ≤ p ∧ p < 64 * v j + 64) ∧
        (c.rounding = .nearestEven →
          p - 32 ≤ 64 * v j ∧ 64 * v j ≤ p + 32 ∧ ((64 * v j = p - 32 ∨ 64 * v j = p + 32) → v j % 2 = 0))) ∧
      (lineClips c samples = true ↔ ∃ j, j < 1728 ∧ (v j < 0 ∨ 255 < v j)) ∧
      (reduceLine c samples).length = 1728 ∧
      (c.mode = .text → ∀ j, j < 1728 →
        (reduceLine c samples)[j]? = some (decide (max 0 (min 255 (v j)) < (c.threshold : Int)))) ∧
      (c.mode = .halftone → e 0 = 0 ∧ ∀ j, j < 1728 →
        let w := max 0 (min 255 (v j)) + e j
        (reduceLine c samples)[j]? = some (decide (w < 128)) ∧
          e (j + 1) = max (-255) (min 255 (if w < 128 then w else w - 255)))

/-- The page code carries a page whole (R34, R141): the lines that the scan unit codes, all-white lines, repeats and runs,
come out of the print decoder again, every one and in order, with no fault counted. And what every token gives, whatever
the code (R141): a run lengthens the line begun and completes it at 1728 dots; one that goes past is cut there, and the
line counts as damaged. A control token or the code's end on a line begun pads it white, completes it as damaged, and the
token acts afterwards; an undefined token pads the line begun, or gives a white line, damaged. A repeat without a previous
line gives white lines, each damaged; with one, copies, repaired or not, which count nothing. The page ends at the code's
end, at 0xCF, and at its 6912th line, past which nothing is decoded or counted. That the lone first octet of a two-octet
run gives a white line where none is begun is the model's choice (log 33).
The model's choices it rests on: log 33. -/
def Obligations.PageCodeRoundTrip : Prop :=
  (∀ lines : List DotLine, (∀ l ∈ lines, l.length = 1728) → lines.length ≤ 6912 →
    ∃ fuel, ∀ more, decodeLines (codeLines lines).length (fuel + more)
      { Engine.reset with decoder := { Decoder.reset with stream := codeLines lines } } = (lines, 0)) ∧
  ∀ (byteLen k : Nat) (e : Engine), e.decoder.ended = false → e.decoder.owed = none → e.decoder.lines < 6912 →
    let left := byteLen - e.decoder.decoded
    let code := e.decoder.stream
    let begun := e.decoder.line.isSome = true
    let b := (e.decoder.line.getD ([], false)).1
    let c := (e.decoder.line.getD ([], false)).2
    let white := List.replicate (1728 - b.length) false
    let run (len : Nat) : Prop :=
      (1 ≤ left ∧ k = 1 ∧ ∃ o rest, code = o :: rest ∧ o < 0x80 ∧ len = o.toNat) ∨
      (2 ≤ left ∧ k = 2 ∧ ∃ o p rest, code = o :: p :: rest ∧ 0x80 ≤ o ∧ o < 0xC0 ∧ len = (o.toNat - 128) * 256 + p.toNat)
    let ends : Prop := left = 0 ∧ k = 0 ∨ 1 ≤ left ∧ k = 1 ∧ ∃ rest, code = 0xCF :: rest
    let repeats (n : Nat) : Prop :=
      (1 ≤ left ∧ k = 1 ∧ n = 1 ∧ ∃ rest, code = 0xC1 :: rest) ∨
      (2 ≤ left ∧ k = 2 ∧ ∃ p rest, code = 0xC2 :: p :: rest ∧ p ≠ 0 ∧ n = p.toNat)
    let allWhite : Prop := 1 ≤ left ∧ k = 1 ∧ ∃ rest, code = 0xC3 :: rest
    let undefined : Prop :=
      (1 ≤ left ∧ k = 1 ∧ ∃ o rest, code = o :: rest ∧ (o = 0xC0 ∨ 0xC4 ≤ o ∧ o ≤ 0xCE ∨ 0xD0 ≤ o)) ∨
      (2 ≤ left ∧ k = 2 ∧ ∃ rest, code = 0xC2 :: 0 :: rest) ∨
      (left = 1 ∧ k = 1 ∧ ∃ o rest, code = o :: rest ∧ (o = 0xC2 ∨ 0x80 ≤ o ∧ o < 0xC0))
    let gives (took n : Nat) (faulty : Bool) (dots : DotLine) : Prop :=
      let m := min n (6912 - e.decoder.lines)
      ∃ e', e'.decoder = { e.decoder with
            stream := code.drop took, decoded := e.decoder.decoded + took, line := none, previous := some dots,
            lines := e.decoder.lines + m, ended := decide (e.decoder.lines + m = 6912) } ∧
        e'.damaged = (if faulty then min 6912 (e.damaged + m) else e.damaged) ∧
        ∀ fuel, decodeLines byteLen (fuel + m + 1) e =
          (List.replicate m dots ++ (decodeLines byteLen fuel e').1, (decodeLines byteLen fuel e').2)
    (∀ len, run len → b.length + len < 1728 → ∀ fuel,
      decodeLines byteLen (fuel + 1) e = decodeLines byteLen fuel { e with decoder := { e.decoder with
        stream := code.drop k, decoded := e.decoder.decoded + k, line := some (b ++ List.replicate len c, !c) } }) ∧
    (∀ len, run len → b.length + len = 1728 → gives k 1 false (b ++ List.replicate len c)) ∧
    (∀ len, run len → 1728 < b.length + len → gives k 1 true (b ++ List.replicate (1728 - b.length) c)) ∧
    (begun → (ends ∨ allWhite ∨ ∃ n, repeats n) → gives 0 1 true (b ++ white)) ∧
    (undefined → gives k 1 true (b ++ white)) ∧
    (¬begun → ends → ∀ fuel, decodeLines byteLen (fuel + 1) e = ([], e.damaged)) ∧
    (¬begun → allWhite → gives k 1 false white) ∧
    (∀ n, ¬begun → repeats n → e.decoder.previous = none → gives k n true white) ∧
    (∀ n dots, ¬begun → repeats n → e.decoder.previous = some dots → gives k n false dots)

/-- SCAN-START in IDLE with a sheet present and a slot FREE opens the lowest one for the job's class, sets the job
record and the page's counts to their first values, enters SCANNING and answers with the page's handle; a running job
or an empty feeder refuses it (R36, R37). SCAN-STOP and the hold's 30 s give the current page up: its chain at the
pool's tail, its slot FREE, the buffers empty, the sheet carried out with END, the cause STOPPED or STORE_FULL,
SCAN_ABORTED only for the second (R41, R43); short of 300 tenths the hold goes on. In EJECTING SCAN-STOP turns
NEXT_SHEET into END; in IDLE it is refused. A sheet that has left the feeder ends the job, with EMPTY where no next one
is found; with NEXT_SHEET and a sheet present the lowest FREE slot is opened for it, and with no slot FREE the job ends
with DIRECTORY_FULL and SCAN_ABORTED (R37, R42). A HELD job asks its full buffer's write again after the release of a
page, here by PAGE-DROP, that lets the allocation test pass, and stays HELD until it commits (R40).
The model's choices it rests on: logs 2, 5, 15, 16, 19, 21, 45. -/
def Obligations.ScanJobStartsAndEnds : Prop :=
  (∀ (tag : Byte) (slot : Nat) (s s₁ : State), s.takes ⟨0x21, tag, []⟩ = some s₁ →
     (s₁.scan.state = .idle → s₁.scan.settings.target = none → Client.scan.holdsOpen s₁ = false → slot < 1024 →
       (s₁.entry slot).state = .free → (∀ k, k < slot → (s₁.entry k).state ≠ .free) →
       exec (.scanStart tag [] true) s = .next (reply 0x21 tag .ok (ePage ⟨slot, (s₁.entry slot).issue⟩)
         { s₁.setEntry slot { PageEntry.freeWith (s₁.entry slot).issue with
             state := .opened, origin := some .scan, writer := some .scan, cls := s₁.scan.settings.cls } with
           scan := { Scan.reset with
             settings := s₁.scan.settings, state := .scanning, page := some ⟨slot, (s₁.entry slot).issue⟩,
             nextSheet := s₁.scan.nextSheet, samples := s₁.scan.samples, paper := true } })) ∧
     (∀ paper, s₁.scan.state ≠ .idle →
       exec (.scanStart tag [] paper) s =
         .next (refuse 0x21 tag .busy { s₁ with scan := { s₁.scan with paper } })) ∧
     (s₁.scan.state = .idle → s₁.scan.settings.target = none →
       exec (.scanStart tag [] false) s =
         .next (refuse 0x21 tag .noPaper { s₁ with scan := { s₁.scan with paper := false } }))) ∧
  ((∀ (tag : Byte) (s s₁ : State), s.takes ⟨0x22, tag, []⟩ = some s₁ →
     (s₁.scan.state = .idle → exec (.scanStop tag []) s = .next (refuse 0x22 tag .wrongState s₁)) ∧
     (s₁.scan.state = .ejecting → s₁.scan.nextSheet = true →
       exec (.scanStop tag []) s = .next (reply 0x22 tag .ok []
         { s₁ with scan := { s₁.scan with nextSheet := false, endCause := .stopped } })) ∧
     (s₁.scan.state = .ejecting → s₁.scan.nextSheet = false →
       exec (.scanStop tag []) s = .next (reply 0x22 tag .ok [] s₁)) ∧
     ∀ h e, (s₁.scan.state = .scanning ∨ s₁.scan.state = .held) → s₁.scan.page = some h → s₁.page h = some e →
       ∃ t, exec (.scanStop tag []) s = .next (reply 0x22 tag .ok [] t) ∧ SheetAbandoned .stopped h e s₁ t) ∧
   (∀ (h : PageHandle) (e : PageEntry) (s : State), s.power = true → s.scan.state = .held → s.scan.page = some h →
     s.scan.holdTime = 300 → s.page h = some e → s.link.job = none →
     ∃ t, exec .scanHoldTimeout s =
         .next (raise .scanAborted ([3, 1] ++ ePage h ++ e16 s.scan.pagesClosed) t) ∧
       SheetAbandoned .storeFull h e s t) ∧
   (∀ s : State, s.power = true → (s.scan.state ≠ .held ∨ s.scan.holdTime ≠ 300) → exec .scanHoldTimeout s = .next s) ∧
   (∀ (tag a b : Byte) (h : PageHandle) (e p : PageEntry) (data : List Byte) (s s₁ : State),
     s.takes ⟨0x17, tag, [a, b]⟩ = some s₁ → s₁.scan.state = .held → s₁.outstanding .scan = false →
     s₁.scan.page = some h → s₁.page h = some e → e.state = .opened → s₁.scan.full = some data →
     e.chain.length < 2048 → s₁.page (pageOf a b) = some p → p.state = .closed → p.refs = 0 →
     s₁.cfg.receptionReserve < s₁.freeCount + p.chain.length →
     ∃ t, exec (.pageDrop tag [a, b]) s = .next (reply 0x17 tag .ok (e16 0 ++ e8 0 ++ eBool true) t) ∧
       { client := .scan, level := 1, op := .write h data none } ∈ t.store.waiting ∧ t.scan = s₁.scan ∧
       t.entry h.slot = e ∧ t.store.pool.toList = s₁.store.pool.toList ++ p.chain ∧
       OnlyChanges [.store, .link] s₁ t ∧ LinkRaises s₁ t) ∧
   ∀ s : State, s.power = true → s.scan.state = .ejecting →
     (s.scan.nextSheet = true → (∀ k, k < 1024 → (s.entry k).state ≠ .free) →
       exec (.ejectionComplete true) s =
         .next (raise .scanAborted (ScanEnd.directoryFull.code :: 0 :: e16 s.scan.pagesClosed)
           { s with scan := { s.scan with state := .idle, endCause := .directoryFull, paper := true } })) ∧
     (∀ slot, s.scan.nextSheet = true → Client.scan.holdsOpen s = false → slot < 1024 →
       (s.entry slot).state = .free → (∀ k, k < slot → (s.entry k).state ≠ .free) →
       exec (.ejectionComplete true) s = .next
         { s.setEntry slot { PageEntry.freeWith (s.entry slot).issue with
             state := .opened, origin := some .scan, writer := some .scan, cls := s.scan.settings.cls } with
           scan := { s.scan.emptied with
             page := some ⟨slot, (s.entry slot).issue⟩, coded := 0, committed := 0, state := .scanning,
             paper := true } }) ∧
     (∀ paper, s.scan.nextSheet = false →
       exec (.ejectionComplete paper) s = .next { s with scan := { s.scan with state := .idle, paper } }) ∧
     (s.scan.nextSheet = true →
       exec (.ejectionComplete false) s =
         .next { s with scan := { s.scan with state := .idle, endCause := .empty, paper := false } }))

/-- One step of the feeder (R26, R34): between capture steps it only counts; at a capture step the line is reduced and
coded into the filling buffer: an all-white line as 0xC3, a line equal to the one before as one more pending repeat
(0xC2 0xFF at 255), any other as its runs, a pending repeat written first. Clamping marks the page CLIPPED (R29). A
line that fills the buffer makes it the full one, whose block is asked to be written; the octets left go into the other
buffer, those past it wait, and the line counts as coded with its last octet in a buffer (R34, R35); where the other
buffer has not been written yet, the octets past the filling one wait, and while octets wait the feeder makes no step
and captures nothing (R26, R35). A write refused STORE_FULL holds the job with SCAN_HELD (R40); refused at 2048
segments it closes the page TRUNCATED and the sheet is carried out (R42): loose with a pin, at 15 pins or where 4095
references keep it off the target's list by the model's choice (log 42).
The model's choices it rests on: logs 10, 16, 19, 42. -/
def Obligations.FeederStepCodesLine : Prop :=
  (∀ (samples : List Byte) (paper : Bool) (s : State), s.power = true → s.scan.state ≠ .held →
    s.scan.backlog ≠ [] ∨ s.scan.state ≠ .scanning →
    exec (.feederStep samples paper) s = .next { s with scan := { s.scan with paper } }) ∧
  ∀ (samples : List Byte) (paper : Bool) (h : PageHandle) (s : State),
    s.power = true → s.scan.state = .scanning → s.scan.page = some h → s.scan.backlog = [] → s.scan.lineWaits = false →
    s.scan.ending = none → s.scan.endStep ≠ some s.scan.step → s.scan.step < 6912 →
    let u := s.scan
    let dots := reduceLine u.settings samples
    let s' := if lineClips u.settings samples then s.setEntry h.slot { s.entry h.slot with clipped := true } else s
    let pendingRepeat : List Byte :=
      if u.repeats = 0 then [] else if u.repeats = 1 then [0xC1] else [0xC2, oct u.repeats]
    let white := dots.all fun d => !d
    let code : List Byte :=
      if white then pendingRepeat ++ [0xC3]
      else if u.previous = some dots then (if u.repeats < 255 then [] else [0xC2, 0xFF])
      else pendingRepeat ++ runsCode dots
    let repeats := if white = false ∧ u.previous = some dots then (if u.repeats < 255 then u.repeats + 1 else 1) else 0
    (u.step % captureStride u.settings.cls ≠ 0 →
      exec (.feederStep samples paper) s = .next { s with scan := { u with step := u.step + 1, paper } }) ∧
    (u.step % captureStride u.settings.cls = 0 → u.filling.length + code.length < 256 →
      ∃ marks codeLen, exec (.feederStep samples paper) s = .next { s' with scan := { u with
        step := u.step + 1, paper, samples, previous := some dots, filling := u.filling ++ code, repeats,
        coded := min 6912 (u.coded + 1), marks, codeLen } }) ∧
    (u.step % captureStride u.settings.cls = 0 → u.filling.length ≤ 256 → u.full ≠ none →
      let all := u.filling ++ code
      ∃ marks codeLen, exec (.feederStep samples paper) s = .next { s' with scan := { u with
        step := u.step + 1, paper, samples, previous := some dots, filling := all.take 256, backlog := all.drop 256,
        lineWaits := decide (256 < all.length), repeats,
        coded := if all.length ≤ 256 then min 6912 (u.coded + 1) else u.coded, marks, codeLen } }) ∧
    (u.step % captureStride u.settings.cls = 0 → u.filling.length < 256 → 256 ≤ u.filling.length + code.length →
      u.full = none →
      let all := u.filling ++ code
      let e := s.entry h.slot
      let filled (marks : List (Nat × Nat)) (codeLen : Nat) : Scan := { u with
        step := u.step + 1, paper, samples, previous := some dots, full := some (all.take 256),
        filling := (all.drop 256).take 256, backlog := all.drop 512, lineWaits := decide (512 < all.length), repeats,
        coded := if all.length ≤ 512 then min 6912 (u.coded + 1) else u.coded, marks, codeLen }
      ((e.committed < 16 * e.chain.length ∨ e.chain.length < 2048 ∧ s.cfg.receptionReserve < s.freeCount) →
        ∃ marks codeLen, exec (.feederStep samples paper) s = .next { s' with
          scan := filled marks codeLen,
          store := { s'.store with waiting := s'.store.waiting ++
            [{ client := .scan, level := 1, op := .write h (all.take 256) none }] } }) ∧
      (16 * e.chain.length ≤ e.committed → e.chain.length < 2048 → s.freeCount ≤ s.cfg.receptionReserve →
        ∃ marks codeLen, exec (.feederStep samples paper) s =
          .next (raise .scanHeld (ePage h ++ e16 s.freeCount ++ e16 s.cfg.receptionReserve)
            { s' with scan := { filled marks codeLen with state := .held, holdTime := 0 } })) ∧
      (16 * e.chain.length ≤ e.committed → 2048 ≤ e.chain.length → s.page h = some e → s.scanTaker h = none →
        ∃ t, exec (.feederStep samples paper) s = .next t ∧
          t.entry h.slot = { s'.entry h.slot with
            state := .closed, writer := none, lineCount := min 6912 u.committed, truncated := true, pending := [],
            pins := min 15 (e.pins + 1) } ∧
          t.scan.state = .ejecting ∧ t.scan.nextSheet = true ∧ t.scan.page = none ∧ t.scan.filling = [] ∧
          t.scan.full = none ∧ t.scan.backlog = [] ∧ t.scan.pagesClosed = min 65535 (u.pagesClosed + 1) ∧
          (∀ k, k ≠ h.slot → t.entry k = s.entry k) ∧ OnlyChanges [.store, .scan, .link] s t ∧ LinkRaises s t))

/-- The trailing edge ends the page 64 steps later (R27). At that step, nothing left to write, the page closes (R38):
its line count the lines committed and those in the buffer, PAGE_CLOSED raised, held by one reference and appended to
the target document when that is DRAFT with room, otherwise loose with one pin; an empty feeder then ends the job with
EMPTY. With octets left in the buffer they are asked to be written as the final block, and its commit closes the page
likewise (R9, R38), the lines committed counted at this commit too (R35). At step 6912 the page ends with TRUNCATED,
closes so, and its sheet is carried out before the next one (R27). A count full at the close, 4095 references or 15
pins, is log 42's.
The model's choices it rests on: logs 16, 18, 19, 42, 45. -/
def Obligations.SheetEndClosesPage : Prop :=
  (∀ (h : PageHandle) (s : State), s.power = true → (s.scan.state = .scanning ∨ s.scan.state = .held) →
    s.scan.page = some h → s.scan.endStep = none → s.scan.ending = none → 1 ≤ s.scan.step →
    exec .sheetEndSensor s = .next { s with scan := { s.scan with endStep := some (s.scan.step + 63) } }) ∧
  (∀ (samples : List Byte) (paper : Bool) (h : PageHandle) (e : PageEntry) (s : State),
    s.power = true → s.scan.state = .scanning → s.scan.page = some h → s.page h = some e → s.scan.step = 6912 →
    s.scan.endStep ≠ some 6912 → s.scan.ending = none → s.scan.backlog = [] → s.scan.lineWaits = false →
    s.scan.filling = [] → s.scan.full = none → s.scan.repeats = 0 → s.outstanding .scan = false → s.scanTaker h = none →
    let closed : PageEntry := { e with
      state := .closed, writer := none, lineCount := min 6912 (s.scan.committed + (s.scan.marks.map (·.2)).sum),
      truncated := true, pending := [] }
    ∃ t, exec (.feederStep samples paper) s = .next t ∧
      t.entry h.slot = { closed with pins := min 15 (e.pins + 1) } ∧
      t.scan = { s.scan.emptied with
        page := none, state := .ejecting, nextSheet := true, target := none,
        pagesClosed := min 65535 (s.scan.pagesClosed + 1), paper } ∧
      t.link = (raise .pageClosed (pageClosedFields h closed) s).link ∧
      (∀ k, k ≠ h.slot → t.entry k = s.entry k) ∧ OnlyChanges [.store, .scan, .link] s t) ∧
  (∀ (samples : List Byte) (paper : Bool) (h : PageHandle) (s : State),
    s.power = true → s.scan.state = .scanning → s.scan.page = some h → s.scan.endStep = some s.scan.step →
    s.scan.ending = none → s.scan.backlog = [] → s.scan.lineWaits = false → s.scan.filling ≠ [] →
    s.scan.filling.length < 256 → s.scan.full = none → s.scan.repeats = 0 → s.outstanding .scan = false →
    let e := s.entry h.slot
    (e.committed < 16 * e.chain.length ∨ e.chain.length < 2048 ∧ s.cfg.receptionReserve < s.freeCount) →
    exec (.feederStep samples paper) s = .next { s with
      scan := { s.scan with step := s.scan.step + 1, filling := [], ending := some .trailingEdge, paper },
      store := { s.store with waiting := s.store.waiting ++
        [{ client := .scan, level := 1,
           op := .write h (s.scan.filling ++ 0xCF :: List.replicate (255 - s.scan.filling.length) 0)
            (some { code := s.scan.filling.length, lineCount := s.scan.committed + (s.scan.marks.map (·.2)).sum,
                    truncated := false, hold := .scanTarget }) }] } }) ∧
  (∀ (h : PageHandle) (level addr : Nat) (data : List Byte) (req : CloseReq) (e : PageEntry) (s : State),
    s.power = true → s.store.port = some ⟨⟨.scan, level, .write h data (some req)⟩, addr, false⟩ →
    s.scan.state = .scanning → s.scan.ending = some .trailingEdge → s.page h = some e → e.state = .opened →
    e.committed < 16 * e.chain.length → req.hold = .scanTarget → s.scanTaker h = none →
    let done := s.scan.marks.filter fun m => decide (m.1 ≤ e.byteLen + req.code)
    let closed : PageEntry := { e with
      state := .closed, writer := none, committed := e.committed + 1, byteLen := e.byteLen + req.code,
      lineCount := min 6912 req.lineCount, truncated := e.truncated || req.truncated, pending := [] }
    ∃ t, exec (.blockWriteCommit false) s = .next t ∧
      t.entry h.slot = { closed with pins := min 15 (e.pins + 1) } ∧
      t.scan = { s.scan.emptied with
        page := none, state := .idle, target := none, pagesClosed := min 65535 (s.scan.pagesClosed + 1),
        committed := min 6912 (s.scan.committed + (done.map (·.2)).sum), endCause := .empty, paper := false } ∧
      t.link = (raise .pageClosed (pageClosedFields h closed) s).link ∧
      (∀ k, k ≠ h.slot → t.entry k = s.entry k) ∧ OnlyChanges [.store, .mem, .scan, .link] s t) ∧
  ∀ (samples : List Byte) (h : PageHandle) (e : PageEntry) (s : State),
    s.power = true → s.scan.state = .scanning → s.scan.page = some h → s.page h = some e →
    s.scan.endStep = some s.scan.step → s.scan.ending = none → s.scan.backlog = [] → s.scan.lineWaits = false →
    s.scan.filling = [] → s.scan.full = none → s.scan.repeats = 0 → s.outstanding .scan = false →
    let lineCount := min 6912 (s.scan.committed + (s.scan.marks.map (·.2)).sum)
    (s.scanTaker h = none → e.pins < 15 →
      ∃ t, exec (.feederStep samples false) s = .next t ∧
        t.entry h.slot = { e with state := .closed, writer := none, lineCount, pending := [], pins := e.pins + 1 } ∧
        t.scan = { s.scan.emptied with
          page := none, state := .idle, target := none, pagesClosed := min 65535 (s.scan.pagesClosed + 1),
          endCause := .empty, paper := false } ∧
        t.link = (raise .pageClosed (pageClosedFields h { e with lineCount }) s).link ∧
        (∀ k, k ≠ h.slot → t.entry k = s.entry k) ∧ OnlyChanges [.store, .scan, .link] s t) ∧
    ∀ d, s.scan.target = some d → d.slot < 64 → (s.docs.docs.get d.slot).issue = d.issue →
      (s.docs.docs.get d.slot).state = .draft → (s.docs.docs.get d.slot).pages.length < 255 →
      e.refs < 4095 →
      ∃ t, exec (.feederStep samples false) s = .next t ∧
        t.entry h.slot =
          { e with state := .closed, writer := none, lineCount, pending := [], refs := min 4095 (e.refs + 1) } ∧
        t.docs.docs.get d.slot =
          { s.docs.docs.get d.slot with pages := (s.docs.docs.get d.slot).pages ++ [h] } ∧
        (∀ k, k ≠ d.slot → t.docs.docs.get k = s.docs.docs.get k) ∧ t.scan.state = .idle ∧ t.scan.target = some d ∧
        (∀ k, k ≠ h.slot → t.entry k = s.entry k) ∧ OnlyChanges [.store, .scan, .link, .docs] s t

/-! ### Outbound documents and dispatch (chapter 3) -/

/-- Building a document. DOC-CREATE makes the lowest FREE slot DRAFT, its priority, retry limit and interval clamped, and
answers with the values applied and the handle (R49); DOC-ADD-PAGES appends the pages and raises one reference for each
occurrence (R50); a handle among them that names no page is answered NO_SUCH_PAGE before any other test of document or
list (R3); DOC-ADD-DESTS draws the lowest free record for a dial string, WAITING and eligible from now (R47,
R51).
The model's choices it rests on: logs 13, 15. -/
def Obligations.DocumentBuilt : Prop :=
  (∀ (tag desk prio lim i1 i0 flag : Byte) (deadline : Option DateTime) (s s₁ : State),
    s.takes ⟨0x28, tag, [desk, prio] ++ eOpt eTime deadline ++ [lim, i1, i0, flag]⟩ = some s₁ → flag.toNat < 2 →
    (∀ t, deadline = some t → t.valid = true) →
    (15 < desk.toNat → exec (.docCreate tag ([desk, prio] ++ eOpt eTime deadline ++ [lim, i1, i0, flag])) s =
      .next (refuse 0x28 tag .badField s₁)) ∧
    (desk.toNat ≤ 15 → (∀ k, k < 64 → (s₁.docs.docs.get k).state ≠ .free) →
      exec (.docCreate tag ([desk, prio] ++ eOpt eTime deadline ++ [lim, i1, i0, flag])) s =
        .next (refuse 0x28 tag .tableFull s₁)) ∧
    ∀ slot, desk.toNat ≤ 15 → slot < 64 → (s₁.docs.docs.get slot).state = .free →
      (∀ k, k < slot → (s₁.docs.docs.get k).state ≠ .free) →
      let interval := max 30 (min 3600 (256 * i1.toNat + i0.toNat))
      exec (.docCreate tag ([desk, prio] ++ eOpt eTime deadline ++ [lim, i1, i0, flag])) s =
        .next (reply 0x28 tag .ok (e8 (min 3 prio.toNat) ++ e8 (min 15 lim.toNat) ++ e16 interval ++
            eDoc ⟨slot, (s₁.docs.docs.get slot).issue⟩)
          (s₁.setDoc slot { Doc.freeWith (s₁.docs.docs.get slot).issue with
            state := .draft, desk := desk.toNat, priority := min 3 prio.toNat, deadline,
            retryLimit := min 15 lim.toNat, retryInterval := interval, releasePages := decide (flag = 1),
            pagesHeld := true }))) ∧
  (∀ (tag a b : Byte) (d : Doc) (pages : List PageHandle) (s s₁ : State),
    s.takes ⟨0x29, tag, [a, b, oct pages.length] ++ pages.flatMap ePage⟩ = some s₁ →
    s₁.doc (docOf a b) = some d → d.state = .draft → 1 ≤ pages.length → d.pages.length + pages.length ≤ 255 →
    (∀ p ∈ pages, p.issue < 64 ∧ ∃ e, s₁.page p = some e ∧ e.refs + pages.count p ≤ 4095) →
    ∃ t, exec (.docAddPages tag ([a, b, oct pages.length] ++ pages.flatMap ePage)) s =
        .next (reply 0x29 tag .ok (e8 (d.pages.length + pages.length)) t) ∧
      t.docs.docs.get (docOf a b).slot = { d with pages := d.pages ++ pages } ∧
      (∀ k, k ≠ (docOf a b).slot → t.docs.docs.get k = s₁.docs.docs.get k) ∧
      (∀ k, t.entry k = { s₁.entry k with
        refs := (s₁.entry k).refs + (pages.filter fun p => decide (p.slot = k)).length }) ∧
      t.docs = { s₁.docs with docs := t.docs.docs } ∧ t.store = { s₁.store with dir := t.store.dir } ∧
      OnlyChanges [.docs, .store] s₁ t) ∧
  (∀ (tag a b : Byte) (pages : List PageHandle) (s s₁ : State),
    s.takes ⟨0x29, tag, [a, b, oct pages.length] ++ pages.flatMap ePage⟩ = some s₁ → 1 ≤ pages.length →
    pages.length ≤ 255 → (∀ p ∈ pages, p.slot < 1024 ∧ p.issue < 64) →
    ((∃ p ∈ pages, s₁.page p = none) →
      exec (.docAddPages tag ([a, b, oct pages.length] ++ pages.flatMap ePage)) s =
        .next (refuse 0x29 tag .noSuchPage s₁)) ∧
    ((∀ p ∈ pages, (s₁.page p).isSome) →
      (s₁.doc (docOf a b) = none →
        exec (.docAddPages tag ([a, b, oct pages.length] ++ pages.flatMap ePage)) s =
          .next (refuse 0x29 tag .noSuchDoc s₁)) ∧
      ∀ d, s₁.doc (docOf a b) = some d →
        (d.state ≠ .draft → exec (.docAddPages tag ([a, b, oct pages.length] ++ pages.flatMap ePage)) s =
          .next (refuse 0x29 tag .wrongState s₁)) ∧
        (d.state = .draft →
          (255 < d.pages.length + pages.length ∨ ∃ p ∈ pages, 4095 < (s₁.entry p.slot).refs + pages.count p) →
          exec (.docAddPages tag ([a, b, oct pages.length] ++ pages.flatMap ePage)) s =
            .next (refuse 0x29 tag .tableFull s₁)))) ∧
  ∀ (tag a b : Byte) (d : Doc) (dial : List DialSym) (r : Nat) (s s₁ : State),
    s.takes ⟨0x2A, tag, [a, b] ++ eSyms dial⟩ = some s₁ → s₁.doc (docOf a b) = some d → d.state = .draft →
    d.dests.length < 200 → 1 ≤ dial.length → dial.length ≤ 40 → dial.all DialSym.inRange = true → r < 2048 →
    s₁.dest r = none → (∀ k, k < r → (s₁.dest k).isSome) → 0 < s₁.docs.freeRecords →
    exec (.docAddDests tag ([a, b] ++ eSyms dial)) s =
      .next (reply 0x2A tag .ok (e8 (d.dests.length + 1) ++ e8 d.dests.length) { s₁ with docs := { s₁.docs with
        pool := s₁.docs.pool.set r (some { dial, state := .waiting, attempts := 0, confirmed := 0, eligible := s₁.now,
                                           lastCause := none, lastLine := none, lastLog := none }),
        docs := s₁.docs.docs.set (docOf a b).slot { d with dests := d.dests ++ [r] } } })

/-- DOC-SUBMIT of a DRAFT document with pages and destinations, none of its pages OPEN, makes it QUEUED with the next
submission sequence and asks for a pass (R52); one whose deadline is already reached becomes DONE at once, its WAITING
destinations EXPIRED (R64). An empty list is refused with BAD_FIELD, a page still OPEN with WRONG_STATE.
The model's choices it rests on: logs 13, 15, 24. -/
def Obligations.DocumentSubmitted : Prop :=
  ∀ (tag a b : Byte) (d : Doc) (s s₁ : State), s.takes ⟨0x2B, tag, [a, b]⟩ = some s₁ → s₁.doc (docOf a b) = some d →
    s₁.scan.state ≠ .held →
    (d.state = .draft → d.pages ≠ [] → d.dests ≠ [] → (∀ p ∈ d.pages, (s₁.entry p.slot).state ≠ .opened) →
      (d.deadlineReached s₁.now = false →
        exec (.docSubmit tag [a, b]) s = .next (reply 0x2B tag .ok (e16 s₁.docs.counter ++ [2])
          { s₁ with docs := { s₁.docs with
            docs := s₁.docs.docs.set (docOf a b).slot { d with state := .queued, sequence := s₁.docs.counter },
            counter := (s₁.docs.counter + 1) % 65536, passAsked := true } })) ∧
      (d.deadlineReached s₁.now = true → d.dests.Nodup → d.releasePages = false → d.cancelReq = false →
        (∀ r ∈ d.dests, ∃ x, s₁.dest r = some x ∧ x.state = .waiting) →
        ∃ t, exec (.docSubmit tag [a, b]) s = .next (reply 0x2B tag .ok (e16 s₁.docs.counter ++ [4]) t) ∧
          t.docs.docs.get (docOf a b).slot = { d with
            state := .done, sequence := s₁.docs.counter, expired := d.expired + d.dests.length } ∧
          (∀ r ∈ d.dests, t.dest r = (s₁.dest r).map fun x => { x with state := .expired }) ∧
          (∀ r, r ∉ d.dests → t.dest r = s₁.dest r) ∧ t.docs.passAsked = true ∧
          OnlyChanges [.docs, .link] s₁ t ∧ LinkRaises s₁ t)) ∧
    (d.state = .draft → d.pages = [] ∨ d.dests = [] →
      exec (.docSubmit tag [a, b]) s = .next (refuse 0x2B tag .badField s₁)) ∧
    (d.state ≠ .draft → exec (.docSubmit tag [a, b]) s = .next (refuse 0x2B tag .wrongState s₁)) ∧
    (d.state = .draft → d.pages ≠ [] → d.dests ≠ [] → (∃ p ∈ d.pages, (s₁.entry p.slot).state = .opened) →
      exec (.docSubmit tag [a, b]) s = .next (refuse 0x2B tag .wrongState s₁))

/-- DOC-CANCEL of a document with no destination ON_LINE ends it CANCELLED, its waiting destinations CANCELLED and
counted; its references go with RELEASE_PAGES set (R68). With one ON_LINE it asks the cancel and leaves the document as
it is (R65), and a call of it before connect goes on hook at once: logged, its destination CANCELLED with its attempt
counted, and with no other ON_LINE the document CANCELLED (R66). DOC-DELETE frees the slot with its issue advanced,
gives its records back and lowers the references it held (R69). A page whose only hold went is released, its segments
at the pool's tail.
The model's choices it rests on: logs 15, 16, 24, 46. -/
def Obligations.DocumentCancelledOrDeleted : Prop :=
  ∀ (tag a b : Byte) (d : Doc) (s s₁ : State), s₁.doc (docOf a b) = some d → s₁.scan.state ≠ .held → d.dests.Nodup →
    let waits := (d.dests.filter fun r => match s₁.dest r with | some x => x.state.isWaiting | none => false).length
    (s.takes ⟨0x2C, tag, [a, b]⟩ = some s₁ → (d.state = .draft ∨ d.state = .queued ∨ d.state = .active) →
      d.releasePages = false → (∀ r ∈ d.dests, ∃ x, s₁.dest r = some x ∧ x.state ≠ .onLine) →
      ∃ t, exec (.docCancel tag [a, b]) s = .next (reply 0x2C tag .ok ([5] ++ e8 waits) t) ∧
        t.docs.docs.get (docOf a b).slot = { d with state := .cancelled, cancelled := d.cancelled + waits } ∧
        (∀ r, t.dest r = if r ∈ d.dests then
            (s₁.dest r).map fun x => if x.state.isWaiting then { x with state := .cancelled } else x
          else s₁.dest r) ∧
        OnlyChanges [.docs, .link] s₁ t ∧ LinkRaises s₁ t) ∧
    (s.takes ⟨0x2C, tag, [a, b]⟩ = some s₁ → (d.state = .queued ∨ d.state = .active) →
      (∃ r ∈ d.dests, ∃ x, s₁.dest r = some x ∧ x.state = .onLine) →
      (∀ l y, (s₁.line l).attempt = some y → y.doc = docOf a b →
        (s₁.line l).state ∉ [.seized, .dialling, .alerting, .releasing]) →
      ∃ t, exec (.docCancel tag [a, b]) s = .next (reply 0x2C tag .ok ([d.state.code] ++ e8 waits) t) ∧
        t.docs.docs.get (docOf a b).slot = { d with cancelReq := true, cancelled := d.cancelled + waits } ∧
        OnlyChanges [.docs] s₁ t) ∧
    (∀ l x c o r y, s.takes ⟨0x2C, tag, [a, b]⟩ = some s₁ → (d.state = .queued ∨ d.state = .active) →
      d.releasePages = false → s₁.line l = x → x.state ∈ [.seized, .dialling, .alerting] →
      x.attempt.map Attempt.doc = some (docOf a b) → x.call = some c → c.inbound = none → c.out = some o →
      o.doc = docOf a b → d.dests[o.index]? = some r → s₁.dest r = some y → y.state = .onLine →
      y.confirmed < d.pages.length →
      (∀ k z, k ≠ l → (s₁.line k).attempt = some z → z.doc = docOf a b →
        (s₁.line k).state ∉ [.seized, .dialling, .alerting, .releasing]) →
      ∃ t rec st, exec (.docCancel tag [a, b]) s = .next (reply 0x2C tag .ok ([st.code] ++ e8 waits) t) ∧
        Released l c .cancelled rec s₁ t ∧
        t.docs.docs.get (docOf a b).slot =
          { d with state := st, cancelReq := true, cancelled := d.cancelled + waits + 1 } ∧
        ((∃ q z, q ∈ d.dests ∧ q ≠ r ∧ s₁.dest q = some z ∧ z.state = .onLine) → st = d.state) ∧
        ((∀ q z, q ∈ d.dests → q ≠ r → s₁.dest q = some z → z.state ≠ .onLine) → st = .cancelled) ∧
        t.dest r = some { y with
          state := .cancelled, attempts := y.attempts + 1, lastCause := some .cancelled,
          lastLog := some s₁.log.sequence } ∧
        (∀ q, q ≠ r → t.dest q = if q ∈ d.dests then
            (s₁.dest q).map fun z => if z.state.isWaiting then { z with state := .cancelled } else z
          else s₁.dest q) ∧
        OnlyChanges [.docs, .lines, .log, .desks, .store, .link] s₁ t ∧ LinkRaises s₁ t) ∧
    (s.takes ⟨0x2C, tag, [a, b]⟩ = some s₁ → (d.state = .draft ∨ d.state = .queued ∨ d.state = .active) →
      d.releasePages = true → d.pagesHeld = true → (∀ r ∈ d.dests, ∃ x, s₁.dest r = some x ∧ x.state ≠ .onLine) →
      ∃ t, exec (.docCancel tag [a, b]) s = .next (reply 0x2C tag .ok ([5] ++ e8 waits) t) ∧
        t.docs.docs.get (docOf a b).slot =
          { d with state := .cancelled, cancelled := d.cancelled + waits, pagesHeld := false } ∧
        OnlyChanges [.docs, .store, .link] s₁ t ∧ LinkRaises s₁ t ∧
        ((∀ p ∈ d.pages, ∃ e, s₁.page p = some e ∧ d.pages.count p < e.refs) → t.store.pool = s₁.store.pool ∧
          ∀ k, t.entry k = { s₁.entry k with
            refs := (s₁.entry k).refs - (d.pages.filter fun p => decide (p.slot = k)).length }) ∧
        ∀ p e, d.pages = [p] → s₁.store.accounted → s₁.page p = some e → e.state = .closed → e.refs = 1 → e.pins = 0 →
          PageReleased p e s₁ t) ∧
    (s.takes ⟨0x2C, tag, [a, b]⟩ = some s₁ → (d.state = .done ∨ d.state = .cancelled) →
      exec (.docCancel tag [a, b]) s = .next (refuse 0x2C tag .wrongState s₁)) ∧
    (s.takes ⟨0x2F, tag, [a, b]⟩ = some s₁ → (d.state = .queued ∨ d.state = .active) →
      exec (.docDelete tag [a, b]) s = .next (refuse 0x2F tag .wrongState s₁)) ∧
    (s.takes ⟨0x2F, tag, [a, b]⟩ = some s₁ → (d.state = .draft ∨ d.state = .done ∨ d.state = .cancelled) →
      (d.pagesHeld = true → ∀ p ∈ d.pages, ∃ e, s₁.page p = some e ∧ d.pages.count p < e.refs) →
      ∃ t, exec (.docDelete tag [a, b]) s = .next (reply 0x2F tag .ok (e16 t.docs.freeRecords) t) ∧
        t.docs.docs.get (docOf a b).slot = .freeWith ((d.issue + 1) % 256) ∧
        (∀ r, t.dest r = if r ∈ d.dests then none else s₁.dest r) ∧
        (∀ k, t.entry k = { s₁.entry k with refs := (s₁.entry k).refs -
          if d.pagesHeld then (d.pages.filter fun p => decide (p.slot = k)).length else 0 }) ∧
        (∀ k, k ≠ (docOf a b).slot → t.docs.docs.get k = s₁.docs.docs.get k) ∧ OnlyChanges [.docs, .store] s₁ t) ∧
    ∀ p e, s.takes ⟨0x2F, tag, [a, b]⟩ = some s₁ → (d.state = .draft ∨ d.state = .done ∨ d.state = .cancelled) →
      d.pagesHeld = true → d.pages = [p] → s₁.store.accounted → s₁.page p = some e → e.state = .closed → e.refs = 1 →
      e.pins = 0 →
      ∃ t, exec (.docDelete tag [a, b]) s = .next (reply 0x2F tag .ok (e16 t.docs.freeRecords) t) ∧
        t.docs.docs.get (docOf a b).slot = .freeWith ((d.issue + 1) % 256) ∧
        (∀ r, t.dest r = if r ∈ d.dests then none else s₁.dest r) ∧ PageReleased p e s₁ t ∧
        OnlyChanges [.docs, .store, .link] s₁ t ∧ LinkRaises s₁ t

/-- A dispatcher pass gives the free line the first document of the order that has an eligible destination, and of it the
eligible destination of lowest index: ON_LINE on that line, the document ACTIVE (R53 to R57). With no line free the pass
ends with nothing handed out; unasked, no pass is made. The line's
dial buffer, charge point and charged number, kept from its last attempt, go with the hand-off (R76).
A line is free for outbound when it is IDLE, holds no attempt, permits outbound, the log has room for one more call, and the
other lines able to answer are at least the inbound reserve (R54); a document is in the order when it is QUEUED or ACTIVE,
without cancel requested, and its desk without LIMIT_REACHED (R55); a destination is eligible when WAITING, or RETRY_WAIT
with its time come (R56).
The model's choices it rests on: log 24. -/
def Obligations.DispatcherHandsOff : Prop :=
  ∀ s : State, s.power = true →
    (∀ l, s.freeForOutbound l = true ↔
      (s.line l).state = .idle ∧ (s.line l).attempt = none ∧
        ((s.line l).config.direction = .outOnly ∨ (s.line l).config.direction = .both) ∧
        s.log.records.length + (([0, 1, 2, 3] : List LineNo).filter fun k =>
          decide ((s.line k).state ≠ .idle ∧ (s.line k).state ≠ .rest ∧ (s.line k).state ≠ .outOfService)).length < 256 ∧
        s.cfg.inboundReserve ≤ (([0, 1, 2, 3] : List LineNo).filter fun k =>
          decide (k ≠ l ∧ (s.line k).state = .idle ∧ (s.line k).attempt = none ∧
            ((s.line k).config.direction = .inOnly ∨ (s.line k).config.direction = .both))).length) ∧
    (∀ d, s.dispatchable d = true ↔
      (d.state = .queued ∨ d.state = .active) ∧ d.cancelReq = false ∧ (s.desks.get d.desk).reached = false) ∧
    (∀ x : Dest, x.isEligible s.now = true ↔
      x.state = .waiting ∨ x.state = .retryWait ∧ x.eligible.tenths ≤ s.now.tenths) ∧
    (s.docs.passAsked = false → exec .dispatcherPass s = .next s) ∧
    (s.docs.passAsked = true → (∀ l, s.freeForOutbound l = false) →
      exec .dispatcherPass s = .next { s with docs := { s.docs with passAsked := false } }) ∧
    ∀ (l : LineNo) (slot i r : Nat) (x : Dest), s.docs.passAsked = true → s.freeForOutbound l = true →
      (∀ k, k ≠ l → s.freeForOutbound k = false) → slot < 64 →
      s.dispatchable (s.docs.docs.get slot) = true →
      (s.docs.docs.get slot).dests[i]? = some r → s.dest r = some x → x.isEligible s.now = true →
      (∀ j q y, j < i → (s.docs.docs.get slot).dests[j]? = some q → s.dest q = some y → y.isEligible s.now = false) →
      (∀ k q y, k < 64 → k ≠ slot → s.dispatchable (s.docs.docs.get k) = true → q ∈ (s.docs.docs.get k).dests →
        s.dest q = some y → y.isEligible s.now = true →
        (s.docs.docs.get slot).ahead slot (s.docs.docs.get k) k) →
      let d := s.docs.docs.get slot
      exec .dispatcherPass s = .next { s.setLine l { s.line l with
            attempt := some { doc := ⟨slot, d.issue⟩, index := i, dial := x.dial, desk := d.desk,
                              priority := d.priority, firstPage := x.confirmed, expanded := false },
            expander := .reset, charged := [] } with
          docs := { s.docs with
            pool := s.docs.pool.set r (some { x with state := .onLine, lastLine := some l }),
            docs := s.docs.docs.set slot { d with state := if d.state = .queued then .active else d.state },
            passAsked := false } }

/-- The time has reached a deadline: every waiting destination of the QUEUED or ACTIVE document becomes EXPIRED and is
counted, those ON_LINE go on, and the document is DONE once none is left (R63). A retry's time asks for a pass (R62).
Before the time nothing happens.
The model's choices it rests on: logs 2, 24. -/
def Obligations.TimesReached : Prop :=
  ∀ s : State, s.power = true → s.scan.state ≠ .held →
    (∀ slot, (s.docs.docs.get slot).deadlineReached s.now = false → exec (.deadlineReached slot) s = .next s) ∧
    (∀ slot, let d := s.docs.docs.get slot
      d.deadlineReached s.now = true → (d.state = .queued ∨ d.state = .active) → d.dests.Nodup →
      d.releasePages = false → d.cancelReq = false → (∀ r ∈ d.dests, (s.dest r).isSome) →
      let waits := (d.dests.filter fun r => match s.dest r with | some x => x.state.isWaiting | none => false).length
      let online := d.dests.any fun r => match s.dest r with | some x => decide (x.state = .onLine) | none => false
      ∃ t, exec (.deadlineReached slot) s = .next t ∧
        t.docs.docs.get slot =
          { d with state := if online then d.state else .done, expired := d.expired + waits } ∧
        (∀ r, t.dest r = if r ∈ d.dests then
            (s.dest r).map fun x => if x.state.isWaiting then { x with state := .expired } else x
          else s.dest r) ∧
        OnlyChanges [.docs, .link] s t ∧ LinkRaises s t) ∧
    (∀ r x, s.dest r = some x → x.state = .retryWait → x.eligible.tenths ≤ s.now.tenths →
      exec (.retryEligible r) s = .next { s with docs := { s.docs with passAsked := true } }) ∧
    (∀ r x, s.dest r = some x → (x.state ≠ .retryWait ∨ s.now.tenths < x.eligible.tenths) →
      exec (.retryEligible r) s = .next s)

/-- An attempt's outcome report (R61): attempts advance, the cause and the log sequence are noted, and the destination
takes the first state that applies of SENT, CANCELLED, FAILED for BARRED or DIAL_ERROR, FAILED at the retry limit,
EXPIRED, WAITING for RESET and RETRY_WAIT from the release time on; the dispatcher is asked for a pass.
The model's choices it rests on: logs 16, 24. -/
def Obligations.AttemptOutcome : Prop :=
  ∀ (h : DocHandle) (index r : Nat) (cause : Cause) (release : DateTime) (logged : Option Nat) (d : Doc) (x : Dest)
    (s : State),
    s.doc h = some d → d.dests[index]? = some r → s.dest r = some x →
    let t := outcomeReport false h index cause release logged s
    let early := (cause = .barred ∨ ∃ sub, cause = .dialError sub)
    ∃ y, t.dest r = some y ∧ t.docs.passAsked = true ∧
      y.attempts = x.attempts + 1 ∧ y.lastCause = some cause ∧ y.lastLog = logged.or x.lastLog ∧
      y.dial = x.dial ∧ y.confirmed = x.confirmed ∧ y.lastLine = x.lastLine ∧
      (x.confirmed = d.pages.length → y.state = .sent) ∧
      (x.confirmed ≠ d.pages.length →
        (d.cancelReq = true → y.state = .cancelled) ∧
        (d.cancelReq = false →
          ((early ∨ d.retryLimit ≤ x.attempts) → y.state = .failed) ∧
          (¬ early → x.attempts < d.retryLimit →
            (d.deadlineReached s.now = true → y.state = .expired) ∧
            (d.deadlineReached s.now = false → cause = .reset → y.state = .waiting) ∧
            (d.deadlineReached s.now = false → cause ≠ .reset →
              y.state = .retryWait ∧ y.eligible = release.plus (10 * d.retryInterval))))) ∧
      (∀ k, k ≠ r → t.dest k = s.dest k)

/-! ### Dialling and call set-up (chapter 4) -/

/-- LINE-CONFIG of a line not in a call takes the five items, three of them clamped, answers with them and asks for a pass
(R80); LINE-HOLD takes an IDLE or REST line out of service, LINE-RELEASE brings it back to IDLE with LINE_STATE for each
change (R81, R82), and makes the ring test of R92: with the rings of a burst due the line answers, or refuses the ring
by the first condition that fails. A line in a call is BUSY; a number outside 0-3 is NO_SUCH_ENTRY to each of the three
commands.
The model's choices it rests on: logs 13, 15, 16, 24, 39, 44. -/
def Obligations.LinesConfiguredAndHeld : Prop :=
  ∀ (tag n d m rest rings timeout : Byte) (l : LineNo) (s s₁ : State),
    (4 ≤ n.toNat → s.takes ⟨0x30, tag, [n, d, m, rest, rings, timeout]⟩ = some s₁ →
      exec (.lineConfig tag [n, d, m, rest, rings, timeout]) s = .next (refuse 0x30 tag .noSuchEntry s₁)) ∧
    (4 ≤ n.toNat → s.takes ⟨0x32, tag, [n]⟩ = some s₁ →
      exec (.lineHold tag [n]) s = .next (refuse 0x32 tag .noSuchEntry s₁)) ∧
    (4 ≤ n.toNat → s.takes ⟨0x33, tag, [n]⟩ = some s₁ →
      exec (.lineRelease tag [n]) s = .next (refuse 0x33 tag .noSuchEntry s₁)) ∧
    (n.toNat = l.val →
      let x := s₁.line l
      (s.takes ⟨0x30, tag, [n, d, m, rest, rings, timeout]⟩ = some s₁ → d.toNat < 3 → m.toNat < 2 →
        (x.inCall = true → exec (.lineConfig tag [n, d, m, rest, rings, timeout]) s = .next (refuse 0x30 tag .busy s₁)) ∧
        (x.inCall = false → ∃ c : LineConfig,
          exec (.lineConfig tag [n, d, m, rest, rings, timeout]) s =
            .next (reply 0x30 tag .ok [d, m, oct c.restTime, oct c.ringsToAnswer, oct c.answerTimeout]
              { s₁.setLine l { x with config := c } with docs := { s₁.docs with passAsked := true } }) ∧
          c.direction.code = d ∧ c.metered = decide (m = 1) ∧ c.restTime = max 1 (min 10 rest.toNat) ∧
          c.ringsToAnswer = max 1 (min 9 rings.toNat) ∧ c.answerTimeout = max 30 (min 120 timeout.toNat))) ∧
      (s.takes ⟨0x32, tag, [n]⟩ = some s₁ → x.inCall = true →
        exec (.lineHold tag [n]) s = .next (refuse 0x32 tag .busy s₁)) ∧
      (s.takes ⟨0x32, tag, [n]⟩ = some s₁ → x.state = .outOfService → x.attempt = none →
        exec (.lineHold tag [n]) s = .next (reply 0x32 tag .ok [12] s₁)) ∧
      (s.takes ⟨0x32, tag, [n]⟩ = some s₁ → (x.state = .idle ∨ x.state = .rest) → x.attempt = none →
        exec (.lineHold tag [n]) s = .next (reply 0x32 tag .ok [12]
          (raise .lineState ([n, x.state.code, 12] ++ eTime s₁.now ++ [0])
            (s₁.setLine l { x with state := .outOfService })))) ∧
      (s.takes ⟨0x33, tag, [n]⟩ = some s₁ → x.state = .outOfService → x.ringDue = false →
        exec (.lineRelease tag [n]) s = .next (reply 0x33 tag .ok [0]
          (askPass (raise .lineState ([n, 12, 0] ++ eTime s₁.now ++ [0]) (s₁.setLine l { x with state := .idle }))))) ∧
      (s.takes ⟨0x33, tag, [n]⟩ = some s₁ → x.state = .outOfService → x.ringDue = true → x.attempt = none →
        (∀ reason : Byte,
          (x.config.direction = .outOnly ∧ reason = 0 ∨
            x.config.direction ≠ .outOnly ∧ (s₁.freeCount < s₁.cfg.receptionReserve ∧ reason = 2 ∨
              s₁.cfg.receptionReserve ≤ s₁.freeCount ∧ (s₁.freeInSlots = 0 ∧ reason = 3 ∨
                s₁.freeInSlots ≠ 0 ∧ s₁.logHasRoom = false ∧ reason = 4))) →
          let told (y : Line) : State := raise .lineState ([n, 12, 0] ++ eTime s₁.now ++ [0]) (s₁.setLine l y)
          exec (.lineRelease tag [n]) s = .next (reply 0x33 tag .ok [0] (askPass
            (if x.refused then told { x with state := .idle }
             else raise .ringRefused [n, oct x.ringCount, reason] (told { x with state := .idle, refused := true }))))) ∧
        ∀ slot, slot < 32 → (s₁.recept.docs.get slot).state = .free →
          (∀ k, k < slot → (s₁.recept.docs.get k).state ≠ .free) → s₁.freeInSlots ≠ 0 →
          x.config.direction ≠ .outOnly → s₁.cfg.receptionReserve ≤ s₁.freeCount → s₁.logHasRoom = true →
          s₁.log.records.length + s₁.log.reserved < 256 →
          ∃ t, exec (.lineRelease tag [n]) s = .next (reply 0x33 tag .ok [4] t) ∧ (t.line l).state = .answering ∧
            (t.line l).ringCount = 0 ∧ (t.line l).burst = false ∧
            (t.line l).call = some { out := none, inbound := some ⟨slot, (s₁.recept.docs.get slot).issue⟩,
                                     charged := [], zone := none, reserved := true, start := s₁.now, connect := none,
                                     release := none, cause := none, pages := 0, flags := .none } ∧
            t.recept.docs.get slot = { InDoc.freeWith (s₁.recept.docs.get slot).issue with
              state := .receiving, line := l.val, answer := s₁.now } ∧
            t.log = { s₁.log with reserved := s₁.log.reserved + 1 } ∧ t.docs = { s₁.docs with passAsked := true } ∧
            OtherLines l s₁ t ∧ OnlyChanges [.lines, .link, .recept, .log, .docs] s₁ t) ∧
      (s.takes ⟨0x33, tag, [n]⟩ = some s₁ → x.state ≠ .outOfService →
        exec (.lineRelease tag [n]) s = .next (refuse 0x33 tag .wrongState s₁)))

/-- Dial strings and macros (R73 to R78). A string without macros fills the buffer with all but its charge points, the
charge point standing at the last of them; a macro without calls of its own expands in place; an unset macro and a
macro that calls itself fail. MACRO-SET sets or unsets a macro (R75). An attempt's expansion fills the line's expander;
one that fails ends the attempt FAILED with DIAL_ERROR, nothing seized and nothing logged.
The model's choices it rests on: logs 13, 15, 49. -/
def Obligations.DialStringsExpanded : Prop :=
  (∀ (macros : Table (Option (List DialSym))) (pre post : List DialSym), (pre = [] ∨ pre.getLast? = some .chargePoint) →
    .chargePoint ∉ post → (∀ n, .macroCall n ∉ pre ++ post) →
    let buffer := (pre ++ post).filter fun x => decide (x ≠ .chargePoint)
    let e : Expander := ⟨buffer, (pre.filter fun x => decide (x ≠ .chargePoint)).length, []⟩
    buffer.length ≤ 64 → (chargedDigits e).length ≤ 32 → expand macros (pre ++ post) = (e, none)) ∧
  (∀ (macros : Table (Option (List DialSym))) (pre body post : List DialSym) (n : Nat), macros.get n = some body →
    (∀ m, .macroCall m ∉ body) → expand macros (pre ++ .macroCall n :: post) = expand macros (pre ++ body ++ post)) ∧
  (∀ (macros : Table (Option (List DialSym))) (post : List DialSym) (n : Nat),
    (macros.get n = none → (expand macros (.macroCall n :: post)).2 = some .unknownMacro) ∧
    (∀ rest, macros.get n = some (.macroCall n :: rest) → (expand macros (.macroCall n :: post)).2 = some .depth)) ∧
  (∀ (tag n : Byte) (syms : List DialSym) (s s₁ : State), syms.all DialSym.inRange = true → syms.length ≤ 40 →
    (s.takes ⟨0x34, tag, [n, 1] ++ eSyms syms⟩ = some s₁ → n.toNat ≤ 31 →
      exec (.macroSet tag ([n, 1] ++ eSyms syms)) s = .next (reply 0x34 tag .ok [1, oct syms.length]
        { s₁ with macros := s₁.macros.set n.toNat (some syms) })) ∧
    (s.takes ⟨0x34, tag, [n, 0]⟩ = some s₁ → n.toNat ≤ 31 →
      exec (.macroSet tag [n, 0]) s = .next (reply 0x34 tag .ok [0] { s₁ with macros := s₁.macros.set n.toNat none })) ∧
    (s.takes ⟨0x34, tag, [n, 0]⟩ = some s₁ → 31 < n.toNat →
      exec (.macroSet tag [n, 0]) s = .next (refuse 0x34 tag .noSuchEntry s₁))) ∧
  ∀ (l : LineNo) (a : Attempt) (e : Expander) (s : State), s.power = true → s.scan.state ≠ .held →
    (s.line l).state = .idle → (s.line l).attempt = some a → a.expanded = false →
    (expand s.macros a.dial = (e, none) →
      exec (.dialExpansion l) s = .next (s.setLine l { s.line l with
        expander := e, charged := chargedDigits e, attempt := some { a with expanded := true } })) ∧
    ∀ (sub : DialSub) (d : Doc) (r : Nat) (x : Dest), expand s.macros a.dial = (e, some sub) →
      (s.line l).deferred = false → s.doc a.doc = some d → d.dests[a.index]? = some r → s.dest r = some x →
      x.confirmed ≠ d.pages.length → d.cancelReq = false →
      ∃ t, exec (.dialExpansion l) s = .next t ∧
        t.line l = { s.line l with expander := e, charged := [], attempt := none } ∧ OtherLines l s t ∧
        t.dest r = some { x with attempts := x.attempts + 1, state := .failed, lastCause := some (.dialError sub) } ∧
        t.log = s.log

/-- The lookup's answer (R79, R84). BARRED ends the attempt FAILED, nothing seized. A zone seizes: off hook, the call
record filled, a log position reserved, the fill count 0, in SEIZED, DIALLING or ALERTING by the first symbol of the
buffer (R85). That no dial tone stands as a seizure begins, so that a leading W leaves the line waiting in SEIZED, is
the model's choice (log 59): R85 completes a W at once where dial tone is present. A desk at its limit refuses the
seizure and the attempt is withdrawn, its destination WAITING again (R58, R59).
The model's choices it rests on: logs 16, 24, 44, 59. -/
def Obligations.LookupSeizesOrBars : Prop :=
  ∀ (l : LineNo) (a : Attempt) (d : Doc) (r : Nat) (x : Dest) (s : State),
    s.power = true → s.scan.state ≠ .held → (s.line l).state = .idle → (s.line l).attempt = some a →
    a.expanded = true → (s.line l).deferred = false → s.doc a.doc = some d → d.dests[a.index]? = some r →
    s.dest r = some x → d.cancelReq = false → x.confirmed ≠ d.pages.length →
    (s.charge.lookup (s.line l).charged = none →
      ∃ t, exec (.zoneLookup l) s = .next t ∧ t.line l = { s.line l with attempt := none } ∧ OtherLines l s t ∧
        t.dest r = some { x with attempts := x.attempts + 1, state := .failed, lastCause := some .barred } ∧
        t.log = s.log ∧ t.desks = s.desks) ∧
    (∀ zone, s.charge.lookup (s.line l).charged = some zone →
      ((s.desks.get a.desk).reached = false → s.log.records.length + s.log.reserved < 256 →
        ∃ t, exec (.zoneLookup l) s = .next t ∧ t.log = { s.log with reserved := s.log.reserved + 1 } ∧
          (t.line l).call = some { out := some ⟨a.doc, a.index, a.desk, a.priority⟩, inbound := none,
                                   charged := (s.line l).charged, zone := some zone, reserved := true, start := s.now,
                                   connect := none, release := none, cause := none, pages := 0, flags := .none } ∧
          (t.line l).attempt = some a ∧ (t.line l).fillCount = 0 ∧ (t.line l).playPos = 0 ∧
          (t.line l).dialTone = false ∧
          (t.line l).expander = (s.line l).expander ∧ (t.line l).config = (s.line l).config ∧
          (t.line l).state = (match (s.line l).expander.buffer with
            | [] => .alerting
            | .pause :: _ => .seized
            | .wait :: _ => .seized
            | _ => .dialling) ∧
          OtherLines l s t ∧ OnlyChanges [.lines, .link, .log, .store] s t) ∧
      ((s.desks.get a.desk).reached = true → d.deadlineReached s.now = false →
        ∃ t, exec (.zoneLookup l) s = .next t ∧ t.line l = { s.line l with attempt := none } ∧ OtherLines l s t ∧
          t.dest r = some { x with state := .waiting } ∧ t.docs.passAsked = true ∧ t.log = s.log))

/-- The dial buffer is played in order (R85): at the end of a symbol, or of a W at dial tone, the next one begins, DIALLING
with the first digit, * or #, ALERTING at the buffer's end; LINE_STATE tells each change. With dial tone present every W
that begins completes at once, so that the next symbol begins is the first one past them; dial tone reported while no W
waits is present from then on, until a digit, * or # begins (log 59). A line not in SEIZED or DIALLING plays nothing.
The model's choices it rests on: logs 2, 16, 35, 59. -/
def Obligations.DialBufferPlayed : Prop :=
  ∀ (i : Instr) (l : LineNo) (s : State), s.power = true →
    let x := s.line l
    (∀ (tone : Bool) (p : Nat), (x.state = .seized ∨ x.state = .dialling) →
      (i = .dialSymbolEnd l ∧ tone = x.dialTone ∧ (∃ y, y ≠ .wait ∧ x.expander.buffer[x.playPos]? = some y) ∨
        i = .dialToneReport l ∧ tone = true ∧ x.expander.buffer[x.playPos]? = some .wait) →
      x.playPos < p → (∀ k, x.playPos < k → k < p → tone = true ∧ x.expander.buffer[k]? = some .wait) →
      (tone = true → x.expander.buffer[p]? ≠ some .wait) →
      let y := { x with dialTone := tone }.atSymbol p
      exec i s = .next (if y.state = x.state then s.setLine l y
        else raise .lineState ([oct l.val, x.state.code, y.state.code] ++ eTime s.now ++ [0]) (s.setLine l y))) ∧
    (i = .dialToneReport l → (x.state = .seized ∨ x.state = .dialling) → x.expander.buffer[x.playPos]? ≠ some .wait →
      exec i s = .next (s.setLine l { x with dialTone := true })) ∧
    (i = .dialSymbolEnd l → x.expander.buffer[x.playPos]? = some .wait → exec i s = .next s) ∧
    (i = .dialSymbolEnd l ∨ i = .dialToneReport l → x.state ≠ .seized → x.state ≠ .dialling → exec i s = .next s)

/-- An outbound call before connect (R85 to R87). The answer indication stamps the connect time, captures the zone's
row and enters NEGOTIATING as sender. A busy tone, the answer timer and 10 s without dial tone end it: on hook in REST,
logged in its reserved position with 0 units and 0 cost, and the attempt counted with its cause.
The model's choices it rests on: logs 5, 16, 24, 35. -/
def Obligations.CallsAnsweredOrFailed : Prop :=
  (∀ (l : LineNo) (a : Attempt) (c : CallRec) (s : State), s.power = true →
    ((s.line l).state = .dialling ∨ (s.line l).state = .alerting) → (s.line l).attempt = some a →
    (s.line l).call = some c →
    exec (.answerIndication l) s =
      .next (raise .lineState ([oct l.val, (s.line l).state.code, 5] ++ eTime s.now ++ [0])
        (s.setLine l { s.line l with
          state := .negotiating,
          call := some { c with
            connect := some s.now,
            flags := { c.flags with timeSuspect := c.flags.timeSuspect || s.tk.suspect } },
          charging := captureRow s.charge (c.zone.getD 0) (s.line l).config.metered,
          params := { CallParams.reset with role := some .sender, pagePos := a.firstPage } }))) ∧
  ∀ (i : Instr) (l : LineNo) (c : CallRec) (o : OutCall) (cause : Cause) (d : Doc) (k : Nat) (x : Dest) (s : State),
    s.power = true → s.scan.state ≠ .held → (s.line l).call = some c → c.out = some o → c.inbound = none →
    c.connect = none → s.doc o.doc = some d → d.dests[o.index]? = some k → s.dest k = some x →
    (i = .busyTone l ∧ cause = .busy ∧ ((s.line l).state = .dialling ∨ (s.line l).state = .alerting) ∨
      i = .answerTimeout l ∧ cause = .noAnswer ∧ (s.line l).state = .alerting ∨
      i = .dialToneTimeout l ∧ cause = .noDialTone ∧ ((s.line l).state = .seized ∨ (s.line l).state = .dialling) ∧
        (s.line l).symbol = some .wait) →
    ∃ t r y, exec i s = .next t ∧ (t.line l).state = .rest ∧ (t.line l).call = none ∧ (t.line l).attempt = none ∧
      (t.line l).lastCause = some cause ∧ OtherLines l s t ∧
      t.log.records = s.log.records ++ [r] ∧ r.sequence = s.log.sequence ∧ r.line = l ∧ r.out = some o ∧
      r.cause = cause ∧ r.start = c.start ∧ r.connect = none ∧ r.release = s.now ∧ r.duration = 0 ∧ r.units = 0 ∧
      r.cost = 0 ∧ t.log.reserved = s.log.reserved - 1 ∧ t.log.sequence = (s.log.sequence + 1) % 65536 ∧
      t.dest k = some y ∧ y.attempts = x.attempts + 1 ∧ y.lastCause = some cause ∧
      y.lastLog = some s.log.sequence ∧ t.docs.passAsked = true

/-- Rings (R88, R89, R91). On hook a ring is counted; once the count reaches the rings to answer, an IDLE line with the
store, a slot and log room answers, an inbound document opened and a log position reserved, and otherwise the line
raises RING_REFUSED once in the burst. From DIALLING on a ring is ignored. A ring on a SEIZED line configured BOTH is a
glare: the attempt is withdrawn and the line answers on its reservation, its call record without a CLOCK_STEP gained in
SEIZED by the model's choice (log 61); with the store below the reception reserve it refuses the ring, once in the
burst that the ring begins, gives its reservation back and rests.
The model's choices it rests on: logs 5, 16, 24, 25, 39, 44, 61. -/
def Obligations.RingsAnswerOrRefuse : Prop :=
  ∀ (l : LineNo) (s : State), s.power = true → s.scan.state ≠ .held →
    let x := s.line l
    let count := min 255 (x.ringCount + 1)
    let answering (slot : Nat) (t : State) : Prop :=
      (t.line l).state = .answering ∧ (t.line l).attempt = none ∧ (t.line l).ringCount = 0 ∧ (t.line l).burst = false ∧
        (t.line l).call = some { out := none, inbound := some ⟨slot, (s.recept.docs.get slot).issue⟩, charged := [],
                                 zone := none, reserved := true, start := s.now, connect := none, release := none,
                                 cause := none, pages := 0, flags := .none } ∧
        t.recept.docs.get slot = { InDoc.freeWith (s.recept.docs.get slot).issue with
          state := .receiving, line := l.val, answer := s.now } ∧ OtherLines l s t
    ((x.state = .idle ∨ x.state = .outOfService) → count < x.config.ringsToAnswer →
      exec (.ring l) s = .next (s.setLine l { x with burst := true, ringCount := count })) ∧
    (x.state = .rest → exec (.ring l) s = .next (s.setLine l { x with burst := true, ringCount := count })) ∧
    (x.state ∉ [.idle, .outOfService, .rest, .seized] → exec (.ring l) s = .next s) ∧
    (x.state = .seized → x.config.direction = .outOnly → exec (.ring l) s = .next s) ∧
    (x.state = .idle → x.attempt = none → x.config.ringsToAnswer ≤ count → x.config.direction ≠ .outOnly →
      s.freeCount < s.cfg.receptionReserve →
      exec (.ring l) s = .next (if x.refused then s.setLine l { x with burst := true, ringCount := count }
        else raise .ringRefused [oct l.val, oct count, 2]
          (s.setLine l { x with burst := true, ringCount := count, refused := true }))) ∧
    (x.state = .outOfService → x.config.ringsToAnswer ≤ count → x.attempt = none → x.refused = false →
      exec (.ring l) s = .next (raise .ringRefused
        [oct l.val, oct count, if x.config.direction = .outOnly then 0 else 1]
        (s.setLine l { x with burst := true, ringCount := count, refused := true }))) ∧
    (∀ slot, slot < 32 → (s.recept.docs.get slot).state = .free → s.freeInSlots ≠ 0 →
      (∀ k, k < slot → (s.recept.docs.get k).state ≠ .free) → s.cfg.receptionReserve ≤ s.freeCount →
      (x.state = .idle → x.attempt = none → x.config.ringsToAnswer ≤ count → x.config.direction ≠ .outOnly →
        s.logHasRoom = true → s.log.records.length + s.log.reserved < 256 →
        ∃ t, exec (.ring l) s = .next t ∧ answering slot t ∧
          t.log = { s.log with reserved := s.log.reserved + 1 } ∧ OnlyChanges [.lines, .link, .recept, .log] s t) ∧
      ∀ a d r y, x.state = .seized → x.config.direction = .both → x.attempt = some a → s.doc a.doc = some d →
        d.dests[a.index]? = some r → s.dest r = some y → d.cancelReq = false → d.deadlineReached s.now = false →
        ∃ t, exec (.ring l) s = .next t ∧ answering slot t ∧ t.log = s.log ∧
          t.dest r = some { y with state := .waiting } ∧ t.docs.passAsked = true) ∧
    ∀ a d r y, x.state = .seized → x.config.direction = .both → x.attempt = some a → s.doc a.doc = some d →
      d.dests[a.index]? = some r → s.dest r = some y → d.cancelReq = false → d.deadlineReached s.now = false →
      s.freeCount < s.cfg.receptionReserve →
      ∃ t, exec (.ring l) s = .next t ∧ (t.line l).state = .rest ∧ (t.line l).attempt = none ∧
        (t.line l).call = none ∧ (t.line l).burst = true ∧ (t.line l).refused = true ∧
        (t.line l).ringCount = x.ringCount ∧ (t.line l).config = x.config ∧ OtherLines l s t ∧
        t.log = { s.log with reserved := s.log.reserved - 1 } ∧ t.recept = s.recept ∧
        t.dest r = some { y with state := .waiting } ∧ t.docs.passAsked = true

/-- 8 s after its last ring a burst ends, the ring count and the refusal mark with it (R88). The answer tone sent, the line
stamps the connect time and enters NEGOTIATING as receiver (R90). A rest run out without enough rings brings IDLE and a
pass; with them the line answers from REST (R92).
The model's choices it rests on: logs 2, 5, 16, 24, 39. -/
def Obligations.BurstAnswerToneAndRestEnd : Prop :=
  ∀ (l : LineNo) (s : State), s.power = true →
    let x := s.line l
    (x.burst = true → exec (.ringBurstEnd l) s =
      .next (s.setLine l { x with ringCount := 0, burst := false, refused := false, deferred := false })) ∧
    (x.burst = false → exec (.ringBurstEnd l) s = .next s) ∧
    (∀ c h, x.state = .answering → x.call = some c → c.inbound = some h →
      ∃ t, exec (.answerToneEnd l) s = .next t ∧
        t.line l = { x with
          state := .negotiating,
          call := some { c with
            connect := some s.now,
            flags := { c.flags with timeSuspect := c.flags.timeSuspect || s.tk.suspect } },
          params := { CallParams.reset with role := some .receiver }, proc := { Procedure.reset with timer := true } } ∧
        t.recept.docs.get h.slot = { s.recept.docs.get h.slot with connect := some s.now } ∧
        t.link = (raise .lineState ([oct l.val, 4, 5] ++ eTime s.now ++ [0]) s).link ∧
        OtherLines l s t ∧ OnlyChanges [.lines, .recept, .link] s t) ∧
    (x.state = .rest → x.ringDue = false → exec (.restEnd l) s =
      .next (askPass (raise .lineState ([oct l.val, 11, 0] ++ eTime s.now ++ [0])
        (s.setLine l { x with state := .idle })))) ∧
    (x.state ≠ .rest → exec (.restEnd l) s = .next s) ∧
    (x.state = .rest → x.ringDue = true → x.config.direction ≠ .outOnly → s.cfg.receptionReserve ≤ s.freeCount →
      s.freeInSlots ≠ 0 → s.logHasRoom = true →
      ∃ t, exec (.restEnd l) s = .next t ∧ (t.line l).state = .answering ∧ (t.line l).ringCount = 0 ∧
        OtherLines l s t)

/-! ### The line procedure (chapter 5) -/

/-- Negotiation (R98 to R100). The remote's answer tone over, the caller holds its OFFER for the turnaround, its detector
DISARMED (R96, R116); the answerer takes a valid
one, hands the identity to reception (R122), chooses the highest rate and MSB_FIRST where offered, and holds its CHOOSE
in TRAINING; an OFFER without a rate or a bit order is not answered, the fourth ends the call. The caller takes a
CHOOSE and holds its first burst, or QUIT where its page's class is not accepted.
The model's choices it rests on: logs 26, 43, 50, 62. -/
def Obligations.NegotiationChooses : Prop :=
  ∀ (l : LineNo) (s : State), s.power = true → (s.line l).listening = true → (s.line l).state = .negotiating →
    let x := s.line l
    (∀ e, x.role = some .sender → x.proc.lastOut = none → s.pageSent l = some e →
      exec (.remoteAnswerToneEnd l) s = .next (s.setLine l { x with
        params := { x.params with detector := .disarmed },
        proc := { x.proc with tx := .ready (.msg (.offer s.cfg.identity 0x3F 0x03 true e.cls)), timer := false,
                              incoming := false } })) ∧
    (∀ (identity : List Byte) (rates orders : Byte) (chop : Bool) (cls : ResClass), x.role = some .receiver →
      identity.length ≤ 20 → rates.toNat < 64 → orders.toNat < 4 →
      let m : Msg := .offer identity rates orders chop cls
      (∀ (r : LineRate) (c : CallRec) (h : InHandle) (d : InDoc), rates.getLsbD (lineRateIndex r) = true →
        (∀ k, k < lineRateIndex r → rates.getLsbD k = false) → orders ≠ 0 → x.call = some c → c.inbound = some h →
        s.inDoc h = some d → x.proc.offerSeen = false →
        let order : BitOrder := if orders.getLsbD 0 then .msbFirst else .lsbFirst
        let id := if identity = [] then none else some identity
        let y := x.answering (.msg m) (.msg (.choose s.cfg.identity r order chop 7))
        ∃ t u, exec (.offerReceived l identity rates orders chop cls) s = .next t ∧
          t.line l = { y with
            state := .training, recv := { x.recv with cls }, proc := { y.proc with offerSeen := true },
            params := { y.params with remoteId := id, rateChosen := some r, rate := some r, order := some order, chop } } ∧
          t.recept.docs.get h.slot = { d with sender := id, urgent := u } ∧
          (u = true ↔ identity ≠ [] ∧ ∃ k p, k < 16 ∧ s.recept.urgentTable.get k = some p ∧ p <+: identity) ∧
          OtherLines l s t ∧ OnlyChanges [.lines, .link, .recept] s t) ∧
      ((rates = 0 ∨ orders = 0) → x.proc.offerSeen = true → x.proc.badOffers < 3 →
        exec (.offerReceived l identity rates orders chop cls) s = .next (s.setLine l { x.receptionOver with
          proc := { x.receptionOver.proc with badOffers := x.proc.badOffers + 1 } })) ∧
      ((rates = 0 ∨ orders = 0) → x.proc.offerSeen = true → x.proc.badOffers = 3 →
        exec (.offerReceived l identity rates orders chop cls) s =
          .next (s.entering l { x.receptionOver.withCause .timeout with
            state := .releasing,
            proc := { x.receptionOver.proc with badOffers := 4, tx := .ready (.msg .quit), timer := false } }))) ∧
    ∀ (identity : List Byte) (rate : LineRate) (order : BitOrder) (chop : Bool) (classes : Byte) (e : PageEntry),
      x.role = some .sender → x.proc.lastOut.isSome → identity.length ≤ 20 → classes.toNat < 8 →
      s.cancelAsked l = false → s.pageSent l = some e →
      let m : Msg := .choose identity rate order chop classes
      let chosen (y : Line) : Line := { y with params := { y.params with
        remoteId := if identity = [] then none else some identity, rateChosen := some rate, rate := some rate,
        order := some order, chop, classes := some classes } }
      exec (.chooseReceived l identity rate order chop classes) s = .next
        (if classes.getLsbD (classIndex e.cls) then
          s.entering l { chosen (x.answering (.msg m) (.burst rate)) with state := .training }
        else s.entering l { chosen ((x.answering (.msg m) (.msg .quit)).withCause (.remoteRefused .cls)) with
          state := .releasing })

/-- Training (R101, R102). The receiver answers a good burst at its rate TRAIN_GOOD and enters RECEIVING, any other
TRAIN_BAD, stepping down once for each burst however often it is repeated, at 2400 awaiting QUIT. The sender on
TRAIN_GOOD enters SENDING with its whole line block in hand, on TRAIN_BAD steps down and trains again, at 2400 ends the
call with LINE_QUALITY.
The model's choices it rests on: logs 43, 47. -/
def Obligations.TrainingStepsDown : Prop :=
  ∀ (l : LineNo) (s : State), s.power = true → (s.line l).listening = true → (s.line l).state = .training →
    let x := s.line l
    (∀ (rate cur : LineRate) (good : Bool), x.role = some .receiver → x.params.rate = some cur →
      (x.proc.lastIn ≠ some (.burst rate) ∨ rate ∉ x.proc.badRates) →
      (good = true → rate = cur →
        let y := x.answering (.burst rate) (.msg .trainGood)
        exec (.trainingBurstReceived l rate good) s = .next (s.entering l { y with
          state := .receiving, params := { y.params with trained := true },
          proc := { y.proc with badRates := [], awaitQuit := none } })) ∧
      (good = false ∨ rate ≠ cur →
        let y := x.answering (.burst rate) (.msg .trainBad)
        exec (.trainingBurstReceived l rate good) s = .next (s.setLine l (match stepDown cur with
          | some low => { y with
              params := { y.params with rate := some low, stepDowns := min 5 (x.params.stepDowns + 1) },
              proc := { y.proc with badRates := rate :: x.proc.badRates } }
          | none => { y with
              proc := { y.proc with badRates := rate :: x.proc.badRates, awaitQuit := some .lineQuality } })))) ∧
    (∀ (rate : LineRate) (good : Bool), x.role = some .receiver → x.proc.lastIn = some (.burst rate) →
      rate ∈ x.proc.badRates →
      exec (.trainingBurstReceived l rate good) s =
        .next (s.setLine l (x.answering (.burst rate) (.msg .trainBad)))) ∧
    (∀ q cur, x.role = some .sender → x.proc.lastOut = some (.burst q) → s.cancelAsked l = false →
      x.params.rate = some cur →
      (∀ e, s.pageSent l = some e →
        let y := x.answering (.msg .trainGood) .frames
        exec (.trainGoodReceived l) s = .next (s.entering l { y with
          state := .sending, params := { y.params with trained := true, round := 0 },
          send := { x.send with
            queue := roundQueue x.params.chop e.byteLen x.send.block 0
              (List.range (min 64 (frameCount e.byteLen - 64 * x.send.block))),
            filling := false } })) ∧
      exec (.trainBadReceived l) s = .next (match stepDown cur with
        | some low =>
          let y := x.answering (.msg .trainBad) (.burst low)
          s.setLine l { y with
            params := { y.params with rate := some low, stepDowns := min 5 (x.params.stepDowns + 1) } }
        | none => s.entering l { (x.answering (.msg .trainBad) (.msg .quit)).withCause .lineQuality with
            state := .releasing }))

/-- Sending (R96, R97, R105, R106, R110). The turnaround over, the message held is sent, or the first frame of the pass
in the line's bit order; a frame sent is followed by the next, the last by BLOCK_END; a message sent starts the answer
wait, a PAGE_GOOD the wait for QUIT or the next page. A RESEND with marks queues just those frames for the next round,
after round 4 the fall-back; one without marks moves to the next line block, or to PAGE_END after the last. Where the
frame that is next is not in the buffer yet, fill is sent and counted, to 65535; a block read joins the buffer being
fetched, the block after it is asked for at the document's priority, and a fill period ends with the frame that it
waited for (R18, R118).
The model's choices it rests on: logs 5, 9, 32, 43. -/
def Obligations.SenderSendsBlocks : Prop :=
  ∀ (l : LineNo) (s : State), s.power = true →
    let x := s.line l
    (∀ m, x.proc.tx = .ready (.msg m) → (m = .quit ∨ s.cancelAsked l = false) →
      exec (.turnaroundExpiry l) s = .next (s.setLine l (x.sends (.msg m)))) ∧
    (∀ w, x.proc.tx = .ready w → w ≠ .msg .quit → s.cancelAsked l = true → x.state ≠ .releasing →
      exec (.turnaroundExpiry l) s =
        .next (s.entering l { (x.withCause .cancelled).sends (.msg .quit) with state := .releasing })) ∧
    (∀ f part rest d, x.proc.tx = .ready .frames → s.cancelAsked l = false → x.send.queue = (f, part) :: rest →
      x.frameData f part = some d →
      exec (.turnaroundExpiry l) s = .next (s.setLine l { x with
        params := { x.params with detector := .disarmed }, send := { x.send with filling := false },
        proc := { x.proc with
          tx := .sending .frames, timer := false, incoming := false,
          octets := inLineOrder x.params.order (pageFrame x.params.pageSeq x.params.block f part d) } })) ∧
    (∀ q f part rest d, x.proc.tx = .sending .frames → x.send.filling = false → x.send.queue = q :: (f, part) :: rest →
      x.frameData f part = some d →
      exec (.frameSent l) s = .next (s.setLine l { x with
        send := { x.send with queue := (f, part) :: rest },
        params := { x.params with
          framesResent := if 0 < x.params.round then min 65535 (x.params.framesResent + 1) else x.params.framesResent },
        proc := { x.proc with
          octets := inLineOrder x.params.order (pageFrame x.params.pageSeq x.params.block f part d) } })) ∧
    (∀ q e, x.proc.tx = .sending .frames → x.send.filling = false → x.send.queue = [q] → s.cancelAsked l = false →
      s.pageSent l = some e →
      let y : Line := { x with
        send := { x.send with queue := [] },
        params := { x.params with
          framesResent := if 0 < x.params.round then min 65535 (x.params.framesResent + 1) else x.params.framesResent } }
      exec (.frameSent l) s = .next (s.setLine l (y.sends (.msg (.blockEnd x.params.pageSeq x.params.block x.params.round
        (min 64 (frameCount e.byteLen - 64 * x.send.block))
        (if frameCount e.byteLen ≤ 64 * (x.send.block + 1) then some (e.byteLen - 256 * (frameCount e.byteLen - 1))
          else none)))))) ∧
    (∀ w, x.proc.tx = .sending w → w ≠ .frames → w ≠ .msg .quit → w ≠ .msg .pageGood → x.proc.andThen = none →
      exec (.transmissionSent l) s =
        .next (s.setLine l { x with proc := { x.proc with tx := .quiet, octets := [], timer := true } })) ∧
    (∀ c, x.proc.tx = .sending (.msg .pageGood) → x.proc.andThen = none → x.proc.afterGood = some (some c) →
      x.state = .postPage →
      exec (.transmissionSent l) s = .next (s.entering l { x with
        state := .receiving, recv := { ReceiveSide.reset with cls := c },
        params := { x.params with pageSeq := (x.params.pageSeq + 1) % 256, block := 0, round := 0 },
        proc := { x.proc with tx := .quiet, octets := [], timer := true, afterGood := none } })) ∧
    (x.proc.tx = .sending (.msg .pageGood) → x.proc.andThen = none → x.proc.afterGood = some none → x.state = .postPage →
      exec (.transmissionSent l) s = .next (s.entering l { x.withCause .normal with
        state := .releasing,
        proc := { x.proc with tx := .quiet, octets := [], timer := true, afterGood := none, goodLast := true,
                              awaitQuit := some .normal } })) ∧
    (∀ f part rest, x.send.filling = false → x.frameData f part = none →
      (x.proc.tx = .ready .frames → s.cancelAsked l = false → x.send.queue = (f, part) :: rest →
        exec (.turnaroundExpiry l) s = .next (s.setLine l { x with
          params := { x.params with detector := .disarmed },
          fillCount := min 65535 (x.fillCount + 1), send := { x.send with filling := true },
          proc := { x.proc with tx := .sending .frames, timer := false, incoming := false, octets := [] } })) ∧
      ∀ q, x.proc.tx = .sending .frames → x.send.queue = q :: (f, part) :: rest →
        exec (.frameSent l) s = .next (s.setLine l { x with
          fillCount := min 65535 (x.fillCount + 1), send := { x.send with queue := (f, part) :: rest, filling := true },
          params := { x.params with
            framesResent := if 0 < x.params.round then min 65535 (x.params.framesResent + 1) else x.params.framesResent },
          proc := { x.proc with octets := [] } })) ∧
    (∀ (h : PageHandle) (k level addr : Nat) (b : TxBuffer) (c : CallRec) (o : OutCall) (d : Doc), s.scan.state ≠ .held →
      s.store.port = some { req := { client := .lc l, level, op := .read h k }, addr, void := false } →
      x.call = some c → c.out = some o → s.doc o.doc = some d →
      (∀ r ∈ s.store.waiting, r.client ≠ .lc l) → b.got.length < b.want →
      (x.send.buf0 = some b ∨ x.send.buf1 = some b ∧ ∀ b₀, x.send.buf0 = some b₀ → b₀.want ≤ b₀.got.length) →
      let filled : TxBuffer := { b with got := b.got ++ [Memory.readBlock s.mem addr] }
      let send : SendSide :=
        if x.send.buf0 = some b then { x.send with buf0 := some filled } else { x.send with buf1 := some filled }
      let y : Line := { x with send }
      (∀ p e, b.got.length + 1 < b.want → d.pages[b.pos]? = some p → s.page p = some e → e.state = .closed →
        64 * b.block + b.got.length + 1 < e.committed → x.send.filling = false →
        exec (.blockReadComplete []) s = .next { s.setLine l y with store := { s.store with
          port := none, waiting := s.store.waiting ++
            [{ client := .lc l, level := o.priority, op := .read p (64 * b.block + b.got.length + 1) }] } }) ∧
      ∀ f part rest octets, x.send.filling = true → x.send.queue = (f, part) :: rest → y.frameData f part = some octets →
        (x.send.buf0 ≠ none ∨ x.send.fetch ≠ some (x.params.pagePos, x.send.block)) →
        ∃ t, exec (.blockReadComplete []) s = .next t ∧ (t.line l).send.filling = false ∧
          (t.line l).send.queue = x.send.queue ∧ (t.line l).fillCount = x.fillCount ∧
          (t.line l).proc = { x.proc with
            octets := inLineOrder x.params.order (pageFrame x.params.pageSeq x.params.block f part octets) } ∧
          OtherLines l s t ∧ OnlyChanges [.lines, .store] s t) ∧
    ∀ marks e, marks.length = 8 → x.listening = true → x.awaitsResend = true → s.cancelAsked l = false →
      s.pageSent l = some e →
      let n := frameCount e.byteLen
      let marked := (List.range (min 64 (n - 64 * x.send.block))).filter fun f => (marks.getD (f / 8) 0).getLsbD (f % 8)
      (marked ≠ [] → x.params.round < 4 →
        let y := x.answering (.msg (.resend marks)) .frames
        exec (.resendReceived l marks) s = .next (s.setLine l { y with
          params := { y.params with round := x.params.round + 1 },
          send := { x.send with
            queue := roundQueue x.params.chop e.byteLen x.send.block (x.params.round + 1) marked, filling := false } })) ∧
      (∀ cur, marked ≠ [] → x.params.round = 4 → x.params.rate = some cur →
        exec (.resendReceived l marks) s = .next (match stepDown cur with
          | some low =>
            let y := x.answering (.msg (.resend marks)) (.burst low)
            s.entering l { y with
              state := .training,
              params := { y.params with rate := some low, stepDowns := min 5 (x.params.stepDowns + 1) } }
          | none => s.entering l { (x.answering (.msg (.resend marks)) (.msg .quit)).withCause .lineQuality with
              state := .releasing })) ∧
      (marked = [] → 64 * (x.send.block + 1) < n →
        ∃ t, exec (.resendReceived l marks) s = .next t ∧ (t.line l).state = .sending ∧
          (t.line l).send.block = x.send.block + 1 ∧ (t.line l).params.block = (x.params.block + 1) % 256 ∧
          (t.line l).params.round = 0 ∧ (t.line l).proc.tx = .ready .frames ∧
          (t.line l).send.queue = roundQueue x.params.chop e.byteLen (x.send.block + 1) 0
            (List.range (min 64 (n - 64 * (x.send.block + 1)))) ∧
          OtherLines l s t ∧ OnlyChanges [.lines, .store] s t) ∧
      (marked = [] → n ≤ 64 * (x.send.block + 1) →
        ∃ t, exec (.resendReceived l marks) s = .next t ∧ (t.line l).state = .postPage ∧
          (t.line l).proc.tx = .ready (.msg (.pageEnd x.params.pageSeq e.lineCount
            ((s.sendPage l (x.params.pagePos + 1)).map (·.cls)))) ∧
          OtherLines l s t ∧ OnlyChanges [.lines, .link, .store] s t)

/-- Page frames carry their fields and data through either bit order (R103, R104, R217), and a frame with any one octet
changed is refused by its CRC. -/
def Obligations.FramesCarriedOrRefused : Prop :=
  (∀ (order : Option BitOrder) (sequence block frame : Nat) (part : Option Nat) (data : List Byte),
    sequence < 256 → block < 256 → frame < 64 →
    (part = none ∧ data.length = 256 ∨ ∃ p, p < 4 ∧ part = some p ∧ data.length = 64) →
    readLineFrame (inLineOrder order (inLineOrder order (pageFrame sequence block frame part data))) =
      some ⟨sequence, block, frame, part, data⟩) ∧
  ∀ (octets : List Byte) (i : Nat) (v : Byte), (readLineFrame octets).isSome → i < octets.length → octets[i]? ≠ some v →
    readLineFrame (octets.set i v) = none

/-- Receiving (R107 to R110). A good frame of the current block is stored at its number; a BLOCK_END is answered by a
RESEND with one mark for each frame missing, in answer to round 4 with the fall-back. With none missing the block's frames,
but for the page's last one of fewer than 256 octets, which is kept aside, are written in order: the first is asked for at
level 3, before any answer; a block of that last frame alone has no write, and the RESEND without marks follows at once. The
first such block of a page first opens the page: the lowest FREE slot, for the line, of origin LINE and the class in
transfer, as the document's page in reception (R4, R108, R124), and the block goes on as on a page already open. With no slot
FREE, or with 255 pages listed, no page is opened or closed and the call ends by PAGE_FAILED and QUIT with STORE_FULL,
DIRECTORY or PAGES; a write that the allocation test refuses, here when asked, closes the page TRUNCATED, listed with what
was committed, and ends the call with SEGMENTS (R109). PAGE_END with no short block closes the page with
one reference, lists it, counts it and holds PAGE_GOOD; the first page gives its document the close order and, with
auto-print, its place in the print queue or the wait list (R124, R128); with a short one it asks for the final block's
write, whose commit does so. A page whose reference count stands at 4095 at the close keeps it and joins no list
(log 42). An answer formed at a commit waits for the end of a transmission in progress (R96; log 62).
The model's choices it rests on: logs 10, 16, 42, 48, 54, 62. -/
def Obligations.ReceiverStoresBlocks : Prop :=
  (∀ missing f, f < 64 → (((marksOctets missing).getD (f / 8) 0).getLsbD (f % 8) = true ↔ f ∈ missing)) ∧
  (∀ (l : LineNo) (s : State), s.power = true → s.scan.state ≠ .held → (s.line l).listening = true →
    (s.line l).state = .receiving → (s.line l).proc.storing = false →
    let x := s.line l
    let seq := x.params.pageSeq
    let block := x.params.block
    seq < 256 → block < 256 →
    (∀ f part data, f < 64 → x.recv.finalDone = false →
      (part = none ∧ data.length = 256 ∨ ∃ p, p < 4 ∧ part = some p ∧ data.length = 64) →
      exec (.lineFrameReceived l (inLineOrder x.params.order (pageFrame seq block f part data))) s =
          .next (s.setLine l { x with
            proc := { x.proc with incoming := true }, recv := x.recv.store ⟨seq, block, f, part, data⟩ }) ∧
        (part = none → (∀ p, x.recv.holds f p = false) →
          (x.recv.store ⟨seq, block, f, part, data⟩).frame f = data)) ∧
    (∀ octets, readLineFrame (inLineOrder x.params.order octets) = none →
      exec (.lineFrameReceived l octets) s = .next (s.setLine l { x with proc := { x.proc with incoming := true } })) ∧
    (∀ round count final, x.recv.finalDone = false → x.proc.awaitQuit = none → round = x.recv.nextRound → round ≤ 4 →
      1 ≤ count → count ≤ 64 → (∀ n, final = some n → n ≤ 256) →
      let m : Msg := .blockEnd seq block round count final
      let missing := (List.range count).filter fun f => !(x.recv.holds f 0 &&
        ((x.params.chop && decide (f + 1 = count) && (match final with | some n => decide (n ≤ 64) | none => false)) ||
          (x.recv.holds f 1 && x.recv.holds f 2 && x.recv.holds f 3)))
      (missing ≠ [] → round < 4 →
        let y := x.answering (.msg m) (.msg (.resend (marksOctets missing)))
        exec (.blockEndReceived l seq block round count final) s = .next (s.setLine l { y with
          params := { y.params with round }, recv := { x.recv with answered := some round } })) ∧
      (∀ cur, missing ≠ [] → round = 4 → x.params.rate = some cur →
        let y := x.answering (.msg m) (.msg (.resend (marksOctets missing)))
        exec (.blockEndReceived l seq block round count final) s = .next (match stepDown cur with
          | some low => s.entering l { y with
              state := .training, recv := { x.recv with parts := [], answered := none },
              params := { y.params with round, rate := some low, stepDowns := min 5 (x.params.stepDowns + 1) } }
          | none => s.setLine l { y with
              params := { y.params with round }, recv := { x.recv with answered := some round },
              proc := { y.proc with awaitQuit := some .lineQuality } })) ∧
      ∀ c h d, missing = [] → x.call = some c → c.inbound = some h → s.inDoc h = some d →
        let frames := match final with | some n => if n < 256 then count - 1 else count | none => count
        let short := match final with | some n => if n < 256 then (x.recv.frame (count - 1)).take n else [] | none => []
        let read : ReceiveSide := { x.recv with
          toWrite := (List.range frames).map x.recv.frame, short, finalDone := final.isSome }
        (∀ p e, d.inPage = some p → s.page p = some e →
          (1 ≤ frames → c.out = none → (e.committed < 16 * e.chain.length ∨ e.chain.length < 2048 ∧ s.freeCount ≠ 0) →
            ∃ t, exec (.blockEndReceived l seq block round count final) s = .next t ∧
              t.store = { s.store with waiting := s.store.waiting ++
                [{ client := .lc l, level := 3, op := .write p (x.recv.frame 0) none }] } ∧
              (t.line l).recv = read ∧ (t.line l).proc.storing = true ∧ (t.line l).proc.tx = .quiet ∧
              OtherLines l s t ∧ OnlyChanges [.lines, .store] s t) ∧
          (1 ≤ frames → 16 * e.chain.length ≤ e.committed → (s.freeCount = 0 ∨ 2048 ≤ e.chain.length) →
            NotAwaited h s → s.recept.entryCounter < 65536 →
            ∃ t, exec (.blockEndReceived l seq block round count final) s = .next t ∧
              t.entry p.slot = { e with
                state := .closed, writer := none, lineCount := 0, truncated := true, refs := min 4095 (e.refs + 1),
                pending := [] } ∧
              PageListed h d p (decide (e.refs < 4095)) s.cfg.autoPrint s.recept t.recept ∧
              (t.line l).state = .releasing ∧ (t.line l).proc.tx = .ready (.msg .pageFailed) ∧
              (t.line l).proc.andThen = some .quit ∧ (t.line l).proc.storing = false ∧ (t.line l).recv = .reset ∧
              (t.line l).call = some { c with cause := some (.storeFull .segments), pages := min 255 (c.pages + 1) } ∧
              OtherLines l s t ∧ OnlyChanges [.lines, .link, .store, .recept] s t ∧ LinkRaises s t) ∧
          (frames = 0 →
            let y := x.answering (.msg m) (.msg (.resend (marksOctets [])))
            exec (.blockEndReceived l seq block round count final) s = .next (s.setLine l { y with
              params := { y.params with block := (block + 1) % 256, round := 0 },
              recv := { read with parts := [], answered := none } }))) ∧
        (d.inPage = none →
          (∀ slot, d.pages.length < 255 → Client.holdsOpen s (.lc l) = false → slot < 1024 → (s.entry slot).state = .free →
            (∀ k, k < slot → (s.entry k).state ≠ .free) →
            let p : PageHandle := ⟨slot, (s.entry slot).issue⟩
            let opened : PageEntry := { PageEntry.freeWith (s.entry slot).issue with
              state := .opened, origin := some (.line l), writer := some (.lc l), cls := x.recv.cls }
            let s₂ : State := { s.setEntry slot opened with
              recept := { s.recept with docs := s.recept.docs.set h.slot { d with inPage := some p } } }
            s₂.inDoc h = some { d with inPage := some p } ∧ s₂.page p = some opened ∧
              exec (.blockEndReceived l seq block round count final) s =
                exec (.blockEndReceived l seq block round count final) s₂ ∧
              (1 ≤ frames → s.freeCount ≠ 0 → c.out = none →
                ∃ t, exec (.blockEndReceived l seq block round count final) s = .next t ∧ t.entry slot = opened ∧
                  (∀ k, k ≠ slot → t.entry k = s.entry k) ∧ t.recept = s₂.recept ∧
                  t.store = { s₂.store with waiting := s.store.waiting ++
                    [{ client := .lc l, level := 3, op := .write p (x.recv.frame 0) none }] } ∧
                  (t.line l).recv = read ∧ (t.line l).proc.storing = true ∧ (t.line l).proc.tx = .quiet ∧
                  OtherLines l s t ∧ OnlyChanges [.lines, .store, .recept] s t)) ∧
          ∀ sub, (sub = .pages ∧ 255 ≤ d.pages.length ∨
              sub = .directory ∧ d.pages.length < 255 ∧ ∀ k, k < 1024 → (s.entry k).state ≠ .free) →
            let y := (x.answering (.msg m) (.msg .pageFailed)).withCause (.storeFull sub)
            exec (.blockEndReceived l seq block round count final) s = .next ((withdraw (.lc l) s).entering l { y with
              state := .releasing, recv := .reset, proc := { y.proc with andThen := some .quit } }))) ∧
    (∀ lineCount next c h d p e, x.recv.finalDone = true → lineCount ≤ 65535 → x.recv.short ≠ [] →
      x.recv.short.length < 256 → x.call = some c → c.out = none → c.inbound = some h → s.inDoc h = some d →
      d.inPage = some p → s.page p = some e →
      (e.committed < 16 * e.chain.length ∨ e.chain.length < 2048 ∧ s.freeCount ≠ 0) →
      ∃ t, exec (.pageEndReceived l seq lineCount next) s = .next t ∧
        t.store = { s.store with waiting := s.store.waiting ++
          [{ client := .lc l, level := 3,
             op := .write p (x.recv.short ++ 0xCF :: List.replicate (255 - x.recv.short.length) 0)
              (some { code := x.recv.short.length, lineCount := min 6912 lineCount, truncated := false,
                      hold := .reference }) }] } ∧
        (t.line l).state = .postPage ∧ (t.line l).proc.storing = true ∧ (t.line l).proc.afterGood = some next ∧
        (t.line l).proc.tx = .quiet ∧ OtherLines l s t ∧ OnlyChanges [.lines, .link, .store] s t) ∧
    ∀ lineCount next c h d p e, x.recv.finalDone = true → lineCount ≤ 65535 → x.recv.short = [] → x.call = some c →
      c.inbound = some h → s.inDoc h = some d → d.inPage = some p → s.page p = some e → NotAwaited h s →
      s.recept.entryCounter < 65536 →
      ∃ t, exec (.pageEndReceived l seq lineCount next) s = .next t ∧
        t.entry p.slot = { e with
          state := .closed, writer := none, lineCount := min 6912 lineCount, refs := min 4095 (e.refs + 1),
          pending := [] } ∧
        PageListed h d p (decide (e.refs < 4095)) s.cfg.autoPrint s.recept t.recept ∧
        (t.line l).state = .postPage ∧ (t.line l).proc.tx = .ready (.msg .pageGood) ∧
        (t.line l).proc.afterGood = some next ∧ (t.line l).call = some { c with pages := min 255 (c.pages + 1) } ∧
        OtherLines l s t ∧ OnlyChanges [.lines, .link, .store, .recept] s t) ∧
  ∀ (paper : Bool) (l : LineNo) (level addr : Nat) (data : List Byte) (req : CloseReq) (p : PageHandle) (e : PageEntry)
    (c : CallRec) (h : InHandle) (d : InDoc) (s : State), s.power = true → s.scan.state ≠ .held →
    s.store.port = some ⟨⟨.lc l, level, .write p data (some req)⟩, addr, false⟩ →
    (s.line l).call = some c → c.inbound = some h → s.inDoc h = some d → d.inPage = some p →
    s.page p = some e → e.state = .opened → e.committed < 16 * e.chain.length → req.hold = .reference →
    NotAwaited h s → s.recept.entryCounter < 65536 →
    ∃ t, exec (.blockWriteCommit paper) s = .next t ∧
      t.entry p.slot = { e with
        state := .closed, writer := none, committed := e.committed + 1, byteLen := e.byteLen + req.code,
        lineCount := min 6912 req.lineCount, truncated := e.truncated || req.truncated,
        refs := min 4095 (e.refs + 1), pending := [] } ∧
      PageListed h d p (decide (e.refs < 4095)) s.cfg.autoPrint s.recept t.recept ∧
      AnswerFormed (.msg .pageGood) (s.line l) (t.line l) ∧ (t.line l).recv.short = [] ∧
      (t.line l).call = some { c with pages := min 255 (c.pages + 1) } ∧
      OtherLines l s t ∧ OnlyChanges [.lines, .link, .store, .mem, .scan, .recept] s t

/-- Pages confirmed and calls released (R97, R111 to R115). PAGE_GOOD counts and confirms the page, then the last one
is followed by QUIT with NORMAL, a next one of an accepted class by its frames; PAGE_FAILED, also in place of a RESEND,
by the wait for QUIT. An expiry repeats the last message unchanged, three times, then QUIT with TIMEOUT; before the
first OFFER it is counted, the fourth sends QUIT with TIMEOUT. The model's choices: an expiry repeats the OFFER with a
cancel asked too (log 22; R114 lets QUIT follow that wait's end), and a receiver writing its blocks takes the QUIT too
(log 27; R113 speaks of a side that awaits a message). The QUIT sent, a QUIT received or 2 s without carrier bring the
line on hook, the call logged with its cause and charged; a call received ends likewise (R113, by QUIT with
REMOTE_QUIT, or the cause of the QUIT awaited), its document COMPLETE when the last page has been answered, PART with
pages and FAILED without, INBOUND_END raised, and FAILED ones freed with auto-discard on (R125); a page in reception,
the first one or a later one, is first closed TRUNCATED and listed, and counts (R113, R117, R124); the first one's
document is offered to the print queue (R128). A message out of range, or not awaited in the side's state and phase, is
discarded and ends for the answer timer (R95, R97); one that equals the last message acted on, and has been answered, is
answered again after the turnaround and not acted on (R97), by the last transmission sent, which after a TRAIN_GOOD or
PAGE_GOOD answered with frames is their BLOCK_END (log 31). A training burst not awaited is discarded; a line that sends or
is in its turnaround hears nothing (log 30).
The model's choices it rests on: logs 5, 16, 22, 24, 27, 28, 30, 31, 40, 42, 43, 48, 62. -/
def Obligations.PagesConfirmedAndCallsReleased : Prop :=
  ∀ (l : LineNo) (s : State), s.power = true → s.scan.state ≠ .held →
    let x := s.line l
    (∀ c o d r y, x.listening = true → x.state = .postPage → x.role = some .sender → x.call = some c →
      c.out = some o → s.doc o.doc = some d → d.dests[o.index]? = some r → s.dest r = some y →
      ∃ t, exec (.pageGoodReceived l) s = .next t ∧
        t.dest r = some { y with confirmed := min d.pages.length (y.confirmed + 1) } ∧
        (∃ c', (t.line l).call = some c' ∧ c'.pages = min 255 (c.pages + 1) ∧
          (d.pages.length ≤ x.params.pagePos + 1 →
            (t.line l).state = .releasing ∧ (t.line l).proc.tx = .ready (.msg .quit) ∧ c'.cause = some .normal) ∧
          (∀ p classes, d.pages[x.params.pagePos + 1]? = some p → d.cancelReq = false →
            x.params.classes = some classes →
            (classes.getLsbD (classIndex (s.entry p.slot).cls) = true →
              (t.line l).state = .sending ∧ (t.line l).proc.tx = .ready .frames ∧
                (t.line l).params.pageSeq = (x.params.pageSeq + 1) % 256 ∧
                (t.line l).params.pagePos = x.params.pagePos + 1 ∧ (t.line l).params.block = 0 ∧
                (t.line l).params.round = 0 ∧ (t.line l).send.block = 0) ∧
            (classes.getLsbD (classIndex (s.entry p.slot).cls) = false →
              (t.line l).state = .releasing ∧ (t.line l).proc.tx = .ready (.msg .quit) ∧
                c'.cause = some (.remoteRefused .cls)))) ∧
        OtherLines l s t ∧ OnlyChanges [.lines, .link, .docs] s t) ∧
    (x.listening = true → (x.state = .postPage ∨ x.awaitsResend = true) → x.role = some .sender →
      exec (.pageFailedReceived l) s = .next (s.entering l { x.withCause (.remoteRefused .pageFailed) with
        state := .releasing, params := { x.params with repeats := 0, detector := .disarmed },
        proc := { x.proc with timer := true, incoming := false, lastIn := none,
                              awaitQuit := some (.remoteRefused .pageFailed) } })) ∧
    (∀ out, x.listening = true → x.proc.timer = true → x.proc.incoming = false → x.proc.awaitQuit = none →
      x.proc.lastOut = some out →
      (x.params.repeats < 3 → exec (.answerWaitExpiry l) s = .next (s.setLine l
        ({ x with params := { x.params with repeats := x.params.repeats + 1 } }.sends out))) ∧
      (x.params.repeats = 3 → x.state ≠ .releasing → exec (.answerWaitExpiry l) s =
        .next (s.entering l { (x.withCause .timeout).sends (.msg .quit) with state := .releasing }))) ∧
    (x.listening = true → x.proc.timer = true → x.proc.incoming = false → x.proc.awaitQuit = none →
      x.proc.lastOut = none → x.role = some .receiver →
      let y : Line := { x with proc := { x.proc with waits := x.proc.waits + 1 } }
      (x.proc.waits < 3 → exec (.answerWaitExpiry l) s = .next (s.setLine l y)) ∧
      (x.proc.waits = 3 → x.state ≠ .releasing → exec (.answerWaitExpiry l) s =
        .next (s.entering l { (y.withCause .timeout).sends (.msg .quit) with state := .releasing }))) ∧
    (x.listening = true → exec (.invalidTransmission l) s = .next (s.setLine l x.receptionOver)) ∧
    (∀ m : Msg, (x.listening = false → exec (m.received l) s = .next s) ∧
      (x.listening = true → (m.inRange = false ∨ ¬x.awaits m) →
        let waits := x.proc.storing = true ∧ ((∃ a b c d e, m = .blockEnd a b c d e) ∨ ∃ a b c, m = .pageEnd a b c)
        (∀ out, m ≠ .quit → ¬waits → x.proc.lastIn = some (.msg m) → x.proc.lastOut = some out →
          exec (m.received l) s = .next (s.setLine l (x.answersAgain out))) ∧
        ((x.proc.lastIn ≠ some (.msg m) ∨ x.proc.lastOut = none ∨ waits) →
          exec (m.received l) s = .next (s.setLine l x.receptionOver)))) ∧
    (∀ rate good, x.listening = true →
      (x.role = some .receiver → x.state ≠ .training ∧ (x.state = .receiving → ∀ r, x.proc.lastIn ≠ some (.burst r))) →
      exec (.trainingBurstReceived l rate good) s = .next (s.setLine l x.receptionOver)) ∧
    (∀ i cause c o d r y, x.call = some c → c.out = some o → c.inbound = none → s.doc o.doc = some d →
      d.dests[o.index]? = some r → s.dest r = some y → (s.desks.get o.desk).limit = none →
      (i = .quitSent l ∧ x.proc.tx = .sending (.msg .quit) ∧ c.cause = some cause ∨
        i = .quitReceived l ∧ x.listening = true ∧ x.role = some .sender ∧ x.proc.lastOut.isSome ∧
          x.proc.awaitQuit = none ∧ cause = .remoteRefused .quit ∨
        i = .carrierLossExpiry l ∧ x.listening = true ∧ x.params.detector = .counting ∧ cause = .lineDrop ∨
        i = .answerWaitExpiry l ∧ x.listening = true ∧ x.proc.timer = true ∧ x.proc.incoming = false ∧
          x.proc.awaitQuit = some cause) →
      ∃ t rec y', exec i s = .next t ∧ Released l c cause rec s t ∧ rec.pages = c.pages ∧
        (t.desks.get o.desk).cost = min 4294967295 ((s.desks.get o.desk).cost + rec.cost) ∧
        (t.desks.get o.desk).units = min 4294967295 ((s.desks.get o.desk).units + rec.units) ∧
        (t.desks.get o.desk).calls = min 65535 ((s.desks.get o.desk).calls + 1) ∧
        (∀ k, k ≠ o.desk → t.desks.get k = s.desks.get k) ∧
        t.dest r = some y' ∧ y'.attempts = y.attempts + 1 ∧ y'.lastCause = some cause ∧
        y'.lastLog = some s.log.sequence ∧ (y.confirmed = d.pages.length → y'.state = .sent)) ∧
    ∀ i cause c h d, x.call = some c → c.out = none → c.inbound = some h → s.inDoc h = some d →
      NotAwaited h s → s.recept.entryCounter < 65536 →
      (i = .quitReceived l ∧ x.listening = true ∧ x.role = some .receiver ∧
          (x.proc.awaitQuit = none ∧ cause = .remoteQuit ∨ x.proc.awaitQuit = some cause) ∨
        i = .quitSent l ∧ x.proc.tx = .sending (.msg .quit) ∧ c.cause = some cause ∨
        i = .carrierLossExpiry l ∧ x.listening = true ∧ x.params.detector = .counting ∧ cause = .lineDrop ∨
        i = .answerWaitExpiry l ∧ x.listening = true ∧ x.proc.timer = true ∧ x.proc.incoming = false ∧
          x.proc.awaitQuit = some cause) →
      (∀ p e, d.inPage = some p → s.page p = some e → e.state = .opened →
        ∃ t rec m, PageListed h d p (decide (e.refs < 4095)) s.cfg.autoPrint s.recept m ∧
          let g := m.docs.get h.slot
          let ended : InDoc := { g with
            release := some s.now, cause := some cause, lastSent := x.proc.goodLast,
            state := if x.proc.goodLast then .complete else if g.pages = [] then .failed else .part }
          exec i s = .next t ∧ Released l c cause rec s t ∧ rec.pages = min 255 (c.pages + 1) ∧
          t.desks = s.desks ∧
          t.recept = { m with docs := m.docs.set h.slot <|
            if ended.state = .failed ∧ s.cfg.autoDiscard = true then .freeWith ((d.issue + 1) % 256) else ended } ∧
          t.entry p.slot = { e with
            state := .closed, writer := none, lineCount := 0, truncated := true, pending := [],
            refs := min 4095 (e.refs + 1) } ∧
          (∀ k, k ≠ p.slot → t.entry k = s.entry k) ∧ t.store.pool = s.store.pool ∧
          (s.link.mask = 0 → s.link.notices.length ≤ 27 →
            (∃ n ∈ t.link.notices, n.kind = .pageClosed ∧ n.fields = pageClosedFields p (t.entry p.slot)) ∧
            ∃ n ∈ t.link.notices, n.kind = .inboundEnd ∧
              n.fields = eIn h ++ e8 d.line ++ [ended.state.code] ++ eCause cause ++ e8 ended.pages.length ++
                eOpt eChars d.sender ++ eBool d.urgent)) ∧
      let ended : InDoc := { d with
        release := some s.now, cause := some cause, lastSent := x.proc.goodLast,
        state := if x.proc.goodLast then .complete else if d.pages = [] then .failed else .part }
      d.inPage = none → ∃ t rec, exec i s = .next t ∧ Released l c cause rec s t ∧ rec.pages = c.pages ∧ t.desks = s.desks ∧
        t.recept.docs.get h.slot =
          (if ended.state = .failed ∧ s.cfg.autoDiscard = true then .freeWith ((d.issue + 1) % 256) else ended) ∧
        (s.link.mask = 0 → s.link.notices.length ≤ 28 → ∃ n ∈ t.link.notices, n.kind = .inboundEnd ∧
          n.fields = eIn h ++ e8 d.line ++ [ended.state.code] ++ eCause cause ++ e8 d.pages.length ++
            eOpt eChars d.sender ++ eBool d.urgent)

/-- The carrier loss detector (R116): armed by a remote transmission on a trained line, not by a training burst;
counting while carrier is absent; armed again as it returns. With it disarmed, absence only ends the transmission; not
counting, the return and the 2 s do nothing. The closing sequence of a BLOCK_END or PAGE_END heard while the answer
still waits on the store disarms it too; an answer that the store has meanwhile let be formed is held until the
transmission in progress has ended, by its closing sequence or with its carrier, and then begins its turnaround (R96),
as the model reads it (log 62).
The model's choices it rests on: logs 2, 5, 30, 62. -/
def Obligations.CarrierWatched : Prop :=
  ∀ (l : LineNo) (s : State), s.power = true →
    let x := s.line l
    (∀ burst, x.listening = true → exec (.remoteCarrierBegin l burst) s = .next (s.setLine l { x with
      proc := { x.proc with incoming := true },
      params := { x.params with detector := if x.params.trained = true ∧ burst = false then .armed else .disarmed } })) ∧
    (x.listening = true → x.params.detector = .armed → exec (.carrierAbsent l) s =
      .next (s.setLine l { x with params := { x.params with detector := .counting } })) ∧
    (x.listening = true → x.params.detector = .disarmed → exec (.carrierAbsent l) s =
      .next (s.setLine l x.receptionOver)) ∧
    (x.listening = true → x.params.detector = .counting → exec (.carrierReturn l) s =
      .next (s.setLine l { x with params := { x.params with detector := .armed } })) ∧
    (x.params.detector ≠ .counting → exec (.carrierReturn l) s = .next s ∧
      (s.scan.state ≠ .held → exec (.carrierLossExpiry l) s = .next s)) ∧
    (x.listening = true → x.params.detector = .counting → exec (.carrierAbsent l) s = .next s) ∧
    (x.listening = false → (∀ burst, exec (.remoteCarrierBegin l burst) s = .next s) ∧
      exec (.carrierAbsent l) s = .next s ∧ exec (.carrierReturn l) s = .next s) ∧
    (x.listening = true → x.proc.storing = true → s.scan.state ≠ .held →
      (∀ sequence block round count final,
        exec (.blockEndReceived l sequence block round count final) s = .next (s.setLine l x.receptionOver)) ∧
      ∀ sequence lineCount next,
        exec (.pageEndReceived l sequence lineCount next) s = .next (s.setLine l x.receptionOver))

/-! ### Reception, the print queue and the print engine (chapters 6 and 7) -/

/-- INBOUND-DELETE (R120, R133): a document being received, queued or printing is refused WRONG_STATE; any other leaves
the wait list, its slot is FREE with the issue advanced, and each of its pages loses its references; one whose only hold
that was is released, its segments at the pool's tail. URGENT-SET puts a text of 1-20 characters into an entry 0-15 or
empties it, and answers with all 16 entries (R123); an identity is urgent when the text of an entry begins it (R122).
The model's choices it rests on: logs 13, 15. -/
def Obligations.InboundDeletedUrgentTextsSet : Prop :=
  (∀ (tag a b : Byte) (d : InDoc) (s s₁ : State), s.takes ⟨0x39, tag, [a, b]⟩ = some s₁ → s₁.inDoc (inOf a b) = some d →
     s₁.scan.state ≠ .held →
     (d.state = .receiving ∨ d.printState = .queued ∨ d.printState = .printing →
       exec (.inboundDelete tag [a, b]) s = .next (refuse 0x39 tag .wrongState s₁)) ∧
     (d.state ≠ .receiving → d.printState ≠ .queued → d.printState ≠ .printing →
       ∃ t released, exec (.inboundDelete tag [a, b]) s =
           .next (reply 0x39 tag .ok (e8 released ++ e16 t.store.pool.count) t) ∧
         t.recept = { s₁.recept with
           docs := s₁.recept.docs.set a.toNat (.freeWith ((d.issue + 1) % 256)),
           waitList := s₁.recept.waitList.filter fun h => decide (h ≠ inOf a b) } ∧
         OnlyChanges [.recept, .store, .link] s₁ t ∧ LinkRaises s₁ t ∧
         ((∀ p ∈ d.pages, ∃ e, s₁.page p = some e ∧ d.pages.count p < e.refs) →
           released = 0 ∧ t.link = s₁.link ∧ t.store.pool = s₁.store.pool ∧
           ∀ k, t.entry k = { s₁.entry k with
             refs := (s₁.entry k).refs - (d.pages.filter fun p => decide (p.slot = k)).length }) ∧
         (∀ p e, d.pages = [p] → s₁.store.accounted → s₁.page p = some e → e.state = .closed → e.refs = 1 → e.pins = 0 →
           released = 1 ∧ t.store.pool.toList = s₁.store.pool.toList ++ e.chain ∧
           t.entry p.slot = .freeWith ((e.issue + 1) % 64) ∧ ∀ k, k ≠ p.slot → t.entry k = s₁.entry k))) ∧
  ((∀ (tag n : Byte) (text : Option (List Byte)) (s s₁ : State),
     s.takes ⟨0x3A, tag, n :: eOpt eChars text⟩ = some s₁ → (∀ x, text = some x → x.length ≤ 255) →
     (n.toNat ≤ 15 → (∀ x, text = some x → 1 ≤ x.length ∧ x.length ≤ 20) →
       exec (.urgentSet tag (n :: eOpt eChars text)) s =
         .next (reply 0x3A tag .ok (((s₁.recept.urgentTable.set n.toNat text).toList 16).flatMap (eOpt eChars))
           { s₁ with recept := { s₁.recept with urgentTable := s₁.recept.urgentTable.set n.toNat text } })) ∧
     (15 < n.toNat → exec (.urgentSet tag (n :: eOpt eChars text)) s = .next (refuse 0x3A tag .noSuchEntry s₁)) ∧
     (n.toNat ≤ 15 → (∃ x, text = some x ∧ (x = [] ∨ 20 < x.length)) →
       exec (.urgentSet tag (n :: eOpt eChars text)) s = .next (refuse 0x3A tag .badField s₁))) ∧
   ∀ (table : Table (Option (List Byte))) (identity : List Byte),
     isUrgent table identity = true ↔ ∃ k x rest, k < 16 ∧ table.get k = some x ∧ identity = x ++ rest)

/-- PRINT-DOC and PRINT-PAGE (R127, R128, R130, R131): an entry is made under the first number from the counter on that
no entry holds; a document that is urgent stands after the last entry urgent or begun, any other entry at the tail; the
document becomes QUEUED, the page gains a reference, and the reply carries number and position. PRINT-CANCEL (R129,
R132, R152) removes the entry numbered, or that of a document: the document becomes HELD, the page's reference is
lowered; a begun entry's work ends in the engine, uncut paper is fed and cut; the oldest waiting document joins. A
document of the wait list only leaves it; one in neither is refused WRONG_STATE.
The model's choices it rests on: logs 13, 15. -/
def Obligations.PrintQueueJoinedAndLeft : Prop :=
  (∀ (tag a b : Byte) (n k : Nat) (front back : List QueueEntry) (s s₁ : State),
     s₁.recept.queue = front ++ back → k ≤ 48 → n = (s₁.recept.entryCounter + k) % 65536 →
     s₁.recept.entryCounter < 65536 →
     (∀ e ∈ s₁.recept.queue, e.number ≠ n) →
     (∀ j, j < k → ∃ e ∈ s₁.recept.queue, e.number = (s₁.recept.entryCounter + j) % 65536) →
     (∀ d, s.takes ⟨0x3B, tag, [a, b]⟩ = some s₁ → s₁.inDoc (inOf a b) = some d →
       (d.printState = .notQueued ∨ d.printState = .printed ∨ d.printState = .held) → d.pages ≠ [] →
       (s₁.recept.queue.length < 48 →
         (d.urgent = false ∧ back = [] ∨
           d.urgent = true ∧ (∀ e ∈ back, e.urgent = false ∧ e.begun = false) ∧
             (∀ e, front.getLast? = some e → e.urgent = true ∨ e.begun = true)) →
         exec (.printDoc tag [a, b]) s = .next (reply 0x3B tag .ok (e16 n ++ e8 front.length)
           { s₁ with recept := { s₁.recept with
             docs := s₁.recept.docs.set a.toNat { d with printState := .queued },
             queue := front ++ { number := n, job := .document (inOf a b), urgent := d.urgent, begun := false } :: back,
             entryCounter := (n + 1) % 65536 } })) ∧
       (48 ≤ s₁.recept.queue.length → exec (.printDoc tag [a, b]) s = .next (refuse 0x3B tag .tableFull s₁))) ∧
     (∀ d, s.takes ⟨0x3B, tag, [a, b]⟩ = some s₁ → s₁.inDoc (inOf a b) = some d →
       (d.printState = .queueWait ∨ d.printState = .queued ∨ d.printState = .printing ∨ d.pages = []) →
       exec (.printDoc tag [a, b]) s = .next (refuse 0x3B tag .wrongState s₁)) ∧
     ∀ e, s.takes ⟨0x3C, tag, [a, b]⟩ = some s₁ → s₁.page (pageOf a b) = some e →
       (e.state = .opened → exec (.printPage tag [a, b]) s = .next (refuse 0x3C tag .wrongState s₁)) ∧
       (e.state = .closed → s₁.recept.queue.length < 48 → e.refs < 4095 → back = [] →
         exec (.printPage tag [a, b]) s = .next (reply 0x3C tag .ok (e16 n ++ e8 front.length)
           { s₁.setEntry (pageOf a b).slot { e with refs := e.refs + 1 } with recept := { s₁.recept with
             queue := front ++ [{ number := n, job := .page (pageOf a b), urgent := false, begun := false }],
             entryCounter := (n + 1) % 65536 } }))) ∧
  (∀ (tag a b : Byte) (s s₁ : State), s₁.scan.state ≠ .held →
     (∀ (i : Instr) (q : QueueEntry),
       (i = .printCancelEntry tag [0, a, b] ∧ s.takes ⟨0x3D, tag, [0, a, b]⟩ = some s₁ ∧
           s₁.recept.entryNumbered (nat16 a b) = some q ∨
         i = .printCancelDoc tag [1, a, b] ∧ s.takes ⟨0x3D, tag, [1, a, b]⟩ = some s₁ ∧
           s₁.recept.entryOf (inOf a b) = some q ∧
           ∃ d, s₁.inDoc (inOf a b) = some d ∧ (d.printState = .queued ∨ d.printState = .printing)) →
       (∀ h, q.job = .page h → ∃ e, s₁.page h = some e ∧ 1 < e.refs) →
       ∃ t, exec i s = .next (reply 0x3D tag .ok (1 :: e16 q.number ++ e8 t.recept.queue.length) t) ∧
         OnlyChanges [.recept, .store, .engine] s₁ t ∧
         (∀ h e, q.job = .page h → s₁.page h = some e →
           t.entry h.slot = { e with refs := e.refs - 1 } ∧ ∀ k, k ≠ h.slot → t.entry k = s₁.entry k) ∧
         (q.begun = false → t.engine = s₁.engine) ∧
         (q.begun = true →
           t.engine.entry = none ∧ t.engine.page = none ∧ t.engine.ring = [] ∧
           t.engine.cutFeed = (s₁.engine.cutFeed || s₁.engine.uncut) ∧ ∀ r ∈ t.store.waiting, r.client ≠ .print) ∧
         (s₁.recept.waitList = [] →
           t.recept.queue = s₁.recept.queue.filter (fun e => decide (e.number ≠ q.number)) ∧
           (∀ h, q.job = .document h →
             t.recept.docs = s₁.recept.docs.set h.slot { s₁.recept.docs.get h.slot with printState := .held })) ∧
         ∀ w rest, s₁.recept.waitList = w :: rest →
           t.recept.waitList = rest ∧ (t.recept.docs.get w.slot).printState = .queued ∧
           ∃ e ∈ t.recept.queue, e.job = .document w) ∧
     (s.takes ⟨0x3D, tag, [0, a, b]⟩ = some s₁ → s₁.recept.entryNumbered (nat16 a b) = none →
       exec (.printCancelEntry tag [0, a, b]) s = .next (refuse 0x3D tag .noSuchEntry s₁)) ∧
     ∀ d, s.takes ⟨0x3D, tag, [1, a, b]⟩ = some s₁ → s₁.inDoc (inOf a b) = some d →
       (d.printState = .queueWait →
         exec (.printCancelDoc tag [1, a, b]) s = .next (reply 0x3D tag .ok (0 :: e8 s₁.recept.queue.length)
           { s₁ with recept := { s₁.recept with
             docs := s₁.recept.docs.set a.toNat { d with printState := .held },
             waitList := s₁.recept.waitList.filter fun h => decide (h ≠ inOf a b) } })) ∧
       ((d.printState = .notQueued ∨ d.printState = .printed ∨ d.printState = .held) →
         exec (.printCancelDoc tag [1, a, b]) s = .next (refuse 0x3D tag .wrongState s₁)))

/-- With no entry in hand and no stop the engine begins the entry at the queue's head (R138 to R140): its first page is
taken with its class, everything of the decode starts anew and the page's first block is asked for at level 2; a
document being received that has no page yet leaves the engine in WAIT_PAGE. A head line is struck (R143 to R146):
COARSE strikes each line twice, FINE once, EXTRA the two lines joined dot by dot (one alone at the page's end); the
slots used are freed and the paper is uncut. The last one ends the page: its damaged lines are recorded and the cut
feed begins; the page index advances and the next page of the document's list is taken at once, its decode begun anew,
or the engine waits in WAIT_PAGE for a document still being received (R145, R147); the last page ends the entry, and
PRINT_DONE is raised (R146), a document freed and its references lowered with auto-discard on (R120, R129). Before the
decode has ended a slot freed lets the decoder go on and the next block be asked for, and one line alone of an EXTRA
page waits. A page closed and listed while the engine waits for it is taken as it is listed (R147). The cut feed's end
leaves no uncut paper. A block read for the engine joins the decoder's stream, the decoder goes on with it, and the
page's next block is asked for while one of the two block buffers is free and there is one (R140, R142).
The model's choices it rests on: logs 2, 9, 16, 38. -/
def Obligations.EnginePrints : Prop :=
  (∀ (q : QueueEntry) (rest : List QueueEntry) (s : State), s.power = true → s.scan.state ≠ .held →
     s.recept.queue = q :: rest → s.engine.entry = none → s.engine.stopped = false →
     (∀ (p : PageHandle) (e : PageEntry) (docs : Table InDoc),
       (q.job = .page p ∧ docs = s.recept.docs ∨
         ∃ h, q.job = .document h ∧ (s.recept.docs.get h.slot).pages[0]? = some p ∧
           docs = s.recept.docs.set h.slot { s.recept.docs.get h.slot with printState := .printing }) →
       s.page p = some e → e.state = .closed → 0 < e.byteLen → 0 < e.committed →
       exec .printEntryBegin s = .next { s with
         recept := { s.recept with queue := { q with begun := true } :: rest, docs },
         engine := { s.engine with
           entry := some q.number, index := 0, page := some p, cls := e.cls, printed := 0, struck := 0, damaged := 0,
           ring := [], readSlot := 0, writeSlot := 0, halfStruck := false, decoder := { Decoder.reset with asked := 1 },
           pageStrikes := 0 },
         store := { s.store with waiting := s.store.waiting ++ [{ client := .print, level := 2, op := .read p 0 }] } }) ∧
     ∀ h, q.job = .document h → (s.recept.docs.get h.slot).pages = [] → (s.recept.docs.get h.slot).state = .receiving →
       ∃ t, exec .printEntryBegin s = .next t ∧ t.engine.state = .waitPage ∧ t.engine.entry = some q.number ∧
         (t.recept.docs.get h.slot).printState = .printing ∧ OnlyChanges [.recept, .engine] s t) ∧
  (∀ (h : PageHandle) (n frees : Nat) (dots : DotLine) (s : State), s.power = true → s.scan.state ≠ .held →
     (s.engine.cutFeed = true →
       exec .cutFeedDone s = .next { s with engine := { s.engine with cutFeed := false, uncut := false } } ∧
       exec .headLineStruck s = .next s) ∧
     (s.engine.cutFeed = false → exec .cutFeedDone s = .next s) ∧
     (s.engine.entry = some n → s.engine.page = some h → s.engine.stopped = false → s.engine.cutFeed = false →
       s.engine.decoder.ended = true →
       (s.engine.cls = .coarse ∧ s.engine.ring[0]? = some dots ∧ frees = (if s.engine.halfStruck then 1 else 0) ∨
         s.engine.cls = .fine ∧ s.engine.ring[0]? = some dots ∧ frees = 1 ∨
         s.engine.cls = .extra ∧ s.engine.ring = [dots] ∧ frees = 1 ∨
         ∃ x y, s.engine.cls = .extra ∧ s.engine.ring[0]? = some x ∧ s.engine.ring[1]? = some y ∧ frees = 2 ∧
           dots = List.zipWith (fun p q => p || q) x y) →
       let fired := strikes s.cfg.strikeLimit dots
       (frees < s.engine.ring.length →
         ∃ t, exec .headLineStruck s = .next t ∧ OnlyChanges [.engine, .store] s t ∧
           t.engine = { s.engine with
             ring := s.engine.ring.drop frees, readSlot := (s.engine.readSlot + frees) % 16,
             halfStruck := decide (s.engine.cls = .coarse ∧ frees = 0), struck := min 13824 (s.engine.struck + 1),
             uncut := true, lastStrikes := fired, pageStrikes := s.engine.pageStrikes + fired.length }) ∧
       (∀ (q : QueueEntry) (r : PageEntry), frees = s.engine.ring.length → s.recept.entryNumbered n = some q →
         s.recept.waitList = [] → s.page h = some r → 1 < r.refs → q.number = n → s.engine.index < 255 →
         (q.job = .page h ∧ s.engine.index = 0 ∨ ∃ g, q.job = .document g ∧ s.cfg.autoDiscard = false ∧
           (s.recept.docs.get g.slot).pages.length = s.engine.index + 1 ∧
           (s.recept.docs.get g.slot).state ≠ .receiving) →
         ∃ t, exec .headLineStruck s = .next t ∧ OnlyChanges [.engine, .store, .recept, .link] s t ∧
           t.entry h.slot = { r with
             damagedLines := s.engine.damaged, refs := if q.job = .page h then r.refs - 1 else r.refs } ∧
           t.engine.entry = none ∧ t.engine.page = none ∧ t.engine.ring = [] ∧ t.engine.cutFeed = true ∧
           t.engine.uncut = true ∧ t.engine.printed = min 255 (s.engine.printed + 1) ∧
           t.recept.queue = s.recept.queue.filter (fun e => decide (e.number ≠ n)) ∧
           (∀ g, q.job = .document g → (t.recept.docs.get g.slot).printState = .printed) ∧
           t.link = (raise .printDone (printDoneFields q (min 255 (s.engine.printed + 1)) false) s).link) ∧
       (∀ (q : QueueEntry) (g : InHandle) (r : PageEntry), frees = s.engine.ring.length →
         s.recept.entryNumbered n = some q → s.recept.waitList = [] → s.page h = some r → q.number = n →
         s.engine.index < 255 → q.job = .document g → s.cfg.autoDiscard = true →
         let d := s.recept.docs.get g.slot
         d.pages.length = s.engine.index + 1 → d.state ≠ .receiving →
         let ended (t : State) : Prop :=
           t.engine.entry = none ∧ t.engine.page = none ∧ t.engine.ring = [] ∧ t.engine.cutFeed = true ∧
             t.engine.uncut = true ∧ t.engine.printed = min 255 (s.engine.printed + 1) ∧
             t.recept.queue = s.recept.queue.filter (fun e => decide (e.number ≠ n)) ∧
             t.recept.docs.get g.slot = .freeWith ((d.issue + 1) % 256) ∧
             (∀ k, k ≠ g.slot → t.recept.docs.get k = s.recept.docs.get k) ∧
             OnlyChanges [.engine, .store, .recept, .link] s t
         ((∀ p ∈ d.pages, ∃ e, s.page p = some e ∧ d.pages.count p < e.refs) →
           ∃ t, exec .headLineStruck s = .next t ∧ ended t ∧ t.store.pool = s.store.pool ∧
             (∀ k, t.entry k = { s.entry k with
               damagedLines := if k = h.slot then s.engine.damaged else (s.entry k).damagedLines,
               refs := (s.entry k).refs - (d.pages.filter fun p => decide (p.slot = k)).length }) ∧
             t.link = (raise .printDone (printDoneFields q (min 255 (s.engine.printed + 1)) true) s).link) ∧
         (d.pages = [h] → s.store.accounted → r.state = .closed → r.refs = 1 → r.pins = 0 →
           ∃ t, exec .headLineStruck s = .next t ∧ ended t ∧ PageReleased h r s t ∧
             (s.link.mask = 0 → s.link.notices.length ≤ 30 → ∃ x ∈ t.link.notices, x.kind = .printDone ∧
               x.fields = printDoneFields q (min 255 (s.engine.printed + 1)) true))) ∧
       ∀ (q : QueueEntry) (g : InHandle) (r : PageEntry), frees = s.engine.ring.length →
         s.recept.entryNumbered n = some q → q.job = .document g → s.page h = some r →
         let index := min 255 (s.engine.index + 1)
         let spent : Engine := { s.engine with
           ring := [], readSlot := 0, writeSlot := 0, halfStruck := false, decoder := .reset, struck := 0, damaged := 0,
           printed := min 255 (s.engine.printed + 1), page := none, cutFeed := true, uncut := true, index,
           lastStrikes := fired, pageStrikes := s.engine.pageStrikes + fired.length }
         let waiting := s.store.waiting.filter fun x => decide (x.client ≠ .print)
         ((s.recept.docs.get g.slot).pages[index]? = none → (s.recept.docs.get g.slot).state = .receiving →
           ∃ t, exec .headLineStruck s = .next t ∧ t.engine = spent ∧ t.engine.state = .waitPage ∧
             t.entry h.slot = { r with damagedLines := s.engine.damaged } ∧ t.store.waiting = waiting ∧
             OnlyChanges [.engine, .store] s t) ∧
         ∀ p e, (s.recept.docs.get g.slot).pages[index]? = some p → s.page p = some e → e.state = .closed →
           0 < e.byteLen → 0 < e.committed →
           ∃ t, exec .headLineStruck s = .next t ∧
             t.engine = { spent with
               page := some p, cls := e.cls, pageStrikes := 0, decoder := { Decoder.reset with asked := 1 } } ∧
             t.entry h.slot = { r with damagedLines := s.engine.damaged } ∧
             t.store.waiting = waiting ++ [{ client := .print, level := 2, op := .read p 0 }] ∧
             OnlyChanges [.engine, .store] s t) ∧
     (s.engine.entry = some n → s.engine.page = some h → s.engine.stopped = false → s.engine.cutFeed = false →
       s.engine.decoder.ended = false →
       (s.engine.cls = .extra → s.engine.ring = [dots] → exec .headLineStruck s = .next s) ∧
       ∀ r : PageEntry, s.page h = some r → r.state = .closed →
         (s.engine.cls = .coarse ∧ s.engine.ring[0]? = some dots ∧ frees = (if s.engine.halfStruck then 1 else 0) ∨
           s.engine.cls = .fine ∧ s.engine.ring[0]? = some dots ∧ frees = 1 ∨
           ∃ x y, s.engine.cls = .extra ∧ s.engine.ring[0]? = some x ∧ s.engine.ring[1]? = some y ∧ frees = 2 ∧
             dots = List.zipWith (fun p q => p || q) x y) →
         let fired := strikes s.cfg.strikeLimit dots
         let e := decodeOn r.byteLen { s.engine with
           ring := s.engine.ring.drop frees, readSlot := (s.engine.readSlot + frees) % 16,
           halfStruck := decide (s.engine.cls = .coarse ∧ frees = 0), struck := min 13824 (s.engine.struck + 1),
           uncut := true, lastStrikes := fired, pageStrikes := s.engine.pageStrikes + fired.length }
         (e.decoder.ended = true → e.ring ≠ [] → s.store.port = none → exec .headLineStruck s = .next { s with
           engine := e,
           store := { s.store with waiting := s.store.waiting.filter fun x => decide (x.client ≠ .print) } }) ∧
         (e.decoder.ended = false →
           (e.decoder.asked = e.decoder.delivered → e.decoder.asked < r.committed →
             e.decoder.asked < e.decoder.decoded / 256 + 2 →
             exec .headLineStruck s = .next { s with
               engine := { e with decoder := { e.decoder with asked := e.decoder.asked + 1 } },
               store := { s.store with waiting := s.store.waiting ++
                 [{ client := .print, level := 2, op := .read h e.decoder.asked }] } }) ∧
           ((e.decoder.asked ≠ e.decoder.delivered ∨ r.committed ≤ e.decoder.asked ∨
               e.decoder.decoded / 256 + 2 ≤ e.decoder.asked) →
             exec .headLineStruck s = .next { s with engine := e })))) ∧
  (∀ (l : LineNo) (lineCount n : Nat) (next : Option ResClass) (c : CallRec) (h : InHandle) (d : InDoc) (p : PageHandle)
     (e : PageEntry) (q : QueueEntry) (s : State), s.power = true → s.scan.state ≠ .held →
     let x := s.line l
     x.listening = true → x.state = .receiving → x.proc.storing = false → x.params.pageSeq < 256 →
     x.recv.finalDone = true → lineCount ≤ 65535 → x.recv.short = [] → x.call = some c → c.inbound = some h →
     s.inDoc h = some d → d.inPage = some p → d.pages ≠ [] → d.pages.length = s.engine.index → s.page p = some e →
     e.refs < 4095 → 0 < e.byteLen → 0 < e.committed → s.engine.state = .waitPage → s.engine.entry = some n →
     s.recept.entryNumbered n = some q → q.job = .document h →
     ∃ t, exec (.pageEndReceived l x.params.pageSeq lineCount next) s = .next t ∧
       t.engine = { s.engine with
         page := some p, cls := e.cls, struck := 0, damaged := 0, ring := [], readSlot := 0, writeSlot := 0,
         halfStruck := false, pageStrikes := 0, decoder := { Decoder.reset with asked := 1 } } ∧
       t.engine.state = .decodingPrinting ∧
       t.store.waiting = s.store.waiting ++ [{ client := .print, level := 2, op := .read p 0 }] ∧
       t.recept = { s.recept with docs := s.recept.docs.set h.slot { d with pages := d.pages ++ [p], inPage := none } } ∧
       OnlyChanges [.lines, .link, .store, .recept, .engine] s t) ∧
  ∀ (h : PageHandle) (r : PageEntry) (k level addr : Nat) (s : State), s.power = true → s.scan.state ≠ .held →
    s.store.port = some { req := { client := .print, level, op := .read h k }, addr, void := false } →
    s.engine.page = some h → s.engine.stopped = false → s.page h = some r → r.state = .closed →
    let e := decodeOn r.byteLen { s.engine with decoder := { s.engine.decoder with
      delivered := s.engine.decoder.delivered + 1,
      stream := s.engine.decoder.stream ++ Memory.readBlock s.mem addr } }
    e.decoder.ended = false →
    (e.decoder.asked = e.decoder.delivered → e.decoder.asked < r.committed →
      e.decoder.asked < e.decoder.decoded / 256 + 2 →
      exec (.blockReadComplete []) s = .next { s with
        engine := { e with decoder := { e.decoder with asked := e.decoder.asked + 1 } },
        store := { s.store with port := none, waiting := s.store.waiting ++
          [{ client := .print, level := 2, op := .read h e.decoder.asked }] } }) ∧
    ((r.committed ≤ e.decoder.asked ∨ e.decoder.decoded / 256 + 2 ≤ e.decoder.asked) →
      exec (.blockReadComplete []) s = .next { s with engine := e, store := { s.store with port := none } })

/-- The strikes of a head line (R144): the head's eight blocks of 216 dots are taken in order, a block joining the strike
being formed while the strike limit allows it and otherwise beginning the next; a strike without a black dot is not
fired. No strike exceeds the limit, and together they fire every black dot. -/
def Obligations.StrikesWithinLimit : Prop :=
  ∀ (limit : Nat) (dots : DotLine), 216 ≤ limit → limit ≤ 1728 → dots.length = 1728 →
    (∀ n ∈ strikes limit dots, 0 < n ∧ n ≤ limit) ∧ (strikes limit dots).sum = dots.count true ∧
    ∃ groups : List (List Nat), groups.flatten = headBlocks dots ∧ (∀ g ∈ groups, g ≠ []) ∧
      strikes limit dots = (groups.map List.sum).filter (fun n => decide (n ≠ 0)) ∧
      ∀ i g g', groups[i]? = some g → groups[i + 1]? = some g' → limit < g.sum + g'.headD 0

/-- Paper out, a jam and PRINT-PAUSE stop the engine (R148, R150, R151): the page in hand is interrupted, the ring
emptied, a page that had struck a line due to be printed again; paper out and a jam forget the uncut paper and raise
PRINTER_FAULT, a pause has printed paper fed and cut. When the last stop has cleared the page in hand is decoded and
printed again from its first octet, counted as a reprint when it had struck a line (R149). With no page in hand they
stop the engine likewise with nothing to interrupt, and at the resume it stays as it is with no entry, or chooses its
page afresh: the one listed meanwhile, or none. A stop that remains keeps the engine where it is; PRINT-RESUME is
refused BUSY while the jam sensor reports, and WRONG_STATE with nothing to resume.
The model's choices it rests on: logs 2, 15, 16, 38. -/
def Obligations.EngineStopsAndResumes : Prop :=
  (∀ (tag : Byte) (h : PageHandle) (s s₁ : State),
     let e := s.engine
     let cut : Engine := { e with
       ring := [], readSlot := 0, writeSlot := 0, halfStruck := false, decoder := .reset,
       reprintDue := e.reprintDue || decide (0 < e.struck), struck := 0, damaged := 0 }
     let empty : Engine := { e with ring := [], readSlot := 0, writeSlot := 0, halfStruck := false }
     (s.power = true → e.page = none → e.paperOut = false → exec .paperOut s =
       .next (raise .printerFault (0 :: eOpt e16 e.entry ++ eOpt ePage none ++ e16 e.struck)
         { s with engine := { empty with paperOut := true, uncut := false, cutFeed := false } })) ∧
     (s.power = true → e.page = none → e.jamLatched = false → exec .jam s =
       .next (raise .printerFault (1 :: eOpt e16 e.entry ++ eOpt ePage none ++ e16 e.struck)
         { s with engine := { empty with jamSensor := true, jamLatched := true, uncut := false, cutFeed := false } })) ∧
     (s.takes ⟨0x3E, tag, []⟩ = some s₁ → e.stopped = false → e.page = none → exec (.printPause tag []) s =
       .next (reply 0x3E tag .ok [5]
         { s₁ with engine := { empty with hostPause := true, cutFeed := e.cutFeed || e.uncut } })) ∧
     (s.power = true → e.paperOut = true → exec .paperOut s = .next s) ∧
     (s.power = true → e.page = some h → e.paperOut = false →
       ∃ t, exec .paperOut s = .next t ∧ OnlyChanges [.engine, .store, .link] s t ∧
         t.engine = { cut with paperOut := true, uncut := false, cutFeed := false } ∧
         t.link = (raise .printerFault (0 :: eOpt e16 e.entry ++ eOpt ePage e.page ++ e16 e.struck) s).link) ∧
     (s.power = true → e.page = some h → e.jamLatched = false →
       ∃ t, exec .jam s = .next t ∧ OnlyChanges [.engine, .store, .link] s t ∧
         t.engine = { cut with jamSensor := true, jamLatched := true, uncut := false, cutFeed := false } ∧
         t.link = (raise .printerFault (1 :: eOpt e16 e.entry ++ eOpt ePage e.page ++ e16 e.struck) s).link) ∧
     (s.power = true → e.jamLatched = true → exec .jam s = .next { s with engine := { e with jamSensor := true } }) ∧
     (s.power = true → exec .jamSensorClear s = .next { s with engine := { e with jamSensor := false } }) ∧
     (s.takes ⟨0x3E, tag, []⟩ = some s₁ → e.stopped = false → e.page = some h →
       ∃ t, exec (.printPause tag []) s = .next (reply 0x3E tag .ok [5] t) ∧ OnlyChanges [.engine, .store] s₁ t ∧
         t.engine = { cut with hostPause := true, cutFeed := e.cutFeed || e.uncut }) ∧
     (s.takes ⟨0x3E, tag, []⟩ = some s₁ → e.stopped = true →
       ∃ t, exec (.printPause tag []) s = .next (reply 0x3E tag .ok [t.engine.state.code] t) ∧
         t = { s₁ with engine := { e with hostPause := true } })) ∧
  (∀ (tag : Byte) (h : PageHandle) (r : PageEntry) (s s₁ : State), s.scan.state ≠ .held →
     let e := s.engine
     let again : Engine := { e with
       ring := [], readSlot := 0, writeSlot := 0, halfStruck := false, struck := 0, damaged := 0, pageStrikes := 0,
       reprints := if e.reprintDue then min 65535 (e.reprints + 1) else e.reprints, reprintDue := false,
       decoder := { Decoder.reset with asked := 1 } }
     let asked : Store := { s.store with waiting := s.store.waiting ++ [{ client := .print, level := 2, op := .read h 0 }] }
     (s.power = true → e.paperOut = false → exec .paperRestored s = .next s) ∧
     (s.power = true → e.paperOut = true → (e.jamLatched = true ∨ e.hostPause = true) →
       exec .paperRestored s = .next { s with engine := { e with paperOut := false } }) ∧
     (s.power = true → e.paperOut = true → e.jamLatched = false → e.hostPause = false → e.page = some h →
       s.page h = some r → r.state = .closed → 0 < r.committed →
       exec .paperRestored s = .next { s with engine := { again with paperOut := false }, store := asked }) ∧
     (s.power = true → e.paperOut = true → e.jamLatched = false → e.hostPause = false → e.page = none →
       (e.entry = none → exec .paperRestored s = .next { s with engine := { e with paperOut := false } }) ∧
       ∀ n q k, e.entry = some n → s.recept.entryNumbered n = some q → q.job = .document k →
         ((s.recept.docs.get k.slot).pages[e.index]? = none → (s.recept.docs.get k.slot).state = .receiving →
           exec .paperRestored s = .next { s with engine := { e with paperOut := false } }) ∧
         ((s.recept.docs.get k.slot).pages[e.index]? = some h → s.page h = some r → r.state = .closed → 0 < r.byteLen →
           0 < r.committed →
           exec .paperRestored s = .next { s with
             engine := { again with
               paperOut := false, page := some h, cls := r.cls, reprints := e.reprints, reprintDue := e.reprintDue },
             store := asked })) ∧
     (s.takes ⟨0x3F, tag, []⟩ = some s₁ → e.jamSensor = false → (e.hostPause = true ∨ e.jamLatched = true) →
       e.paperOut = false → e.page = none → e.entry = none →
       exec (.printResume tag []) s = .next (reply 0x3F tag .ok [0]
         { s₁ with engine := { e with hostPause := false, jamLatched := false } })) ∧
     (s.takes ⟨0x3F, tag, []⟩ = some s₁ → e.jamSensor = true →
       exec (.printResume tag []) s = .next (refuse 0x3F tag .busy s₁)) ∧
     (s.takes ⟨0x3F, tag, []⟩ = some s₁ → e.jamSensor = false → e.hostPause = false → e.jamLatched = false →
       exec (.printResume tag []) s = .next (refuse 0x3F tag .wrongState s₁)) ∧
     (s.takes ⟨0x3F, tag, []⟩ = some s₁ → e.jamSensor = false → (e.hostPause = true ∨ e.jamLatched = true) →
       (e.paperOut = true → exec (.printResume tag []) s = .next (reply 0x3F tag .ok [3]
         { s₁ with engine := { e with hostPause := false, jamLatched := false } })) ∧
       (e.paperOut = false → e.entry.isSome → e.page = some h → s.page h = some r → r.state = .closed → 0 < r.committed →
         exec (.printResume tag []) s = .next (reply 0x3F tag .ok [1]
           { s₁ with engine := { again with hostPause := false, jamLatched := false }, store := asked }))))


/-! ### Charging, desks and the call log (chapters 8 and 9) -/

/-- PREFIX-SET (R154 to R156): SET with digits 0-9 gives a prefix of 1-12 digits a zone, in its place of the list's order,
or with no digits the default zone; REMOVE takes the entry out. The lookup gives the zone of the longest prefix that
begins the number, and the default zone where none does.
The model's choices it rests on: logs 13, 15. -/
def Obligations.PrefixesSetAndLookedUp : Prop :=
  (∀ (tag : Byte) (digits : List Nat) (zone : Option Nat) (s s₁ : State),
    digits.length ≤ 255 → (∀ x ∈ digits, x ≤ 9) → (∀ z, zone = some z → z ≤ 255) →
    (s.takes ⟨0x48, tag, 0 :: (eDigits digits ++ eOpt e8 zone)⟩ = some s₁ →
      (12 < digits.length ∨ (∃ z, zone = some z ∧ 15 < z) →
        exec (.prefixSetSet tag (0 :: (eDigits digits ++ eOpt e8 zone))) s = .next (refuse 0x48 tag .badField s₁)) ∧
      ((∀ z, zone = some z → z ≤ 15) →
        (digits = [] → exec (.prefixSetSet tag (0 :: (eDigits digits ++ eOpt e8 zone))) s =
          .next (reply 0x48 tag .ok (e8 s₁.charge.prefixes.length ++ eOpt e8 zone ++ [0])
            { s₁ with charge := { s₁.charge with defaultZone := zone } })) ∧
        (digits ≠ [] → digits.length ≤ 12 → 128 ≤ s₁.charge.prefixes.length →
          (∀ e ∈ s₁.charge.prefixes, e.digits ≠ digits) →
          exec (.prefixSetSet tag (0 :: (eDigits digits ++ eOpt e8 zone))) s =
            .next (refuse 0x48 tag .tableFull s₁)) ∧
        (digits ≠ [] → digits.length ≤ 12 →
          (s₁.charge.prefixes.length < 128 ∨ ∃ e ∈ s₁.charge.prefixes, e.digits = digits) →
          s₁.charge.prefixes.Pairwise (fun x y => digitsBefore x.digits y.digits = true) →
          ∃ (prefixes : List PrefixEntry) (position : Nat),
            exec (.prefixSetSet tag (0 :: (eDigits digits ++ eOpt e8 zone))) s =
              .next (reply 0x48 tag .ok
                (e8 prefixes.length ++ eOpt e8 s₁.charge.defaultZone ++ 1 :: e8 position)
                { s₁ with charge := { s₁.charge with prefixes } }) ∧
            prefixes[position]? = some ⟨digits, zone⟩ ∧
            (∀ e, e ∈ prefixes ↔ e = ⟨digits, zone⟩ ∨ e ∈ s₁.charge.prefixes ∧ e.digits ≠ digits) ∧
            prefixes.Pairwise fun x y => digitsBefore x.digits y.digits = true))) ∧
    (s.takes ⟨0x48, tag, 1 :: eDigits digits⟩ = some s₁ → digits ≠ [] → digits.length ≤ 12 →
      ((∃ e ∈ s₁.charge.prefixes, e.digits = digits) →
        ∃ prefixes, prefixes = s₁.charge.prefixes.filter (fun e => decide (e.digits ≠ digits)) ∧
          exec (.prefixSetRemove tag (1 :: eDigits digits)) s =
            .next (reply 0x48 tag .ok (e8 prefixes.length ++ eOpt e8 s₁.charge.defaultZone)
              { s₁ with charge := { s₁.charge with prefixes } })) ∧
      ((∀ e ∈ s₁.charge.prefixes, e.digits ≠ digits) →
        exec (.prefixSetRemove tag (1 :: eDigits digits)) s = .next (refuse 0x48 tag .noSuchEntry s₁)))) ∧
  ∀ (c : Charging) (number : List Nat),
    (∀ e ∈ c.prefixes, e.digits <+: number →
      (∀ x ∈ c.prefixes, x.digits <+: number → x ≠ e → x.digits.length < e.digits.length) → c.lookup number = e.zone) ∧
    ((∀ x ∈ c.prefixes, ¬ x.digits <+: number) → c.lookup number = c.defaultZone)

/-- The tariff tables: ZONE-SET, RATE-SET, BAND-SET, WEEKDAY-SET, HOLIDAY-SET and PRICE-SET put one item in its place,
numbers clamped to their ranges, band starts in ascending order, and answer with the row, list or map as it then stands
(R157 to R160, R162). Nothing else changes; an entry that there is not is refused, and with BAD_FIELD a value that is
none: a rounding, a day type, a start minute or a band out of its set, a start given twice, a date out of the calendar.
The model's choices it rests on: logs 13, 15. -/
def Obligations.TariffTablesSet : Prop :=
  ∀ (tag : Byte) (s s₁ : State),
    (∀ (z mode m : Byte), s.takes ⟨0x49, tag, [z, mode, m]⟩ = some s₁ →
      (∀ rounding, z.toNat ≤ 15 → ZoneRounding.code rounding = mode →
        ∃ c : Charging, exec (.zoneSet tag [z, mode, m]) s =
            .next (reply 0x49 tag .ok (zoneRowFields c z.toNat) { s₁ with charge := c }) ∧
          c = { s₁.charge with zones := c.zones } ∧ ∀ k, c.zones.get k = if k = z.toNat then
            { s₁.charge.zones.get k with rounding, minimum := min 15 m.toNat } else s₁.charge.zones.get k) ∧
      (15 < z.toNat → exec (.zoneSet tag [z, mode, m]) s = .next (refuse 0x49 tag .noSuchEntry s₁)) ∧
      (z.toNat ≤ 15 → 2 ≤ mode.toNat → exec (.zoneSet tag [z, mode, m]) s = .next (refuse 0x49 tag .badField s₁))) ∧
    (∀ (z b setup p1 p0 : Byte), s.takes ⟨0x4D, tag, [z, b, setup, p1, p0]⟩ = some s₁ →
      (z.toNat ≤ 15 → b.toNat ≤ 7 →
        ∃ c : Charging, exec (.rateSet tag [z, b, setup, p1, p0]) s =
            .next (reply 0x4D tag .ok (zoneRowFields c z.toNat) { s₁ with charge := c }) ∧
          c = { s₁.charge with zones := c.zones } ∧ ∀ k, c.zones.get k = if k = z.toNat then
            { s₁.charge.zones.get k with
              rates := (s₁.charge.zones.get k).rates.set b.toNat ⟨min 15 setup.toNat, 256 * p1.toNat + p0.toNat⟩ }
            else s₁.charge.zones.get k) ∧
      (15 < z.toNat ∨ 7 < b.toNat →
        exec (.rateSet tag [z, b, setup, p1, p0]) s = .next (refuse 0x4D tag .noSuchEntry s₁))) ∧
    (∀ (day : DayType) (starts : List (Nat × Nat)), starts.length ≤ 255 → (∀ x ∈ starts, x.1 < 65536 ∧ x.2 < 256) →
      s.takes ⟨0x4A, tag, day.code :: (e8 starts.length ++ starts.flatMap fun x => e16 x.1 ++ e8 x.2)⟩ = some s₁ →
      (starts.length ≤ 8 → (∀ x ∈ starts, x.1 ≤ 1439 ∧ x.2 ≤ 7) → (starts.map (·.1)).Nodup →
        ∃ (c : Charging) (kept : List (Nat × Nat)),
          exec (.bandSet tag (day.code :: (e8 starts.length ++ starts.flatMap fun x => e16 x.1 ++ e8 x.2))) s =
            .next (reply 0x4A tag .ok (e8 kept.length ++ kept.flatMap fun x => e16 x.1 ++ e8 x.2)
              { s₁ with charge := c }) ∧
          kept.Perm starts ∧ kept.Pairwise (fun x y => x.1 < y.1) ∧ c.schedule day = kept ∧
          (∀ other, other ≠ day → c.schedule other = s₁.charge.schedule other) ∧
          c = { s₁.charge with workday := c.workday, saturday := c.saturday, restDay := c.restDay }) ∧
      (8 < starts.length ∨ (∃ x ∈ starts, 1439 < x.1 ∨ 7 < x.2) ∨ ¬ (starts.map (·.1)).Nodup →
        exec (.bandSet tag (day.code :: (e8 starts.length ++ starts.flatMap fun x => e16 x.1 ++ e8 x.2))) s =
          .next (refuse 0x4A tag .badField s₁))) ∧
    (∀ (b : Byte) (starts : List (Nat × Nat)), 3 ≤ b.toNat → starts.length ≤ 255 →
      s.takes ⟨0x4A, tag, b :: (e8 starts.length ++ starts.flatMap fun x => e16 x.1 ++ e8 x.2)⟩ = some s₁ →
      exec (.bandSet tag (b :: (e8 starts.length ++ starts.flatMap fun x => e16 x.1 ++ e8 x.2))) s =
        .next (refuse 0x4A tag .badField s₁)) ∧
    (∀ body : List Byte, body.length = 7 → (∃ b ∈ body, 3 ≤ b.toNat) → s.takes ⟨0x4B, tag, body⟩ = some s₁ →
      exec (.weekdaySet tag body) s = .next (refuse 0x4B tag .badField s₁)) ∧
    (∀ n y m d : Byte, n.toNat ≤ 15 → (dateOf y m d).valid = false → s.takes ⟨0x4C, tag, [n, 1, y, m, d]⟩ = some s₁ →
      exec (.holidaySet tag [n, 1, y, m, d]) s = .next (refuse 0x4C tag .badField s₁)) ∧
    (∀ days : List DayType, days.length = 7 → s.takes ⟨0x4B, tag, days.map DayType.code⟩ = some s₁ →
      exec (.weekdaySet tag (days.map DayType.code)) s = .next (reply 0x4B tag .ok (days.map DayType.code)
        { s₁ with charge := { s₁.charge with weekdays := days } })) ∧
    (∀ (n : Byte) (date : Option Date), (∀ d, date = some d → d.valid = true) →
      s.takes ⟨0x4C, tag, n :: eOpt eDate date⟩ = some s₁ →
      (n.toNat ≤ 15 → exec (.holidaySet tag (n :: eOpt eDate date)) s =
        .next (reply 0x4C tag .ok (((s₁.charge.holidays.set n.toNat date).toList 16).flatMap (eOpt eDate))
          { s₁ with charge := { s₁.charge with holidays := s₁.charge.holidays.set n.toNat date } })) ∧
      (15 < n.toNat → exec (.holidaySet tag (n :: eOpt eDate date)) s = .next (refuse 0x4C tag .noSuchEntry s₁))) ∧
    ∀ p1 p0 : Byte, s.takes ⟨0x4E, tag, [p1, p0]⟩ = some s₁ →
      exec (.priceSet tag [p1, p0]) s = .next (reply 0x4E tag .ok (e16 (max 1 (256 * p1.toNat + p0.toNat)))
        { s₁ with charge := { s₁.charge with price := max 1 (256 * p1.toNat + p0.toNat) } })

/-- The charge of a connected OUT call (R167 to R173): its time is cut at every midnight and band start strictly inside
it; each piece charges its tenths against the period of the band in force, 256ths of a unit cut down; the sum is
rounded to whole units by the zone's mode, the setup units of the band at connect and the minimum come in, and the
units, computed or metered, bear the price. A metering pulse counts while a metered call is captured, to 65535 (R165). -/
def Obligations.ConnectedCallCharged : Prop :=
  (∀ (c : Charging) (tolerance : Nat) (ch : ChargeState) (connect release : DateTime),
    (∀ day, ∀ st ∈ c.schedule day, st.1 ≤ 1439) →
    let D := if release.tenths < connect.tenths then 0 else min 864000 (release.tenths - connect.tenths)
    let stop := connect.tenths + D
    let f := outFigures c tolerance ch connect release
    let setup := (rateAt ch.rates (bandAt c connect)).setup
    ∃ (cuts : List Nat) (units : Nat),
      cuts.Pairwise (fun x y => x < y) ∧
      (∀ x, x ∈ cuts ↔ connect.tenths < x ∧ x < stop ∧
        (x % 864000 = 0 ∨ ∃ st ∈ c.schedule (dayType c (dateOfDays (x / 864000))), x % 864000 = 600 * st.1)) ∧
      (let pieces := List.zipWith (fun a b => (a, b - a)) (connect.tenths :: cuts) (cuts ++ [stop])
       let sum := (pieces.map fun p =>
         256 * p.2 / (rateAt ch.rates (bandAt c (timeOfTenths p.1))).period).sum
       (ch.rounding = .up → sum ≤ 256 * units ∧ 256 * units < sum + 256) ∧
       (ch.rounding = .nearestEven → sum ≤ 256 * units + 128 ∧ 256 * units ≤ sum + 128 ∧
         (sum % 256 = 128 → units % 2 = 0))) ∧
      f.duration = D ∧ f.computed = min 65535 (max ch.minimum (setup + units)) ∧
      (f.flags.clockStep = true ↔ release.tenths < connect.tenths) ∧
      (f.flags.long = true ↔ connect.tenths + 864000 < release.tenths) ∧
      (ch.metered = false → f.metered = none ∧ f.units = f.computed ∧ f.cost = f.computed * ch.price ∧
        f.flags.mismatch = false ∧ (f.flags.unitsSat = true ↔ 65535 < max ch.minimum (setup + units))) ∧
      (ch.metered = true → ch.saturated = false →
        f.metered = some ch.pulses ∧ f.units = ch.pulses ∧ f.cost = ch.pulses * ch.price ∧
        (f.flags.mismatch = true ↔ tolerance + f.computed < ch.pulses ∨ tolerance + ch.pulses < f.computed)) ∧
      (ch.metered = true → ch.saturated = true →
        f.metered = some 65535 ∧ f.cost = 65535 * ch.price ∧ f.flags.unitsSat = true)) ∧
  ∀ (l : LineNo) (s : State), s.power = true →
    let x := s.line l
    ((x.charging.captured = false ∨ x.charging.metered = false) → exec (.meteringPulse l) s = .next (s.setLine l x)) ∧
    (x.charging.captured = true → x.charging.metered = true →
      exec (.meteringPulse l) s = .next (s.setLine l { x with charging := { x.charging with
        pulses := if x.charging.pulses < 65535 then x.charging.pulses + 1 else x.charging.pulses,
        saturated := x.charging.saturated || decide (65535 ≤ x.charging.pulses) } }))

/-- Desks and the log (R177 to R180, R188): a call's units and cost join its desk, and the limit test after every change
raises DESK_LIMIT once as the cost reaches the limit and lifts it below; DESK-SET sets or removes the limit, DESK-CLEAR
clears totals of one desk or of all, LOG-DISCARD drops the oldest records and lets the dispatcher pass.
The model's choices it rests on: logs 13, 15, 16, 24. -/
def Obligations.DesksAndLogKept : Prop :=
  (∀ (n units cost : Nat) (s : State),
    let d := s.desk n
    let d' : Desk := { d with
      cost := min 4294967295 (d.cost + cost), units := min 4294967295 (d.units + units), calls := min 65535 (d.calls + 1),
      saturated := d.saturated || decide (4294967295 < d.cost + cost) }
    (∀ m, d.limit = some m → m ≤ d'.cost → d.reached = false →
      deskAdd n units cost s = raise .deskLimit (e8 n ++ e32 d'.cost ++ e32 m ++ e16 d'.calls)
        { s with desks := s.desks.set n d' |>.set n { d' with reached := true } }) ∧
    ((∀ m, d.limit = some m → d'.cost < m ∨ d.reached = true) → (d.limit = none → d.reached = false) →
      (∀ m, d.limit = some m → d.reached = true → m ≤ d'.cost) →
      deskAdd n units cost s = { s with desks := s.desks.set n d' })) ∧
  ∀ (tag : Byte) (s s₁ : State),
    (∀ (n : Byte) (limit : Option Nat), (∀ m, limit = some m → m < 4294967296) →
      s.takes ⟨0x4F, tag, n :: eOpt e32 limit⟩ = some s₁ →
      (15 < n.toNat → exec (.deskSet tag (n :: eOpt e32 limit)) s = .next (refuse 0x4F tag .noSuchEntry s₁)) ∧
      (n.toNat ≤ 15 →
        let d := s₁.desk n.toNat
        let limit' := limit.map (max 1)
        let reached' := decide (∃ m ∈ limit', m ≤ d.cost)
        ∃ t, exec (.deskSet tag (n :: eOpt e32 limit)) s =
            .next (reply 0x4F tag .ok (deskFields { d with limit := limit', reached := reached' }) t) ∧
          (∀ k, t.desk k = if k = n.toNat then { d with limit := limit', reached := reached' } else s₁.desk k) ∧
          (d.reached = true → reached' = false → t.docs = { s₁.docs with passAsked := true } ∧ t.link = s₁.link) ∧
          (d.reached = false → reached' = true → t.docs = s₁.docs ∧
            t.link = (raise .deskLimit (e8 n.toNat ++ e32 d.cost ++ e32 (limit'.getD 0) ++ e16 d.calls) s₁).link) ∧
          (d.reached = reached' → t.docs = s₁.docs ∧ t.link = s₁.link) ∧
          OnlyChanges [.desks, .docs, .link] s₁ t)) ∧
    (∀ (one : Option Nat), (∀ n, one = some n → n ≤ 255) → s.takes ⟨0x51, tag, eOpt e8 one⟩ = some s₁ →
      ((∃ n, one = some n ∧ 15 < n) →
        exec (.deskClear tag (eOpt e8 one)) s = .next (refuse 0x51 tag .noSuchEntry s₁)) ∧
      ((∀ n, one = some n → n ≤ 15) →
        let ns := match one with
          | some n => [n]
          | none => List.range 16
        ∃ t, exec (.deskClear tag (eOpt e8 one)) s =
            .next (reply 0x51 tag .ok (e8 ns.length ++ ns.flatMap fun n => deskFields (s₁.desk n)) t) ∧
          (∀ k, t.desk k = if k ∈ ns then
              { s₁.desk k with cost := 0, units := 0, calls := 0, saturated := false, reached := false }
            else s₁.desk k) ∧
          t.docs = { s₁.docs with passAsked := s₁.docs.passAsked || ns.any fun n => (s₁.desk n).reached } ∧
          OnlyChanges [.desks, .docs] s₁ t)) ∧
    ∀ a b : Byte, s.takes ⟨0x53, tag, [a, b]⟩ = some s₁ →
      let k := min (min 256 (256 * a.toNat + b.toNat)) s₁.log.records.length
      let left := s₁.log.records.drop k
      exec (.logDiscard tag [a, b]) s =
        .next (reply 0x53 tag .ok (e16 k ++ e16 left.length ++ eOpt e16 (left.head?.map fun r => r.sequence))
          { s₁ with
            log := { s₁.log with records := left, armed := s₁.log.armed || decide (left.length < 224) },
            docs := { s₁.docs with passAsked := s₁.docs.passAsked || decide (0 < k) } })

/-! ### Readings and resets -/

/-- The commands that read change nothing of the part but the reply they add, whose fields follow the rule of each:
R212, R213, R23, R44 (which keeps the sensor's reading), R70, R71, R82, R75, R134, R135, R156 to R160, R162, R181, R187
and R199. A selector or operation octet, an optional operand and the order of fields are the model's where the rule
gives none, and so is a table or list without a count.
The model's choices it rests on: logs 13, 15, 19, 56. -/
def Obligations.ReadingsOnlyAnswer : Prop :=
  (∀ (i : Instr) (kind tag : Byte) (body fields : List Byte) (s s₁ : State), s.takes ⟨kind, tag, body⟩ = some s₁ →
    (i = .identify tag body ∧ kind = 0x01 ∧ body = [] ∧
        fields = eChars vendorName ++ eChars partName ++ [1, 4] ++ e16 8192 ++ e16 1024 ++ eChars s₁.cfg.identity ++
          [s₁.link.rate.code] ++ e8 s₁.link.mask ++ e8 s₁.link.held.length ++ e8 s₁.link.replies.length ++
          e8 s₁.link.notices.length ++ e8 s₁.link.lost ∨
      i = .configGet tag body ∧ kind = 0x05 ∧ body = [] ∧ fields = configFields s₁.cfg ∨
      (∃ a b e, i = .pageInfo tag body ∧ kind = 0x14 ∧ body = [a, b] ∧ s₁.page (pageOf a b) = some e ∧
        fields = pageFields e ++ e16 s₁.freeCount ++ e16 s₁.cfg.receptionReserve ++ e8 s₁.openPages ++
          if e.state = .opened ∧ e.origin = some .host then 1 :: e8 e.pending.length else [0]) ∨
      (∃ a b d, i = .docStatus tag body ∧ kind = 0x2D ∧ body = [a, b] ∧ s₁.doc (docOf a b) = some d ∧
        fields = docStatusFields s₁ d) ∨
      (∃ a b f n d, i = .docDestStatus tag body ∧ kind = 0x2E ∧ body = [a, b, f, n] ∧ s₁.doc (docOf a b) = some d ∧
        f.toNat < d.dests.length ∧ 1 ≤ n.toNat ∧ n.toNat ≤ 10 ∧ (∀ r ∈ d.dests, (s₁.dest r).isSome) ∧
        fields = e8 (min n.toNat (d.dests.length - f.toNat)) ++
          ((List.range' f.toNat (min n.toNat (d.dests.length - f.toNat))).flatMap fun k =>
            ((d.dests[k]?).bind s₁.dest).elim [] (eDest k))) ∨
      (∃ (l : LineNo), i = .lineStatus tag body ∧ kind = 0x31 ∧ body = e8 l.val ∧ fields = lineStatusFields (s₁.line l)) ∨
      (∃ n : Byte, i = .macroGet tag body ∧ kind = 0x35 ∧ body = [n] ∧ n.toNat ≤ 31 ∧
        fields = eOpt eSyms (s₁.macros.get n.toNat)) ∨
      (∃ a b d, i = .inboundStatus tag body ∧ kind = 0x38 ∧ body = [1, a, b] ∧ s₁.inDoc (inOf a b) = some d ∧
        fields = inDocFields s₁ (inOf a b) d) ∨
      i = .inboundStatusSummary tag body ∧ kind = 0x38 ∧ body = [0] ∧
        fields = (((List.range 32).map s₁.recept.docs.get).flatMap fun d => [oct d.issue, d.state.code, d.printState.code]) ++
          e8 s₁.freeInSlots ++ eList eIn s₁.recept.waitList ++ e16 s₁.cfg.receptionReserve ++ eBool s₁.cfg.autoPrint ++
          eBool s₁.cfg.autoDiscard ∨
      i = .printStatus tag body ∧ kind = 0x40 ∧ body = [] ∧
        fields = eList eQueueEntry s₁.recept.queue ++ eList eIn s₁.recept.waitList ++ e8 s₁.recept.queue.length ++
          e16 s₁.recept.entryCounter ++ engineFields s₁.cfg.strikeLimit s₁.engine ∨
      (∃ p : Byte, i = .prefixSetRead tag body ∧ kind = 0x48 ∧ body = [2, p] ∧
        p.toNat < s₁.charge.prefixes.length ∧
        fields = eList ePrefixEntry ((s₁.charge.prefixes.zipIdx.drop p.toNat).take 8) ++
          e8 s₁.charge.prefixes.length ++ eOpt e8 s₁.charge.defaultZone) ∨
      (∃ digits : List Nat, i = .prefixSetTest tag body ∧ kind = 0x48 ∧ body = 3 :: eDigits digits ∧
        digits.length ≤ 32 ∧ (∀ x ∈ digits, x ≤ 9) ∧
        fields = eOpt e8 (s₁.charge.lookup digits) ++
          eOpt (fun e : PrefixEntry => eDigits e.digits) (longestMatch digits s₁.charge.prefixes)) ∨
      (∃ z : Byte, (i = .zoneSetRead tag body ∧ kind = 0x49 ∨ i = .rateSetRead tag body ∧ kind = 0x4D) ∧ body = [z] ∧
        z.toNat ≤ 15 ∧ fields = zoneRowFields s₁.charge z.toNat) ∨
      (∃ day : DayType, i = .bandSetRead tag body ∧ kind = 0x4A ∧ body = [day.code] ∧
        fields = eList (fun x => e16 x.1 ++ e8 x.2) (s₁.charge.schedule day)) ∨
      i = .weekdaySetRead tag body ∧ kind = 0x4B ∧ body = [] ∧ fields = s₁.charge.weekdays.map DayType.code ∨
      i = .holidaySetRead tag body ∧ kind = 0x4C ∧ body = [] ∧
        fields = ((List.range 16).map s₁.charge.holidays.get).flatMap (eOpt eDate) ∨
      i = .priceSetRead tag body ∧ kind = 0x4E ∧ body = [] ∧ fields = e16 s₁.charge.price ∨
      (∃ n : Byte, i = .deskRead tag body ∧ kind = 0x50 ∧ body = [1, n] ∧ n.toNat ≤ 15 ∧
        fields = 1 :: (deskFields (s₁.desk n.toNat) ++ e8 (s₁.deskCalls n.toNat) ++ e8 (s₁.deskDocs n.toNat))) ∨
      (∃ n : Byte, i = .logRead tag body ∧ kind = 0x52 ∧ body = [n] ∧
        fields = eList eLogRecord (s₁.log.records.take (max 1 (min 4 n.toNat))) ++ e16 s₁.log.records.length ++
          e16 s₁.log.reserved ++ e16 s₁.log.sequence ++ eBool s₁.log.armed) ∨
      i = .clockRead tag body ∧ kind = 0x59 ∧ body = [] ∧ fields = clockFields s₁ ∨
      (∃ y m d : Byte, i = .clockRead tag body ∧ kind = 0x59 ∧ body = [y, m, d] ∧ (dateOf y m d).valid = true ∧
        fields = clockFields s₁ ++ e8 (dateOf y m d).weekday ++ [(dayType s₁.charge (dateOf y m d)).code])) →
    exec i s = .next (reply kind tag .ok fields s₁)) ∧
  ∀ (tag : Byte) (paper : Bool) (s s₁ : State), s.takes ⟨0x23, tag, []⟩ = some s₁ →
    exec (.scanStatus tag [] paper) s = .next (reply 0x23 tag .ok (scanStatusFields { s₁.scan with paper })
      { s₁ with scan := { s₁.scan with paper } })

/-- Power-on brings every block to its reset value, the timekeeper by its tests with the start-up notice, and the
printer's sensors (R153, R200, R215); lost contents give the time 2000-01-01 and cause INVALID, a stall mark STALLED, a
flag that had stood HELD. The RESET line does the same but leaves the timekeeper running and the page memory (the memory
itself and its check area: the model's choice, log 7) as it is (R201).
The model's choices it rests on: logs 16, 19, 29, 36, 37, 53. -/
def Obligations.PowerOnAndResetLine : Prop :=
  ∀ (paper jam : Bool) (s : State),
    let faults (t : Timekeeper) (paper jam : Bool) : List Notice :=
      (if paper then [⟨.printerFault, t.time, t.suspect, [0, 0, 0, 0, 0]⟩] else []) ++
        if jam then [⟨.printerFault, t.time, t.suspect, [1, 0, 0, 0, 0]⟩] else []
    let k : Timekeeper :=
      if s.tk.lost then
        { time := ⟨2000, 1, 1, 0, 0, 0, 0⟩, valid := false, suspect := true, source := .crystal, stops := 0,
          stallMark := false, lastSet := none, lastStep := none, lost := false, crystalRuns := s.tk.crystalRuns }
      else { s.tk with source := .crystal, stallMark := false, suspect := s.tk.suspect || s.tk.stallMark }
    let start : List Notice :=
      if k.suspect then
        [⟨.timeSuspect, k.time, true,
          (if s.tk.lost then 2 else if s.tk.stallMark then 3 else 4) :: (eTime k.time ++ e8 k.stops ++
            eBool (!s.tk.lost && s.tk.suspect))⟩]
      else []
    exec (.powerOn paper jam) s = .next { State.reset with
      pending := s.pending, tk := k,
      link := { Link.reset with hostReady := s.link.hostReady, notices := start ++ faults k paper jam },
      scan := { Scan.reset with paper := s.scan.paper },
      engine := { Engine.reset with paperOut := paper, jamSensor := jam, jamLatched := jam }, draws := s.draws } ∧
    (s.power = true → exec .resetLine s = .next { State.reset with
      pending := s.pending, tk := s.tk, mem := s.mem, store := { Store.reset with checks := s.store.checks },
      link := { Link.reset with
        hostReady := s.link.hostReady, notices := faults s.tk s.engine.paperOut s.engine.jamSensor },
      scan := { Scan.reset with paper := s.scan.paper },
      engine := { Engine.reset with
        paperOut := s.engine.paperOut, jamSensor := s.engine.jamSensor, jamLatched := s.engine.jamSensor },
      draws := s.draws })

/-- RESET with either scope (R24, R45, R72, R93, R136, R153, R190, R201, R214): every call in progress is logged with
cause RESET at the reset instant and its line rests; every attempt not seized is let go; rings, bursts and dial buffers
are gone; timekeeper, configuration, macros and tariff stand. LINES leaves the rest; ENGINE releases every page and
frees every document, each slot's issue one on, and clears queue, engine and the scan unit's job. Another scope is
refused. That a line in no call keeps its parameters, repeats among them, is the model's choice (log 57: R119 returns
repeats to 0 at a RESET command); so are the hold time and the line counts that the kept scan unit holds (logs 45, 21).
The model's choices it rests on: logs 13, 15, 21, 34, 38, 45, 57. -/
def Obligations.ResetScopes : Prop :=
  ∀ (tag : Byte) (s s₁ : State), (∀ l, (s₁.line l).state.inProgress = true → (s₁.line l).call.isSome) →
    s₁.log.sequence < 65536 →
    let linesEnd (t : State) : Prop :=
      (∀ l, (s₁.line l).state.inProgress = false → t.line l = { s₁.line l with
        attempt := none, ringCount := 0, burst := false, refused := false, deferred := false, expander := .reset,
        charged := [], playPos := 0 }) ∧
      (∀ l, (s₁.line l).state.inProgress = true →
        (t.line l).state = .rest ∧ (t.line l).call = none ∧ (t.line l).attempt = none ∧
        (t.line l).lastCause = some .reset ∧ (t.line l).ringCount = 0 ∧ (t.line l).burst = false ∧
        (t.line l).expander = .reset ∧ (t.line l).charging.captured = false ∧ (t.line l).params.repeats = 0 ∧
        (t.line l).params.detector = .disarmed ∧ (t.line l).config = (s₁.line l).config) ∧
      (∃ new, t.log.records = s₁.log.records ++ new ∧ new.length = s₁.callsInProgress ∧
        ∀ i r, new[i]? = some r → r.cause = .reset ∧ r.release = s₁.now ∧ r.sequence = (s₁.log.sequence + i) % 65536) ∧
      OnlyChanges [.lines, .link, .store, .docs, .scan, .recept, .engine, .desks, .log] s₁ t
    let head (scope : Nat) : List Byte :=
      e8 scope ++ eTime s₁.now ++ e8 s₁.callsInProgress ++ e8 s₁.callsInProgress ++
        eOpt e16 (if s₁.callsInProgress = 0 then none else some s₁.log.sequence)
    (s.takes ⟨0x06, tag, [0]⟩ = some s₁ → s₁.scan.state ≠ .held →
      ∃ t, exec (.resetLines tag [0]) s = .next (reply 0x06 tag .ok (head 0 ++ e16 t.store.pool.count) t) ∧ linesEnd t ∧
        t.scan = s₁.scan ∧ t.recept.urgentTable = s₁.recept.urgentTable ∧
        (s₁.callsInProgress = 0 → (∀ l, (s₁.line l).attempt = none) → OnlyChanges [.lines] s₁ t)) ∧
    (s.takes ⟨0x06, tag, [1]⟩ = some s₁ →
      ∃ t, exec (.resetEngine tag [1]) s =
          .next (reply 0x06 tag .ok (head 1 ++ e16 8192 ++ e16 s₁.livePages) t) ∧ linesEnd t ∧
        t.store.pool.toList = List.range 8192 ∧
        (∀ k, t.entry k = .freeWith (((s₁.entry k).issue + 1) % 64)) ∧ t.store.waiting = [] ∧
        (∀ x, t.store.port = some x → x.void = true) ∧ t.store.lowArmed = true ∧
        (∀ k, t.docs.docs.get k = .freeWith (((s₁.docs.docs.get k).issue + 1) % 256)) ∧ (∀ r, t.dest r = none) ∧
        t.docs.counter = 0 ∧
        (∀ k, t.recept.docs.get k = .freeWith (((s₁.recept.docs.get k).issue + 1) % 256)) ∧ t.recept.queue = [] ∧
        t.recept.waitList = [] ∧ t.recept.entryCounter = 0 ∧ t.recept.urgentTable = s₁.recept.urgentTable ∧
        t.engine.entry = none ∧ t.engine.page = none ∧ t.engine.ring = [] ∧ t.engine.hostPause = false ∧
        t.engine.jamLatched = s₁.engine.jamSensor ∧ t.engine.reprints = s₁.engine.reprints ∧
        t.engine.cutFeed = ((s₁.engine.cutFeed || s₁.engine.uncut) && !s₁.engine.jamSensor) ∧
        (s₁.scan.state = .scanning ∨ s₁.scan.state = .held →
          t.scan.state = .ejecting ∧ t.scan.nextSheet = false ∧ t.scan.endCause = .reset ∧ t.scan.page = none ∧
          t.scan.backlog = [] ∧ t.scan.repeats = 0 ∧ t.scan.settings = { s₁.scan.settings with target := none }) ∧
        (s₁.scan.state = .idle → t.scan = { s₁.scan with
          settings := { s₁.scan.settings with target := none }, target := none })) ∧
    ∀ o : Byte, 1 < o.toNat → s.takes ⟨0x06, tag, [o]⟩ = some s₁ →
      exec (.resetLines tag [o]) s = .next (refuse 0x06 tag .badField s₁) ∧
      exec (.resetEngine tag [o]) s = .next (refuse 0x06 tag .badField s₁)
end

