-- ==== Sys2Proof/Laws/State.lean ====
section
/-! SUPPORT. One lemma per field of State per named update, and reading back a line. -/

namespace Sys2Proof.Machine

variable (s : State)

/-! modTk -/

@[simp] theorem State.modTk_pending (f : Timekeeper → Timekeeper) : (s.modTk f).pending = s.pending := rfl
@[simp] theorem State.modTk_power (f : Timekeeper → Timekeeper) : (s.modTk f).power = s.power := rfl
@[simp] theorem State.modTk_tk (f : Timekeeper → Timekeeper) : (s.modTk f).tk = f s.tk := rfl
@[simp] theorem State.modTk_link (f : Timekeeper → Timekeeper) : (s.modTk f).link = s.link := rfl
@[simp] theorem State.modTk_cfg (f : Timekeeper → Timekeeper) : (s.modTk f).cfg = s.cfg := rfl
@[simp] theorem State.modTk_store (f : Timekeeper → Timekeeper) : (s.modTk f).store = s.store := rfl
@[simp] theorem State.modTk_mem (f : Timekeeper → Timekeeper) : (s.modTk f).mem = s.mem := rfl
@[simp] theorem State.modTk_scan (f : Timekeeper → Timekeeper) : (s.modTk f).scan = s.scan := rfl
@[simp] theorem State.modTk_docs (f : Timekeeper → Timekeeper) : (s.modTk f).docs = s.docs := rfl
@[simp] theorem State.modTk_macros (f : Timekeeper → Timekeeper) : (s.modTk f).macros = s.macros := rfl
@[simp] theorem State.modTk_lines (f : Timekeeper → Timekeeper) : (s.modTk f).lines = s.lines := rfl
@[simp] theorem State.modTk_recept (f : Timekeeper → Timekeeper) : (s.modTk f).recept = s.recept := rfl
@[simp] theorem State.modTk_engine (f : Timekeeper → Timekeeper) : (s.modTk f).engine = s.engine := rfl
@[simp] theorem State.modTk_charge (f : Timekeeper → Timekeeper) : (s.modTk f).charge = s.charge := rfl
@[simp] theorem State.modTk_desks (f : Timekeeper → Timekeeper) : (s.modTk f).desks = s.desks := rfl
@[simp] theorem State.modTk_log (f : Timekeeper → Timekeeper) : (s.modTk f).log = s.log := rfl
@[simp] theorem State.modTk_draws (f : Timekeeper → Timekeeper) : (s.modTk f).draws = s.draws := rfl

/-! modLink -/

@[simp] theorem State.modLink_pending (f : Link → Link) : (s.modLink f).pending = s.pending := rfl
@[simp] theorem State.modLink_power (f : Link → Link) : (s.modLink f).power = s.power := rfl
@[simp] theorem State.modLink_tk (f : Link → Link) : (s.modLink f).tk = s.tk := rfl
@[simp] theorem State.modLink_link (f : Link → Link) : (s.modLink f).link = f s.link := rfl
@[simp] theorem State.modLink_cfg (f : Link → Link) : (s.modLink f).cfg = s.cfg := rfl
@[simp] theorem State.modLink_store (f : Link → Link) : (s.modLink f).store = s.store := rfl
@[simp] theorem State.modLink_mem (f : Link → Link) : (s.modLink f).mem = s.mem := rfl
@[simp] theorem State.modLink_scan (f : Link → Link) : (s.modLink f).scan = s.scan := rfl
@[simp] theorem State.modLink_docs (f : Link → Link) : (s.modLink f).docs = s.docs := rfl
@[simp] theorem State.modLink_macros (f : Link → Link) : (s.modLink f).macros = s.macros := rfl
@[simp] theorem State.modLink_lines (f : Link → Link) : (s.modLink f).lines = s.lines := rfl
@[simp] theorem State.modLink_recept (f : Link → Link) : (s.modLink f).recept = s.recept := rfl
@[simp] theorem State.modLink_engine (f : Link → Link) : (s.modLink f).engine = s.engine := rfl
@[simp] theorem State.modLink_charge (f : Link → Link) : (s.modLink f).charge = s.charge := rfl
@[simp] theorem State.modLink_desks (f : Link → Link) : (s.modLink f).desks = s.desks := rfl
@[simp] theorem State.modLink_log (f : Link → Link) : (s.modLink f).log = s.log := rfl
@[simp] theorem State.modLink_draws (f : Link → Link) : (s.modLink f).draws = s.draws := rfl

/-! modScan -/

@[simp] theorem State.modScan_pending (f : Scan → Scan) : (s.modScan f).pending = s.pending := rfl
@[simp] theorem State.modScan_power (f : Scan → Scan) : (s.modScan f).power = s.power := rfl
@[simp] theorem State.modScan_tk (f : Scan → Scan) : (s.modScan f).tk = s.tk := rfl
@[simp] theorem State.modScan_link (f : Scan → Scan) : (s.modScan f).link = s.link := rfl
@[simp] theorem State.modScan_cfg (f : Scan → Scan) : (s.modScan f).cfg = s.cfg := rfl
@[simp] theorem State.modScan_store (f : Scan → Scan) : (s.modScan f).store = s.store := rfl
@[simp] theorem State.modScan_mem (f : Scan → Scan) : (s.modScan f).mem = s.mem := rfl
@[simp] theorem State.modScan_scan (f : Scan → Scan) : (s.modScan f).scan = f s.scan := rfl
@[simp] theorem State.modScan_docs (f : Scan → Scan) : (s.modScan f).docs = s.docs := rfl
@[simp] theorem State.modScan_macros (f : Scan → Scan) : (s.modScan f).macros = s.macros := rfl
@[simp] theorem State.modScan_lines (f : Scan → Scan) : (s.modScan f).lines = s.lines := rfl
@[simp] theorem State.modScan_recept (f : Scan → Scan) : (s.modScan f).recept = s.recept := rfl
@[simp] theorem State.modScan_engine (f : Scan → Scan) : (s.modScan f).engine = s.engine := rfl
@[simp] theorem State.modScan_charge (f : Scan → Scan) : (s.modScan f).charge = s.charge := rfl
@[simp] theorem State.modScan_desks (f : Scan → Scan) : (s.modScan f).desks = s.desks := rfl
@[simp] theorem State.modScan_log (f : Scan → Scan) : (s.modScan f).log = s.log := rfl
@[simp] theorem State.modScan_draws (f : Scan → Scan) : (s.modScan f).draws = s.draws := rfl

/-! countLines: the count and the marks move, nothing else -/

@[simp] theorem Scan.countLines_state (n : Nat) (u : Scan) : (u.countLines n).state = u.state := rfl
@[simp] theorem Scan.countLines_page (n : Nat) (u : Scan) : (u.countLines n).page = u.page := rfl
@[simp] theorem Scan.countLines_target (n : Nat) (u : Scan) : (u.countLines n).target = u.target := rfl
@[simp] theorem Scan.countLines_ending (n : Nat) (u : Scan) : (u.countLines n).ending = u.ending := rfl
@[simp] theorem Scan.countLines_coded (n : Nat) (u : Scan) : (u.countLines n).coded = u.coded := rfl
@[simp] theorem Scan.countLines_filling (n : Nat) (u : Scan) : (u.countLines n).filling = u.filling := rfl
@[simp] theorem Scan.countLines_full (n : Nat) (u : Scan) : (u.countLines n).full = u.full := rfl
@[simp] theorem Scan.countLines_backlog (n : Nat) (u : Scan) : (u.countLines n).backlog = u.backlog := rfl
@[simp] theorem Scan.countLines_paper (n : Nat) (u : Scan) : (u.countLines n).paper = u.paper := rfl
theorem Scan.countLines_eq (n : Nat) (u : Scan) : u.countLines n = { u with
    committed := min 6912 (u.committed + ((u.marks.filter fun m => decide (m.1 ≤ n)).map (·.2)).sum),
    marks := u.marks.filter fun m => decide (n < m.1) } := rfl

/-! modEngine -/

@[simp] theorem State.modEngine_pending (f : Engine → Engine) : (s.modEngine f).pending = s.pending := rfl
@[simp] theorem State.modEngine_power (f : Engine → Engine) : (s.modEngine f).power = s.power := rfl
@[simp] theorem State.modEngine_tk (f : Engine → Engine) : (s.modEngine f).tk = s.tk := rfl
@[simp] theorem State.modEngine_link (f : Engine → Engine) : (s.modEngine f).link = s.link := rfl
@[simp] theorem State.modEngine_cfg (f : Engine → Engine) : (s.modEngine f).cfg = s.cfg := rfl
@[simp] theorem State.modEngine_store (f : Engine → Engine) : (s.modEngine f).store = s.store := rfl
@[simp] theorem State.modEngine_mem (f : Engine → Engine) : (s.modEngine f).mem = s.mem := rfl
@[simp] theorem State.modEngine_scan (f : Engine → Engine) : (s.modEngine f).scan = s.scan := rfl
@[simp] theorem State.modEngine_docs (f : Engine → Engine) : (s.modEngine f).docs = s.docs := rfl
@[simp] theorem State.modEngine_macros (f : Engine → Engine) : (s.modEngine f).macros = s.macros := rfl
@[simp] theorem State.modEngine_lines (f : Engine → Engine) : (s.modEngine f).lines = s.lines := rfl
@[simp] theorem State.modEngine_recept (f : Engine → Engine) : (s.modEngine f).recept = s.recept := rfl
@[simp] theorem State.modEngine_engine (f : Engine → Engine) : (s.modEngine f).engine = f s.engine := rfl
@[simp] theorem State.modEngine_charge (f : Engine → Engine) : (s.modEngine f).charge = s.charge := rfl
@[simp] theorem State.modEngine_desks (f : Engine → Engine) : (s.modEngine f).desks = s.desks := rfl
@[simp] theorem State.modEngine_log (f : Engine → Engine) : (s.modEngine f).log = s.log := rfl
@[simp] theorem State.modEngine_draws (f : Engine → Engine) : (s.modEngine f).draws = s.draws := rfl

/-! setEntry -/

@[simp] theorem State.setEntry_pending (n : Nat) (e : PageEntry) : (s.setEntry n e).pending = s.pending := rfl
@[simp] theorem State.setEntry_power (n : Nat) (e : PageEntry) : (s.setEntry n e).power = s.power := rfl
@[simp] theorem State.setEntry_tk (n : Nat) (e : PageEntry) : (s.setEntry n e).tk = s.tk := rfl
@[simp] theorem State.setEntry_link (n : Nat) (e : PageEntry) : (s.setEntry n e).link = s.link := rfl
@[simp] theorem State.setEntry_cfg (n : Nat) (e : PageEntry) : (s.setEntry n e).cfg = s.cfg := rfl
@[simp] theorem State.setEntry_store (n : Nat) (e : PageEntry) : (s.setEntry n e).store = { s.store with dir := s.store.dir.set n e } := rfl
@[simp] theorem State.setEntry_mem (n : Nat) (e : PageEntry) : (s.setEntry n e).mem = s.mem := rfl
@[simp] theorem State.setEntry_scan (n : Nat) (e : PageEntry) : (s.setEntry n e).scan = s.scan := rfl
@[simp] theorem State.setEntry_docs (n : Nat) (e : PageEntry) : (s.setEntry n e).docs = s.docs := rfl
@[simp] theorem State.setEntry_macros (n : Nat) (e : PageEntry) : (s.setEntry n e).macros = s.macros := rfl
@[simp] theorem State.setEntry_lines (n : Nat) (e : PageEntry) : (s.setEntry n e).lines = s.lines := rfl
@[simp] theorem State.setEntry_recept (n : Nat) (e : PageEntry) : (s.setEntry n e).recept = s.recept := rfl
@[simp] theorem State.setEntry_engine (n : Nat) (e : PageEntry) : (s.setEntry n e).engine = s.engine := rfl
@[simp] theorem State.setEntry_charge (n : Nat) (e : PageEntry) : (s.setEntry n e).charge = s.charge := rfl
@[simp] theorem State.setEntry_desks (n : Nat) (e : PageEntry) : (s.setEntry n e).desks = s.desks := rfl
@[simp] theorem State.setEntry_log (n : Nat) (e : PageEntry) : (s.setEntry n e).log = s.log := rfl
@[simp] theorem State.setEntry_draws (n : Nat) (e : PageEntry) : (s.setEntry n e).draws = s.draws := rfl

/-! setDoc -/

@[simp] theorem State.setDoc_pending (n : Nat) (d : Doc) : (s.setDoc n d).pending = s.pending := rfl
@[simp] theorem State.setDoc_power (n : Nat) (d : Doc) : (s.setDoc n d).power = s.power := rfl
@[simp] theorem State.setDoc_tk (n : Nat) (d : Doc) : (s.setDoc n d).tk = s.tk := rfl
@[simp] theorem State.setDoc_link (n : Nat) (d : Doc) : (s.setDoc n d).link = s.link := rfl
@[simp] theorem State.setDoc_cfg (n : Nat) (d : Doc) : (s.setDoc n d).cfg = s.cfg := rfl
@[simp] theorem State.setDoc_store (n : Nat) (d : Doc) : (s.setDoc n d).store = s.store := rfl
@[simp] theorem State.setDoc_mem (n : Nat) (d : Doc) : (s.setDoc n d).mem = s.mem := rfl
@[simp] theorem State.setDoc_scan (n : Nat) (d : Doc) : (s.setDoc n d).scan = s.scan := rfl
@[simp] theorem State.setDoc_docs (n : Nat) (d : Doc) : (s.setDoc n d).docs = { s.docs with docs := s.docs.docs.set n d } := rfl
@[simp] theorem State.setDoc_macros (n : Nat) (d : Doc) : (s.setDoc n d).macros = s.macros := rfl
@[simp] theorem State.setDoc_lines (n : Nat) (d : Doc) : (s.setDoc n d).lines = s.lines := rfl
@[simp] theorem State.setDoc_recept (n : Nat) (d : Doc) : (s.setDoc n d).recept = s.recept := rfl
@[simp] theorem State.setDoc_engine (n : Nat) (d : Doc) : (s.setDoc n d).engine = s.engine := rfl
@[simp] theorem State.setDoc_charge (n : Nat) (d : Doc) : (s.setDoc n d).charge = s.charge := rfl
@[simp] theorem State.setDoc_desks (n : Nat) (d : Doc) : (s.setDoc n d).desks = s.desks := rfl
@[simp] theorem State.setDoc_log (n : Nat) (d : Doc) : (s.setDoc n d).log = s.log := rfl
@[simp] theorem State.setDoc_draws (n : Nat) (d : Doc) : (s.setDoc n d).draws = s.draws := rfl

/-! setDest -/

@[simp] theorem State.setDest_pending (n : Nat) (d : Option Dest) : (s.setDest n d).pending = s.pending := rfl
@[simp] theorem State.setDest_power (n : Nat) (d : Option Dest) : (s.setDest n d).power = s.power := rfl
@[simp] theorem State.setDest_tk (n : Nat) (d : Option Dest) : (s.setDest n d).tk = s.tk := rfl
@[simp] theorem State.setDest_link (n : Nat) (d : Option Dest) : (s.setDest n d).link = s.link := rfl
@[simp] theorem State.setDest_cfg (n : Nat) (d : Option Dest) : (s.setDest n d).cfg = s.cfg := rfl
@[simp] theorem State.setDest_store (n : Nat) (d : Option Dest) : (s.setDest n d).store = s.store := rfl
@[simp] theorem State.setDest_mem (n : Nat) (d : Option Dest) : (s.setDest n d).mem = s.mem := rfl
@[simp] theorem State.setDest_scan (n : Nat) (d : Option Dest) : (s.setDest n d).scan = s.scan := rfl
@[simp] theorem State.setDest_docs (n : Nat) (d : Option Dest) : (s.setDest n d).docs = { s.docs with pool := s.docs.pool.set n d } := rfl
@[simp] theorem State.setDest_macros (n : Nat) (d : Option Dest) : (s.setDest n d).macros = s.macros := rfl
@[simp] theorem State.setDest_lines (n : Nat) (d : Option Dest) : (s.setDest n d).lines = s.lines := rfl
@[simp] theorem State.setDest_recept (n : Nat) (d : Option Dest) : (s.setDest n d).recept = s.recept := rfl
@[simp] theorem State.setDest_engine (n : Nat) (d : Option Dest) : (s.setDest n d).engine = s.engine := rfl
@[simp] theorem State.setDest_charge (n : Nat) (d : Option Dest) : (s.setDest n d).charge = s.charge := rfl
@[simp] theorem State.setDest_desks (n : Nat) (d : Option Dest) : (s.setDest n d).desks = s.desks := rfl
@[simp] theorem State.setDest_log (n : Nat) (d : Option Dest) : (s.setDest n d).log = s.log := rfl
@[simp] theorem State.setDest_draws (n : Nat) (d : Option Dest) : (s.setDest n d).draws = s.draws := rfl

/-! setInDoc -/

@[simp] theorem State.setInDoc_pending (n : Nat) (d : InDoc) : (s.setInDoc n d).pending = s.pending := rfl
@[simp] theorem State.setInDoc_power (n : Nat) (d : InDoc) : (s.setInDoc n d).power = s.power := rfl
@[simp] theorem State.setInDoc_tk (n : Nat) (d : InDoc) : (s.setInDoc n d).tk = s.tk := rfl
@[simp] theorem State.setInDoc_link (n : Nat) (d : InDoc) : (s.setInDoc n d).link = s.link := rfl
@[simp] theorem State.setInDoc_cfg (n : Nat) (d : InDoc) : (s.setInDoc n d).cfg = s.cfg := rfl
@[simp] theorem State.setInDoc_store (n : Nat) (d : InDoc) : (s.setInDoc n d).store = s.store := rfl
@[simp] theorem State.setInDoc_mem (n : Nat) (d : InDoc) : (s.setInDoc n d).mem = s.mem := rfl
@[simp] theorem State.setInDoc_scan (n : Nat) (d : InDoc) : (s.setInDoc n d).scan = s.scan := rfl
@[simp] theorem State.setInDoc_docs (n : Nat) (d : InDoc) : (s.setInDoc n d).docs = s.docs := rfl
@[simp] theorem State.setInDoc_macros (n : Nat) (d : InDoc) : (s.setInDoc n d).macros = s.macros := rfl
@[simp] theorem State.setInDoc_lines (n : Nat) (d : InDoc) : (s.setInDoc n d).lines = s.lines := rfl
@[simp] theorem State.setInDoc_recept (n : Nat) (d : InDoc) : (s.setInDoc n d).recept = { s.recept with docs := s.recept.docs.set n d } := rfl
@[simp] theorem State.setInDoc_engine (n : Nat) (d : InDoc) : (s.setInDoc n d).engine = s.engine := rfl
@[simp] theorem State.setInDoc_charge (n : Nat) (d : InDoc) : (s.setInDoc n d).charge = s.charge := rfl
@[simp] theorem State.setInDoc_desks (n : Nat) (d : InDoc) : (s.setInDoc n d).desks = s.desks := rfl
@[simp] theorem State.setInDoc_log (n : Nat) (d : InDoc) : (s.setInDoc n d).log = s.log := rfl
@[simp] theorem State.setInDoc_draws (n : Nat) (d : InDoc) : (s.setInDoc n d).draws = s.draws := rfl

/-! setDesk -/

@[simp] theorem State.setDesk_pending (n : Nat) (d : Desk) : (s.setDesk n d).pending = s.pending := rfl
@[simp] theorem State.setDesk_power (n : Nat) (d : Desk) : (s.setDesk n d).power = s.power := rfl
@[simp] theorem State.setDesk_tk (n : Nat) (d : Desk) : (s.setDesk n d).tk = s.tk := rfl
@[simp] theorem State.setDesk_link (n : Nat) (d : Desk) : (s.setDesk n d).link = s.link := rfl
@[simp] theorem State.setDesk_cfg (n : Nat) (d : Desk) : (s.setDesk n d).cfg = s.cfg := rfl
@[simp] theorem State.setDesk_store (n : Nat) (d : Desk) : (s.setDesk n d).store = s.store := rfl
@[simp] theorem State.setDesk_mem (n : Nat) (d : Desk) : (s.setDesk n d).mem = s.mem := rfl
@[simp] theorem State.setDesk_scan (n : Nat) (d : Desk) : (s.setDesk n d).scan = s.scan := rfl
@[simp] theorem State.setDesk_docs (n : Nat) (d : Desk) : (s.setDesk n d).docs = s.docs := rfl
@[simp] theorem State.setDesk_macros (n : Nat) (d : Desk) : (s.setDesk n d).macros = s.macros := rfl
@[simp] theorem State.setDesk_lines (n : Nat) (d : Desk) : (s.setDesk n d).lines = s.lines := rfl
@[simp] theorem State.setDesk_recept (n : Nat) (d : Desk) : (s.setDesk n d).recept = s.recept := rfl
@[simp] theorem State.setDesk_engine (n : Nat) (d : Desk) : (s.setDesk n d).engine = s.engine := rfl
@[simp] theorem State.setDesk_charge (n : Nat) (d : Desk) : (s.setDesk n d).charge = s.charge := rfl
@[simp] theorem State.setDesk_desks (n : Nat) (d : Desk) : (s.setDesk n d).desks = s.desks.set n d := rfl
@[simp] theorem State.setDesk_log (n : Nat) (d : Desk) : (s.setDesk n d).log = s.log := rfl
@[simp] theorem State.setDesk_draws (n : Nat) (d : Desk) : (s.setDesk n d).draws = s.draws := rfl

/-! setLine -/

@[simp] theorem State.setLine_pending (l : LineNo) (x : Line) : (s.setLine l x).pending = s.pending := rfl
@[simp] theorem State.setLine_power (l : LineNo) (x : Line) : (s.setLine l x).power = s.power := rfl
@[simp] theorem State.setLine_tk (l : LineNo) (x : Line) : (s.setLine l x).tk = s.tk := rfl
@[simp] theorem State.setLine_link (l : LineNo) (x : Line) : (s.setLine l x).link = s.link := rfl
@[simp] theorem State.setLine_cfg (l : LineNo) (x : Line) : (s.setLine l x).cfg = s.cfg := rfl
@[simp] theorem State.setLine_store (l : LineNo) (x : Line) : (s.setLine l x).store = s.store := rfl
@[simp] theorem State.setLine_mem (l : LineNo) (x : Line) : (s.setLine l x).mem = s.mem := rfl
@[simp] theorem State.setLine_scan (l : LineNo) (x : Line) : (s.setLine l x).scan = s.scan := rfl
@[simp] theorem State.setLine_docs (l : LineNo) (x : Line) : (s.setLine l x).docs = s.docs := rfl
@[simp] theorem State.setLine_macros (l : LineNo) (x : Line) : (s.setLine l x).macros = s.macros := rfl
@[simp] theorem State.setLine_lines (l : LineNo) (x : Line) : (s.setLine l x).lines = s.lines.set l x := rfl
@[simp] theorem State.setLine_recept (l : LineNo) (x : Line) : (s.setLine l x).recept = s.recept := rfl
@[simp] theorem State.setLine_engine (l : LineNo) (x : Line) : (s.setLine l x).engine = s.engine := rfl
@[simp] theorem State.setLine_charge (l : LineNo) (x : Line) : (s.setLine l x).charge = s.charge := rfl
@[simp] theorem State.setLine_desks (l : LineNo) (x : Line) : (s.setLine l x).desks = s.desks := rfl
@[simp] theorem State.setLine_log (l : LineNo) (x : Line) : (s.setLine l x).log = s.log := rfl
@[simp] theorem State.setLine_draws (l : LineNo) (x : Line) : (s.setLine l x).draws = s.draws := rfl

/-! modLine, and a line read back -/

@[simp] theorem State.modLine_eq (l : LineNo) (f : Line → Line) : s.modLine l f = s.setLine l (f (s.line l)) := rfl
@[simp] theorem State.modEntry_eq (n : Nat) (f : PageEntry → PageEntry) :
    s.modEntry n f = s.setEntry n (f (s.entry n)) := rfl
@[simp] theorem State.modInDoc_eq (n : Nat) (f : InDoc → InDoc) :
    s.modInDoc n f = s.setInDoc n (f (s.recept.docs.get n)) := rfl

theorem Lines.get_set_self (ls : Lines) (l : LineNo) (x : Line) : (ls.set l x).get l = x := by
  fin_cases l <;> rfl

theorem Lines.get_set_ne (ls : Lines) {k l : LineNo} (x : Line) (h : k ≠ l) : (ls.set l x).get k = ls.get k := by
  revert h; fin_cases k <;> fin_cases l <;> simp [Lines.get, Lines.set]

@[simp] theorem State.line_setLine_self (l : LineNo) (x : Line) : (s.setLine l x).line l = x :=
  Lines.get_set_self ..

theorem State.line_setLine_ne {k l : LineNo} (x : Line) (h : k ≠ l) : (s.setLine l x).line k = s.line k :=
  Lines.get_set_ne _ _ h

theorem Lines.set_set (ls : Lines) (l : LineNo) (x y : Line) : (ls.set l x).set l y = ls.set l y := by
  fin_cases l <;> rfl

theorem State.setLine_setLine (l : LineNo) (x y : Line) : (s.setLine l x).setLine l y = s.setLine l y := by
  simp [State.setLine, Lines.set_set]

end Sys2Proof.Machine
end

