-- ==== Sys2Proof/Laws/Decoder.lean ====
section
/-! SUPPORT. What a completed line of the print decoder gives: itself, as often as it is owed and the page still has room,
each time counted where it is damaged (R141, R142). -/

namespace Sys2Proof.Machine

theorem decodeLines_owed (byteLen : Nat) {dots : DotLine} {n : Nat} {faulty : Bool} {e : Engine}
    (he : e.decoder.ended = false) (ho : e.decoder.owed = some (dots, n, faulty)) (fuel : Nat) :
    decodeLines byteLen (fuel + 1) e =
      (dots :: (decodeLines byteLen fuel { placeLine dots n faulty e with ring := [] }).1,
        (decodeLines byteLen fuel { placeLine dots n faulty e with ring := [] }).2) := by
  conv_lhs => unfold decodeLines
  simp [he, ho]

theorem decodeLines_token {byteLen : Nat} {e e' : Engine} (he : e.decoder.ended = false) (ho : e.decoder.owed = none)
    (h : oneToken byteLen e = some e') (fuel : Nat) : decodeLines byteLen (fuel + 1) e = decodeLines byteLen fuel e' := by
  conv_lhs => unfold decodeLines
  simp [he, ho, h]

/-- A line owed `n` times comes `n` times, or until the page's 6912th line. -/
theorem decodeLines_place (byteLen : Nat) (dots : DotLine) (faulty : Bool) : ∀ (n : Nat) (e : Engine), 1 ≤ n →
    e.decoder.owed = some (dots, n, faulty) → e.decoder.ended = false → e.decoder.lines ≤ 6912 →
    e.decoder.line = none → e.decoder.previous = some dots →
    let m := min (n - 1) (6912 - e.decoder.lines)
    ∃ e', e'.decoder = { e.decoder with
          owed := none, lines := e.decoder.lines + m, ended := decide (e.decoder.lines + m = 6912) } ∧
      e'.damaged = (if faulty ∧ m ≠ 0 then min 6912 (e.damaged + m) else e.damaged) ∧
      ∀ fuel, decodeLines byteLen (fuel + (m + 1)) e =
        (List.replicate (m + 1) dots ++ (decodeLines byteLen fuel e').1, (decodeLines byteLen fuel e').2) := by
  intro n
  induction n with
  | zero => intro e h; omega
  | succ n ih =>
    intro e _ ho he hl hli hp m
    have step := decodeLines_owed byteLen he ho
    by_cases h1 : 6912 ≤ e.decoder.lines
    · have hm : m = 0 := by omega
      refine ⟨{ placeLine dots (n + 1) faulty e with ring := [] }, ?_, ?_, fun fuel => ?_⟩
      · simp [placeLine, h1, hm]; omega
      · simp [placeLine, h1, hm]
      · rw [hm]; simpa using step fuel
    · by_cases h2 : n = 0
      · have hm : m = 0 := by omega
        refine ⟨{ placeLine dots (n + 1) faulty e with ring := [] }, ?_, ?_, fun fuel => ?_⟩
        · simp [placeLine, h1, hm, h2, he]; omega
        · simp [placeLine, h1, hm, h2]
        · rw [hm]; simpa using step fuel
      · generalize hg : ({ e with ring := e.ring ++ [dots], writeSlot := wrapSucc 16 e.writeSlot } : Engine) = g
        have hplace : placeLine dots (n + 1) faulty e = completeLine dots n faulty g := by
          subst hg; unfold placeLine; simp only [h1, if_false]; rw [if_pos (by omega)]; rfl
        have hgd : g.decoder = e.decoder := by rw [← hg]
        have hgm : g.damaged = e.damaged := by rw [← hg]
        rw [hplace] at step
        obtain ⟨e', a, b, c⟩ := ih { completeLine dots n faulty g with ring := [] } (by omega) rfl
          (by simp [completeLine, hgd, he]) (by simp [completeLine, hgd]; omega) rfl rfl
        have hlines : (completeLine dots n faulty g).decoder.lines = e.decoder.lines + 1 := by simp [completeLine, hgd]
        have hdam : (completeLine dots n faulty g).damaged = if faulty then min 6912 (e.damaged + 1) else e.damaged := by
          simp [completeLine, hgm, satAdd]
        have hm : min (n - 1) (6912 - (e.decoder.lines + 1)) + 1 = m := by omega
        dsimp only at a b c
        rw [hlines] at a b c
        rw [hdam] at b
        generalize min (n - 1) (6912 - (e.decoder.lines + 1)) = z at *
        refine ⟨e', ?_, ?_, fun fuel => ?_⟩
        · rw [a, ← hm]
          simp only [completeLine, hgd, hli, hp]
          rw [show e.decoder.lines + 1 + z = e.decoder.lines + (z + 1) by omega]
        · rw [b, ← hm]
          cases faulty
          · simp
          · rcases Nat.eq_zero_or_pos z with h0 | h0
            · simp [h0]
            · rw [if_pos ⟨rfl, by omega⟩, if_pos rfl, if_pos ⟨rfl, by omega⟩]; omega
        · rw [← hm, show fuel + (z + 1 + 1) = fuel + (z + 1) + 1 by omega, step, c fuel]
          simp [List.replicate_succ]

/-- What a token that completes a line gives. -/
theorem decodeLines_complete {byteLen : Nat} {e : Engine} {dots : DotLine} {n took : Nat} {faulty : Bool} (hn : 1 ≤ n)
    (he : e.decoder.ended = false) (ho : e.decoder.owed = none) (hl : e.decoder.lines < 6912)
    (h : oneToken byteLen e = some (completeLine dots n faulty (e.eat took))) :
    let m := min n (6912 - e.decoder.lines)
    ∃ e', e'.decoder = { e.decoder with
          stream := e.decoder.stream.drop took, decoded := e.decoder.decoded + took, line := none, previous := some dots,
          lines := e.decoder.lines + m, ended := decide (e.decoder.lines + m = 6912) } ∧
      e'.damaged = (if faulty then min 6912 (e.damaged + m) else e.damaged) ∧
      ∀ fuel, decodeLines byteLen (fuel + m + 1) e =
        (List.replicate m dots ++ (decodeLines byteLen fuel e').1, (decodeLines byteLen fuel e').2) := by
  intro m
  obtain ⟨e', a, b, c⟩ := decodeLines_place byteLen dots faulty n (completeLine dots n faulty (e.eat took)) hn rfl he
    (by simp [completeLine, Engine.eat]; omega) rfl rfl
  have hlines : (completeLine dots n faulty (e.eat took)).decoder.lines = e.decoder.lines + 1 := rfl
  have hdam : (completeLine dots n faulty (e.eat took)).damaged = if faulty then min 6912 (e.damaged + 1) else e.damaged := by
    simp [completeLine, Engine.eat, satAdd]
  have hm : min (n - 1) (6912 - (e.decoder.lines + 1)) + 1 = m := by omega
  rw [hlines] at a b c
  rw [hdam] at b
  generalize min (n - 1) (6912 - (e.decoder.lines + 1)) = z at *
  refine ⟨e', ?_, ?_, fun fuel => ?_⟩
  · rw [a, ← hm]
    simp only [completeLine, Engine.eat]
    rw [show e.decoder.lines + 1 + z = e.decoder.lines + (z + 1) by omega, ho]
  · rw [b, ← hm]
    cases faulty
    · simp
    · rcases Nat.eq_zero_or_pos z with h0 | h0
      · simp [h0]
      · rw [if_pos ⟨rfl, by omega⟩, if_pos rfl, if_pos rfl]; omega
  · rw [← hm, decodeLines_token he ho h (fuel + (z + 1)), c fuel]

end Sys2Proof.Machine
end

