-- ==== Sys2Proof/Laws/Table.lean ====
section
/-! SUPPORT. Tables: reading an entry after a write, and after a map. -/

namespace Sys2Proof.Machine

variable {α : Type}

theorem cellGet_cellSet_self (d : α) (c : List (Nat × α)) (k : Nat) (v : α) : cellGet d (cellSet c k v) k = v := by
  induction c with
  | nil => simp [cellSet, cellGet]
  | cons e r ih =>
    obtain ⟨j, w⟩ := e
    unfold cellSet
    split
    · simp [cellGet]
    · split
      · simp [cellGet]
      · rename_i h; simp [cellGet, h, ih]

theorem cellGet_cellSet_ne (d : α) (c : List (Nat × α)) {j k : Nat} (v : α) (h : j ≠ k) :
    cellGet d (cellSet c k v) j = cellGet d c j := by
  induction c with
  | nil => simp [cellSet, cellGet, Ne.symm h]
  | cons e r ih =>
    obtain ⟨i, w⟩ := e
    unfold cellSet
    split
    · simp [cellGet, Ne.symm h]
    · split
      · rename_i hk; subst hk; simp [cellGet, Ne.symm h]
      · simp [cellGet, ih]

@[simp] theorem Table.get_all (v : α) (k : Nat) : (Table.all v).get k = v := rfl

@[simp] theorem Table.get_set_self (t : Table α) (k : Nat) (v : α) : (t.set k v).get k = v :=
  cellGet_cellSet_self ..

theorem Table.get_set_ne (t : Table α) {j k : Nat} (v : α) (h : j ≠ k) : (t.set k v).get j = t.get j :=
  cellGet_cellSet_ne _ _ v h

theorem Table.get_set (t : Table α) (j k : Nat) (v : α) : (t.set k v).get j = if j = k then v else t.get j := by
  split
  · rename_i h; subst h; simp
  · rename_i h; exact Table.get_set_ne t v h

theorem Table.get_map (f : α → α) (t : Table α) (k : Nat) : (t.map f).get k = f (t.get k) := by
  obtain ⟨d, c⟩ := t
  show cellGet (f d) (c.map fun x => (x.1, f x.2)) k = f (cellGet d c k)
  induction c with
  | nil => rfl
  | cons e r ih =>
    simp only [List.map_cons, cellGet]
    split
    · rfl
    · exact ih

/-! ### The lowest entry of a kind -/

theorem Table.searchFrom_eq_some (t : Table α) (p : α → Bool) {i : Nat} (hi : p (t.get i) = true) :
    ∀ fuel k, k ≤ i → i < k + fuel → (∀ j, k ≤ j → j < i → p (t.get j) = false) → t.searchFrom p fuel k = some i
  | 0, k, _, _, _ => by omega
  | n + 1, k, h1, h2, h3 => by
    unfold Table.searchFrom
    by_cases hk : k = i
    · subst hk; rw [if_pos hi]
    · rw [if_neg (by simp [h3 k (Nat.le_refl _) (by omega)])]
      exact Table.searchFrom_eq_some t p hi n (k + 1) (by omega) (by omega) fun j a b => h3 j (by omega) b

theorem Table.searchFrom_eq_none (t : Table α) (p : α → Bool) :
    ∀ fuel k, (∀ j, k ≤ j → j < k + fuel → p (t.get j) = false) → t.searchFrom p fuel k = none
  | 0, _, _ => rfl
  | n + 1, k, h => by
    unfold Table.searchFrom
    rw [if_neg (by simp [h k (Nat.le_refl _) (by omega)])]
    exact Table.searchFrom_eq_none t p n (k + 1) fun j a b => h j (by omega) (by omega)

/-- The lowest entry is the one below which there is none. -/
theorem Table.lowest_eq_some (t : Table α) {n i : Nat} {p : α → Bool} (hn : i < n) (hi : p (t.get i) = true)
    (hj : ∀ j, j < i → p (t.get j) = false) : t.lowest n p = some i :=
  Table.searchFrom_eq_some t p hi n 0 (by omega) (by omega) fun j _ h => hj j h

theorem Table.lowest_eq_none (t : Table α) {n : Nat} {p : α → Bool} (h : ∀ j, j < n → p (t.get j) = false) :
    t.lowest n p = none :=
  Table.searchFrom_eq_none t p n 0 fun j _ hj => h j (by omega)

end Sys2Proof.Machine
end

