-- ==== Sys2Proof/Laws/Ops.lean ====
section
/-! SUPPORT. What the shared operations of the host link, the page store and the pool can do, said once each. -/

namespace Sys2Proof.Machine

/-! ### Taking a command and answering it (R207) -/

theorem Link.take_waiting {f : Frame} {k : Link} (hj : k.job = none) {rest : List Frame}
    (hd : k.held.drop k.taken = f :: rest) : k.take f = some { k with taken := k.taken + 1 } := by
  simp [Link.take, hj, hd]

theorem Link.take_arriving {f : Frame} {k : Link} (hj : k.job = none) (hd : k.held.drop k.taken = [])
    (hc : k.candidate = []) (hh : k.held.length < 8) (hb : f.body.length ≤ 1040) :
    k.take f = some { k with held := k.held ++ [f], taken := k.held.length + 1 } := by
  simp [Link.take, hj, hd, hc, hh, hb]

/-- Everything that taking a frame's command can be. -/
theorem Link.take_cases {f : Frame} {k k' : Link} (h : k.take f = some k') :
    k.job = none ∧
      ((∃ rest, k.held.drop k.taken = f :: rest ∧ k' = { k with taken := k.taken + 1 }) ∨
       (k.held.drop k.taken = [] ∧ k.candidate = [] ∧ k.held.length < 8 ∧ f.body.length ≤ 1040 ∧
          k' = { k with held := k.held ++ [f], taken := k.held.length + 1 })) := by
  unfold Link.take at h
  split at h
  · cases h
  · rename_i hj
    refine ⟨by simpa using hj, ?_⟩
    split at h
    · rename_i g rest hd
      split at h
      · rename_i hg; subst hg; cases h; exact .inl ⟨rest, hd, rfl⟩
      · cases h
    · rename_i hd
      split at h
      · rename_i hc; cases h; exact .inr ⟨hd, hc.1, hc.2.1, hc.2.2, rfl⟩
      · cases h

theorem State.takes_iff {f : Frame} {s t : State} :
    s.takes f = some t ↔ s.power = true ∧ ∃ k, s.link.take f = some k ∧ t = { s with link := k } := by
  unfold State.takes
  split
  · rename_i h; simp [h, eq_comm]
  · rename_i h; simp [h]

theorem hostCommand_of_takes {kind tag : Byte} {body : List Byte} {s s₁ : State} (act : State → State)
    (h : s.takes ⟨kind, tag, body⟩ = some s₁) : hostCommand kind tag body act s = act s₁ := by
  simp [hostCommand, h]

theorem hostCommand_not_due {kind tag : Byte} {body : List Byte} {s : State} (act : State → State)
    (h : s.takes ⟨kind, tag, body⟩ = none) : hostCommand kind tag body act s = s := by
  simp [hostCommand, h]

theorem command_ok {kind tag : Byte} {body fields : List Byte} {f : State → Except Status (State × List Byte)}
    {s s₁ t : State} (h : s.takes ⟨kind, tag, body⟩ = some s₁) (hf : f s₁ = .ok (t, fields)) :
    command kind tag body f s = reply kind tag .ok fields t := by
  simp [command, hostCommand, h, answered, hf]

theorem command_error {kind tag : Byte} {body : List Byte} {f : State → Except Status (State × List Byte)}
    {s s₁ : State} {status : Status} (h : s.takes ⟨kind, tag, body⟩ = some s₁) (hf : f s₁ = .error status) :
    command kind tag body f s = refuse kind tag status s₁ := by
  simp [command, hostCommand, h, answered, hf]

/-- Everything that a host command can do. -/
theorem command_cases (kind tag : Byte) (body : List Byte) (f : State → Except Status (State × List Byte)) (s : State) :
    command kind tag body f s = s ∨
      ∃ s₁, s.takes ⟨kind, tag, body⟩ = some s₁ ∧
        ((∃ t fields, f s₁ = .ok (t, fields) ∧ command kind tag body f s = reply kind tag .ok fields t) ∨
         (∃ status, f s₁ = .error status ∧ command kind tag body f s = refuse kind tag status s₁)) := by
  cases h : s.takes ⟨kind, tag, body⟩ with
  | none => exact .inl (hostCommand_not_due _ h)
  | some s₁ =>
    refine .inr ⟨s₁, rfl, ?_⟩
    cases hf : f s₁ with
    | ok p => exact .inl ⟨p.1, p.2, rfl, command_ok h hf⟩
    | error st => exact .inr ⟨st, rfl, command_error h hf⟩

theorem formCommand_mine {kind tag : Byte} {body : List Byte} {f : State → Except Status (State × List Byte)}
    {s : State} : formCommand true kind tag body f s = command kind tag body f s := rfl

theorem formCommand_other {kind tag : Byte} {body : List Byte} {f : State → Except Status (State × List Byte)}
    {s : State} : formCommand false kind tag body f s = s := rfl

theorem whenOn_on {act : State → State} {s : State} (h : s.power = true) : whenOn act s = act s := by simp [whenOn, h]

theorem whenOn_off {act : State → State} {s : State} (h : s.power = false) : whenOn act s = s := by simp [whenOn, h]

/-! ### Notices and replies (R207, R209) -/

theorem raise_masked {kind : NoticeKind} {fields : List Byte} {s : State} (h : kind.level < s.link.mask) :
    raise kind fields s = s := by simp [raise, h]

theorem raise_full {kind : NoticeKind} {fields : List Byte} {s : State} (h : s.link.mask ≤ kind.level)
    (hf : 32 ≤ s.link.notices.length) :
    raise kind fields s = { s with link := { s.link with lost := satAdd 255 s.link.lost 1 } } := by
  simp [raise, Nat.not_lt.2 h, hf]

theorem raise_room {kind : NoticeKind} {fields : List Byte} {s : State} (h : s.link.mask ≤ kind.level)
    (hf : s.link.notices.length < 32) :
    raise kind fields s = { s with link := { s.link with
      notices := s.link.notices ++ [{ kind, time := s.now, suspect := s.tk.suspect, fields }] } } := by
  simp [raise, Nat.not_lt.2 h, Nat.not_le.2 hf]

/-- A raised notice changes the host link's notice queue or its lost count, and nothing else. -/
theorem raise_frame (kind : NoticeKind) (fields : List Byte) (s : State) :
    ∃ notices lost, raise kind fields s = { s with link := { s.link with notices, lost } } := by
  unfold raise
  split
  · exact ⟨s.link.notices, s.link.lost, rfl⟩
  · split
    · exact ⟨s.link.notices, _, rfl⟩
    · exact ⟨_, s.link.lost, rfl⟩

theorem raise_bound (kind : NoticeKind) (fields : List Byte) (s : State) (h : s.link.notices.length ≤ 32) :
    (raise kind fields s).link.notices.length ≤ 32 := by
  unfold raise
  split
  · exact h
  · split
    · exact h
    · rename_i h'; simp; omega

@[simp] theorem reply_replies (kind tag : Byte) (status : Status) (fields : List Byte) (s : State) :
    (reply kind tag status fields s).link.replies =
      s.link.replies ++ [{ frame := ⟨kind ||| 0x80, tag, status.code :: fields⟩, newRate := none }] := rfl

/-! ### The segment pool (R1) -/

theorem SegPool.count_eq (p : SegPool) : p.count = p.toList.length := by simp [SegPool.count, SegPool.toList]

theorem SegPool.head_eq (p : SegPool) : p.head = p.toList.head? := by
  unfold SegPool.head SegPool.toList
  split
  · rename_i h
    obtain ⟨n, hn⟩ : ∃ n, 8192 - p.fresh = n + 1 := ⟨8192 - p.fresh - 1, by omega⟩
    simp [hn, List.range'_succ]
  · rename_i h; simp [Nat.sub_eq_zero_of_le (Nat.le_of_not_lt h)]

theorem SegPool.tail_eq (p : SegPool) : p.tail.toList = p.toList.tail := by
  unfold SegPool.tail SegPool.toList
  split
  · rename_i h
    obtain ⟨n, hn⟩ : ∃ n, 8192 - p.fresh = n + 1 := ⟨8192 - p.fresh - 1, by omega⟩
    have h' : 8192 - (p.fresh + 1) = n := by omega
    simp [hn, h', List.range'_succ]
  · rename_i h; simp [Nat.sub_eq_zero_of_le (Nat.le_of_not_lt h)]

theorem SegPool.give_eq (p : SegPool) (l : List Nat) : (p.give l).toList = p.toList ++ l := by
  simp [SegPool.give, SegPool.toList]

/-! ### Handles (R3) -/

theorem State.page_some {s : State} {h : PageHandle} {e : PageEntry} (he : s.page h = some e) :
    h.slot < 1024 ∧ e = s.entry h.slot ∧ e.state ≠ .free ∧ e.issue = h.issue := by
  unfold State.page at he
  dsimp only at he
  split at he
  · rename_i hc; cases he; exact ⟨hc.1, rfl, hc.2.1, hc.2.2⟩
  · cases he

/-- The allocation test passes exactly where R5 lets it. -/
theorem allocTest_pass {s : State} {e : PageEntry} {c : Client} (h : allocTest s e c = .pass) :
    e.committed < 16 * e.chain.length ∨
      (e.chain.length < 2048 ∧ s.freeCount ≠ 0 ∧
        ((c = .scan ∨ c = .hostXfer) → s.cfg.receptionReserve < s.freeCount)) := by
  unfold allocTest at h
  split at h
  · rename_i hn; left; simpa [PageEntry.needsSegment] using hn
  · right
    split at h
    · cases h
    · split at h
      · cases h
      · split at h
        · cases h
        · rename_i h1 h2 h3
          exact ⟨by omega, h2, fun hc => by
            by_contra hr
            exact h3 ⟨hc, by omega⟩⟩

/-! ### A page's reference at its close, and the play of the dial buffer -/

@[simp] theorem State.refTaken_iff (s : State) (h : PageHandle) :
    s.refTaken h = true ↔ (s.entry h.slot).refs < 4095 := by
  simp [State.refTaken, Nat.blt_eq]

theorem listAndTell_taken (h : InHandle) (p : PageHandle) (s : State) :
    listAndTell true h p s = tellEngine h (listPage h p s) := rfl

theorem listAndTell_refused (h : InHandle) (p : PageHandle) (s : State) :
    listAndTell false h p s = s.setInDoc h.slot { s.recept.docs.get h.slot with inPage := none } := rfl

/-- No page whose reference would be refused has a document to take it. -/
theorem State.scanTaker_refs {s : State} {p : PageHandle} {h : DocHandle} (ht : s.scanTaker p = some h) :
    (s.entry p.slot).refs < 4095 := by
  unfold State.scanTaker at ht
  split at ht
  · cases ht
  · dsimp only at ht
    split at ht
    · rename_i hc; exact (State.refTaken_iff s p).mp hc.2.2.2.2
    · cases ht

/-! ### The end of a reception, and the answer that waited on the store (R96, R108, R116) -/

/-- The end of a transmission that is not acted on is all in the line. -/
theorem unheard_eq (l : LineNo) (s : State) : unheard l s = s.setLine l (s.line l).receptionOver := by
  unfold unheard Line.receptionOver
  simp only [State.modProc, State.modParams, State.modLine_eq, holdReady, State.line_setLine_self,
    State.setLine_setLine]
  split <;> simp_all

/-- A message not acted on that the line has answered already is answered again. -/
theorem repeatOrDiscard_repeat {l : LineNo} {h : Heard} {out : Sending} {s : State}
    (hi : (s.line l).proc.lastIn = some h) (ho : (s.line l).proc.lastOut = some out) :
    repeatOrDiscard l h s = s.setLine l ((s.line l).answersAgain out) := by
  unfold repeatOrDiscard
  simp only [ho, hi, if_true, unheard_eq, holdReady, State.modProc, State.modParams, State.modLine_eq,
    State.line_setLine_self, State.setLine_setLine, Line.answersAgain, Line.receptionOver]
  split <;> rfl

/-- Any other message not acted on is discarded. -/
theorem repeatOrDiscard_discard {l : LineNo} {h : Heard} {s : State}
    (hd : (s.line l).proc.lastIn ≠ some h ∨ (s.line l).proc.lastOut = none) :
    repeatOrDiscard l h s = s.setLine l (s.line l).receptionOver := by
  unfold repeatOrDiscard
  dsimp only
  split
  · rename_i ho
    rw [if_neg (hd.resolve_right (by simp [ho])), unheard_eq]
  · exact unheard_eq l s

/-- While a transmission is in progress the answer is held for its end. -/
theorem answerStored_held (l : LineNo) (what : Sending) (s : State) (h : (s.line l).proc.incoming = true) :
    answerStored l what s = s.setLine l { s.line l with
      proc := { (s.line l).proc with storing := true, heldAnswer := some what } } := by
  simp [answerStored, h, State.modProc]

/-- Otherwise it begins its turnaround. -/
theorem answerStored_ready (l : LineNo) (what : Sending) (s : State) (h : (s.line l).proc.incoming = false) :
    answerStored l what s = s.setLine l { s.line l with
      params := { (s.line l).params with detector := .disarmed },
      proc := { (s.line l).proc with tx := .ready what, timer := false, incoming := false, storing := false } } := by
  simp [answerStored, h, State.modProc, State.modParams, holdReady, State.setLine_setLine]

theorem Line.skipWaits_silent {x : Line} (h : x.dialTone = false) : x.skipWaits = x := by simp [Line.skipWaits, h]

/-- Skipping waits moves nothing but the position, and never back. -/
theorem Line.skipWaits_cases (x : Line) : ∃ n, x.skipWaits = { x with playPos := x.playPos + n } := by
  unfold Line.skipWaits
  split
  · exact ⟨_, rfl⟩
  · exact ⟨0, rfl⟩

/-! ### A step with no command waiting -/

/-- All that a step on an empty queue can do: with the supplies on, a hold gains a tenth up to 300. -/
theorem State.idled_eq (s : State) :
    s.idled = s ∨ s.scan.state = .held ∧
      s.idled = { s with scan := { s.scan with holdTime := min 300 (s.scan.holdTime + 1) } } := by
  unfold State.idled whenOn holdTenth
  split
  · split
    · exact .inr ⟨‹_›, rfl⟩
    · exact .inl rfl
  · exact .inl rfl

/-- A step takes the command at the front of the queue, or finds none. -/
theorem step_cases {s t : State} (h : step s = .next t) :
    s.pending = [] ∧ t = s.idled ∨ ∃ i rest, s.pending = i :: rest ∧ exec i { s with pending := rest } = .next t := by
  unfold step at h
  split at h
  · exact .inl ⟨‹_›, by simpa using h.symm⟩
  · exact .inr ⟨_, _, ‹_›, h⟩

end Sys2Proof.Machine
end

