-- ==== Sys2Proof/Laws/Documents.lean ====
section
/-! SUPPORT. What the deadline test can do (R63, R196), for one document and for all of them, and what a setting of the
clock does beside it (R195). -/

namespace Sys2Proof.Machine

/-! ### The letting go of pages leaves the documents, the lines and the rest alone -/

/-- From `s` to `t` nothing changes but the page store, the page memory's place in it, and the host link. -/
def StoreLinkOnly (s t : State) : Prop := ∃ store link, t = { s with store, link }

theorem StoreLinkOnly.refl (s : State) : StoreLinkOnly s s := ⟨s.store, s.link, rfl⟩

theorem StoreLinkOnly.trans {s t u : State} (h : StoreLinkOnly s t) (g : StoreLinkOnly t u) : StoreLinkOnly s u := by
  obtain ⟨a, b, rfl⟩ := h; obtain ⟨c, d, rfl⟩ := g; exact ⟨c, d, rfl⟩

theorem raise_storeLink (kind : NoticeKind) (fields : List Byte) (s : State) : StoreLinkOnly s (raise kind fields s) := by
  unfold raise; split <;> [exact .refl s; (split <;> exact ⟨_, _, rfl⟩)]

theorem lowTest_storeLink (s : State) : StoreLinkOnly s (lowTest s) := by
  unfold lowTest
  split
  · exact ⟨_, _, rfl⟩
  · split
    · exact StoreLinkOnly.trans ⟨{ s.store with lowArmed := false }, s.link, rfl⟩ (raise_storeLink ..)
    · exact .refl s

theorem withdrawReads_storeLink (h : PageHandle) (s : State) : StoreLinkOnly s (withdrawReads h s) := by
  unfold withdrawReads
  dsimp only
  split
  · split <;> exact ⟨_, _, rfl⟩
  · exact ⟨_, _, rfl⟩

theorem freePage_storeLink (h : PageHandle) (s : State) : StoreLinkOnly s (freePage h s) := by
  unfold freePage
  exact StoreLinkOnly.trans (StoreLinkOnly.trans ⟨_, s.link, rfl⟩ (withdrawReads_storeLink ..)) (lowTest_storeLink _)

theorem releaseTest_storeLink (h : PageHandle) (s : State) : StoreLinkOnly s (releaseTest h s) := by
  unfold releaseTest
  split
  · split
    · exact freePage_storeLink ..
    · exact .refl s
  · exact .refl s

theorem lowerRef_storeLink (h : PageHandle) (s : State) : StoreLinkOnly s (lowerRef h s) := by
  unfold lowerRef
  split
  · exact StoreLinkOnly.trans ⟨_, s.link, rfl⟩ (releaseTest_storeLink ..)
  · exact .refl s

theorem lowerRefs_storeLink (hs : List PageHandle) (s : State) : StoreLinkOnly s (lowerRefs hs s) := by
  unfold lowerRefs
  induction hs generalizing s with
  | nil => exact .refl s
  | cons h hs ih => exact StoreLinkOnly.trans (lowerRef_storeLink ..) (ih _)

/-! ### Destinations that leave their wait -/

/-- A destination in a waiting state enters `st`. -/
def Dest.leaves (st : DestState) (x : Dest) : Dest := if x.state.isWaiting then { x with state := st } else x

theorem Dest.leaves_leaves {st : DestState} (h : st.isWaiting = false) (x : Dest) :
    (x.leaves st).leaves st = x.leaves st := by
  unfold Dest.leaves; split <;> simp_all

theorem moveWaiting_get {st : DestState} (h : st.isWaiting = false) (rs : List Nat) (pool : Table (Option Dest)) (q : Nat) :
    (moveWaiting st rs pool).1.get q = if q ∈ rs then (pool.get q).map (Dest.leaves st) else pool.get q := by
  induction rs generalizing pool with
  | nil => simp [moveWaiting]
  | cons r rs ih =>
    rcases hr : pool.get r with _ | x
    · by_cases hq : q = r
      · subst hq; simp [moveWaiting, hr, ih]
      · simp [moveWaiting, hr, ih, hq]
    · by_cases hw : x.state.isWaiting = true
      · by_cases hq : q = r
        · subst hq
          simp [moveWaiting, hr, hw, ih, Dest.leaves, h]
        · simp [moveWaiting, hr, hw, ih, hq, Table.get_set_ne _ _ hq]
      · by_cases hq : q = r
        · subst hq; simp [moveWaiting, hr, hw, ih, Dest.leaves]
        · simp [moveWaiting, hr, hw, ih, hq]

/-- The record holds a destination in a waiting state. -/
def waitsIn (pool : Table (Option Dest)) (r : Nat) : Bool :=
  match pool.get r with
  | some x => x.state.isWaiting
  | none => false

theorem moveWaiting_count (st : DestState) {rs : List Nat} (hn : rs.Nodup) (pool : Table (Option Dest)) :
    (moveWaiting st rs pool).2 = (rs.filter (waitsIn pool)).length := by
  induction rs generalizing pool with
  | nil => simp [moveWaiting]
  | cons r rs ih =>
    obtain ⟨hr', hn⟩ := List.nodup_cons.mp hn
    have same (v) : rs.filter (waitsIn (pool.set r v)) = rs.filter (waitsIn pool) :=
      List.filter_congr fun q hq => by
        simp [waitsIn, Table.get_set_ne pool v (show q ≠ r from fun e => hr' (e ▸ hq))]
    rcases hr : pool.get r with _ | x
    · simp [moveWaiting, hr, ih hn, waitsIn]
    · by_cases hw : x.state.isWaiting = true
      · simp [moveWaiting, hr, hw, ih hn, same, show waitsIn pool r = true by simp [waitsIn, hr, hw]]
      · simp [moveWaiting, hr, hw, ih hn, show waitsIn pool r = false by simp [waitsIn, hr, hw]]

/-! ### One document's deadline -/

/-- The document's deadline test finds it reached (R63). -/
def Doc.due (d : Doc) (now : DateTime) : Prop := (d.state = .queued ∨ d.state = .active) ∧ d.deadlineReached now = true

/-- A record of the pool is ON_LINE. -/
def onLineIn (pool : Table (Option Dest)) (r : Nat) : Bool :=
  match pool.get r with
  | some x => decide (x.state = .onLine)
  | none => false

/-- The document whose deadline is reached, `n` destinations having expired (R48, R63, R68). -/
def Doc.expires (d : Doc) (pool : Table (Option Dest)) (n : Nat) : Doc :=
  let online := d.dests.any (onLineIn pool)
  { d with
    expired := d.expired + n, state := if online then d.state else if d.cancelReq then .cancelled else .done,
    pagesHeld := d.pagesHeld && (online || !d.releasePages) }

theorem expireDoc_not_due {k : Nat} {s : State} (h : ¬(s.docs.docs.get k).due s.now) : expireDoc k s = s := by
  unfold expireDoc; exact if_neg h

/-- After the waiting destinations have expired, none is open that was not ON_LINE. -/
theorem countOpen_zero (s t : State) (d : Doc) (hp : t.docs.pool = (moveWaiting .expired d.dests s.docs.pool).1)
    (e : Doc) (he : e.dests = d.dests) :
    t.countDests e (fun st => !st.isFinal) = 0 ↔ d.dests.any (onLineIn s.docs.pool) = false := by
  unfold State.countDests State.dest
  rw [hp, he, List.length_eq_zero_iff, List.filter_eq_nil_iff, List.any_eq_false]
  refine forall_congr' fun r => forall_congr' fun hr => ?_
  rw [moveWaiting_get rfl, if_pos hr]
  unfold onLineIn
  cases s.docs.pool.get r with
  | none => simp
  | some x => cases hx : x.state <;> simp [Dest.leaves, hx, DestState.isWaiting, DestState.isFinal]

/-- A document's end (R48, R68): its state, and its references let go with RELEASE_PAGES. -/
theorem endDoc_eq (quiet : Bool) (k : Nat) (st : DocState) (s : State) :
    ∃ store link, endDoc quiet k st s = { s with
      store, link, docs := { s.docs with docs := (endDoc quiet k st s).docs.docs } } ∧
      (endDoc quiet k st s).docs.docs.get k = { s.docs.docs.get k with
        state := st, pagesHeld := (s.docs.docs.get k).pagesHeld && !(s.docs.docs.get k).releasePages } ∧
      ∀ j, j ≠ k → (endDoc quiet k st s).docs.docs.get j = s.docs.docs.get j := by
  have told (t : State) : StoreLinkOnly t (raiseUnless quiet .docDone (docDoneFields k (t.docs.docs.get k)) t) := by
    unfold raiseUnless; split
    · exact .refl t
    · exact raise_storeLink ..
  unfold endDoc releaseDocPages
  simp only [State.setDoc_docs, Table.get_set_self]
  by_cases hr : ((s.docs.docs.get k).releasePages && (s.docs.docs.get k).pagesHeld) = true
  · simp only [hr, if_true]
    obtain ⟨hr1, hr2⟩ := Bool.and_eq_true_iff.mp hr
    generalize hu : State.setDoc _ k _ = u
    obtain ⟨a, b, h⟩ := StoreLinkOnly.trans (lowerRefs_storeLink (s.docs.docs.get k).pages u) (told _)
    rw [h]
    subst hu
    refine ⟨a, b, rfl, ?_, fun j hj => ?_⟩
    · simp [hr1]
    · simp [Table.get_set_ne _ _ hj]
  · simp only [hr]
    obtain ⟨a, b, h⟩ := told (s.setDoc k { s.docs.docs.get k with state := st })
    simp only [Bool.false_eq_true, if_false]
    rw [h]
    refine ⟨a, b, rfl, ?_, fun j hj => ?_⟩
    · cases h1 : (s.docs.docs.get k).releasePages <;> cases h2 : (s.docs.docs.get k).pagesHeld <;> simp_all
    · simp [Table.get_set_ne _ _ hj]

/-- All that the deadline test of one document can do. -/
theorem expireDoc_due {k : Nat} {s : State} (h : (s.docs.docs.get k).due s.now) :
    ∃ store link, expireDoc k s = { s with
      store, link, docs := { s.docs with
        pool := (moveWaiting .expired (s.docs.docs.get k).dests s.docs.pool).1,
        docs := (expireDoc k s).docs.docs } } ∧
      (expireDoc k s).docs.docs.get k = (s.docs.docs.get k).expires s.docs.pool
        (moveWaiting .expired (s.docs.docs.get k).dests s.docs.pool).2 ∧
      ∀ j, j ≠ k → (expireDoc k s).docs.docs.get j = s.docs.docs.get j := by
  have hx : expireDoc k s = completeTest false (s.docs.docs.get k).cancelReq k (moveAllWaiting .expired k s).1 := if_pos h
  rw [hx]
  generalize hu : (moveAllWaiting .expired k s).1 = u
  have hpool : u.docs.pool = (moveWaiting .expired (s.docs.docs.get k).dests s.docs.pool).1 := by subst hu; rfl
  have hd : u.docs.docs.get k = { s.docs.docs.get k with
      expired := (s.docs.docs.get k).expired + (moveWaiting .expired (s.docs.docs.get k).dests s.docs.pool).2 } := by
    subst hu; simp [moveAllWaiting, Doc.addTally]
  have hj (j) (h : j ≠ k) : u.docs.docs.get j = s.docs.docs.get j := by
    subst hu; simp [moveAllWaiting, Table.get_set_ne _ _ h]
  have hs : u = { s with docs := { s.docs with
      pool := (moveWaiting .expired (s.docs.docs.get k).dests s.docs.pool).1, docs := u.docs.docs } } := by
    subst hu; rfl
  have hstate : (u.docs.docs.get k).state = .queued ∨ (u.docs.docs.get k).state = .active := by rw [hd]; exact h.1
  unfold completeTest
  simp only [hstate, if_true]
  have hz := countOpen_zero s u (s.docs.docs.get k) hpool (u.docs.docs.get k) (by rw [hd])
  by_cases ho : (s.docs.docs.get k).dests.any (onLineIn s.docs.pool) = true
  · rw [if_neg (by rw [hz, ho]; decide)]
    refine ⟨s.store, s.link, hs, ?_, hj⟩
    rw [hd]; simp [Doc.expires, ho]
  · rw [Bool.not_eq_true] at ho
    rw [if_pos (hz.mpr ho)]
    obtain ⟨a, b, he, hk, hne⟩ := endDoc_eq false k (if (s.docs.docs.get k).cancelReq = true then .cancelled else .done) u
    refine ⟨a, b, ?_, ?_, fun j h => (hne j h).trans (hj j h)⟩
    · rw [he, hs]
    · rw [hk, hd]; simp [Doc.expires, ho]

theorem LinkRaises.refl (s : State) : LinkRaises s s := ⟨s.link.notices, s.link.lost, rfl⟩

theorem LinkRaises.trans {s t u : State} (h : LinkRaises s t) (g : LinkRaises t u) : LinkRaises s u := by
  obtain ⟨a, b, h⟩ := h; obtain ⟨c, d, g⟩ := g; exact ⟨c, d, by rw [g, h]⟩

theorem raiseUnless_raises (quiet : Bool) (kind : NoticeKind) (fields : List Byte) (s : State) :
    (raiseUnless quiet kind fields s).store = s.store ∧ LinkRaises s (raiseUnless quiet kind fields s) := by
  unfold raiseUnless
  split
  · exact ⟨rfl, .refl s⟩
  · obtain ⟨n, m, h⟩ := raise_frame kind fields s
    rw [h]; exact ⟨rfl, n, m, rfl⟩

/-- Without RELEASE_PAGES the deadline test of a document leaves the page store alone. -/
theorem expireDoc_keeps {k : Nat} {s : State} (h : (s.docs.docs.get k).releasePages = false) :
    (expireDoc k s).store = s.store ∧ LinkRaises s (expireDoc k s) := by
  unfold expireDoc completeTest endDoc releaseDocPages moveAllWaiting
  dsimp only
  split
  · split
    · split
      · simp [Doc.addTally, h]
        exact raiseUnless_raises ..
      · exact ⟨rfl, .refl s⟩
    · exact ⟨rfl, .refl s⟩
  · exact ⟨rfl, .refl s⟩

/-! ### The deadline test of every document -/

/-- All that the deadline tests of the slots below `n`, one after another, can do: of the destinations of the documents due
the waiting ones expire, and each such document goes on or ends. -/
theorem expireBelow (n : Nat) (s : State) :
    ∃ t, (List.range n).foldl (fun s k => expireDoc k s) s = t ∧
      (∃ store link, t = { s with store, link, docs := { s.docs with pool := t.docs.pool, docs := t.docs.docs } }) ∧
      (∀ q k, k < n → (s.docs.docs.get k).due s.now → q ∈ (s.docs.docs.get k).dests →
        t.dest q = (s.dest q).map (Dest.leaves .expired)) ∧
      (∀ q, (∀ k, k < n → (s.docs.docs.get k).due s.now → q ∉ (s.docs.docs.get k).dests) → t.dest q = s.dest q) ∧
      (∀ k, ¬(k < n ∧ (s.docs.docs.get k).due s.now) → t.docs.docs.get k = s.docs.docs.get k) ∧
      (∀ k, k < n → (s.docs.docs.get k).due s.now → (s.docs.docs.get k).dests.Nodup →
        (∀ j, j < n → j ≠ k → (s.docs.docs.get j).due s.now → ∀ q ∈ (s.docs.docs.get k).dests,
          q ∉ (s.docs.docs.get j).dests) →
        t.docs.docs.get k = (s.docs.docs.get k).expires s.docs.pool
          ((s.docs.docs.get k).dests.filter (waitsIn s.docs.pool)).length) ∧
      ((∀ k, k < n → (s.docs.docs.get k).due s.now → (s.docs.docs.get k).releasePages = false) →
        t.store = s.store ∧ LinkRaises s t) := by
  induction n with
  | zero =>
    refine ⟨s, rfl, ⟨s.store, s.link, rfl⟩, ?_, fun _ _ => rfl, fun _ _ => rfl, ?_, fun _ => ⟨rfl, .refl s⟩⟩ <;>
      intros <;> omega
  | succ n ih =>
    obtain ⟨t, ht, ⟨a, b, hs⟩, hin, hout, hsame, hdoc, hstore⟩ := ih
    have hnow : t.now = s.now := by rw [hs]; rfl
    have hget : t.docs.docs.get n = s.docs.docs.get n := hsame n (by omega)
    refine ⟨expireDoc n t, by rw [List.range_succ, List.foldl_append, ht]; rfl, ?_⟩
    by_cases hd : (s.docs.docs.get n).due s.now
    · have hd' : (t.docs.docs.get n).due t.now := by rw [hget, hnow]; exact hd
      obtain ⟨c, e, hx, hk, hne⟩ := expireDoc_due hd'
      rw [hget] at hx hk
      have hdest (q) : (expireDoc n t).dest q =
          if q ∈ (s.docs.docs.get n).dests then (t.dest q).map (Dest.leaves .expired) else t.dest q := by
        unfold State.dest; rw [hx]; exact moveWaiting_get rfl ..
      refine ⟨⟨c, e, ?_⟩, ?_, ?_, ?_, ?_, ?_⟩
      · generalize expireDoc n t = v at hx
        have hp : v.docs.pool = (moveWaiting .expired (s.docs.docs.get n).dests t.docs.pool).1 := by rw [hx]
        refine hx.trans ?_
        rw [hp]
        generalize v.docs.docs = y
        generalize (moveWaiting .expired (s.docs.docs.get n).dests t.docs.pool).1 = z
        rw [hs]
      · intro q k hkn hdk hq
        rw [hdest]
        by_cases hkn' : k < n
        · rw [hin q k hkn' hdk hq]
          split
          · cases s.dest q <;> simp [Dest.leaves_leaves (st := .expired) rfl]
          · rfl
        · obtain rfl : k = n := by omega
          rw [if_pos hq]
          by_cases ho : ∃ j, j < k ∧ (s.docs.docs.get j).due s.now ∧ q ∈ (s.docs.docs.get j).dests
          · obtain ⟨j, h1, h2, h3⟩ := ho
            rw [hin q j h1 h2 h3]
            cases s.dest q <;> simp [Dest.leaves_leaves (st := .expired) rfl]
          · rw [hout q fun j h1 h2 h3 => ho ⟨j, h1, h2, h3⟩]
      · intro q hq
        rw [hdest, if_neg (hq n (by omega) hd), hout q fun k hk => hq k (by omega)]
      · intro k hk'
        have hkn : k ≠ n := fun h => hk' ⟨by omega, h ▸ hd⟩
        rw [hne k hkn, hsame k fun h => hk' ⟨by omega, h.2⟩]
      · intro k hkn hdk hnd hdis
        by_cases hkn' : k = n
        · subst hkn'
          have hpool (q) (hq : q ∈ (s.docs.docs.get k).dests) : t.docs.pool.get q = s.docs.pool.get q :=
            hout q fun j hj hdj hqj => hdis j (by omega) (by omega) hdj q hq hqj
          rw [hk, moveWaiting_count _ hnd]
          have hw : (s.docs.docs.get k).dests.filter (waitsIn t.docs.pool) =
              (s.docs.docs.get k).dests.filter (waitsIn s.docs.pool) :=
            List.filter_congr fun q hq => by simp [waitsIn, hpool q hq]
          have ho : (s.docs.docs.get k).dests.any (onLineIn t.docs.pool) =
              (s.docs.docs.get k).dests.any (onLineIn s.docs.pool) := by
            rw [Bool.eq_iff_iff, List.any_eq_true, List.any_eq_true]
            exact exists_congr fun q => and_congr_right fun hq => by simp [onLineIn, hpool q hq]
          simp [Doc.expires, hw, ho]
        · rw [hne k hkn', hdoc k (by omega) hdk hnd fun j hj => hdis j (by omega)]
      · intro hr
        obtain ⟨h1, h2⟩ := hstore fun k hk => hr k (by omega)
        obtain ⟨h3, h4⟩ := expireDoc_keeps (k := n) (s := t) (by rw [hget]; exact hr n (by omega) hd)
        exact ⟨h3.trans h1, h2.trans h4⟩
    · rw [expireDoc_not_due (by rw [hget, hnow]; exact hd)]
      refine ⟨⟨a, b, hs⟩, ?_, ?_, ?_, ?_, fun hr => hstore fun k hk => hr k (by omega)⟩
      · intro q k hkn hdk
        exact hin q k (Nat.lt_of_le_of_ne (by omega) fun h => hd (h ▸ hdk)) hdk
      · exact fun q hq => hout q fun k hk => hq k (by omega)
      · exact fun k hk => hsame k fun h => hk ⟨by omega, h.2⟩
      · intro k hkn hdk hnd hdis
        exact hdoc k (Nat.lt_of_le_of_ne (by omega) fun h => hd (h ▸ hdk)) hdk hnd fun j hj => hdis j (by omega)

/-! ### The setting of the clock -/

theorem scanRetry_not_held {s : State} (h : s.scan.state ≠ .held) : scanRetry s = s := by simp [scanRetry, h]

/-- CLOCK_STEP in the call record of a line whose call is in progress (R191, R195). -/
def Line.clockStepped (x : Line) : Line :=
  if x.state.inProgress then
    { x with call := x.call.map fun c => { c with flags := { c.flags with clockStep := true } } }
  else x

theorem markClockStep_eq (s : State) : markClockStep s = { s with
    lines := ⟨s.lines.lc0.clockStepped, s.lines.lc1.clockStepped, s.lines.lc2.clockStepped, s.lines.lc3.clockStepped⟩ } := by
  have one (s : State) (l : LineNo) :
      (if (s.line l).state.inProgress then s.modCall l fun c => { c with flags := { c.flags with clockStep := true } }
        else s) = s.setLine l (s.line l).clockStepped := by
    unfold Line.clockStepped
    split
    · rfl
    · fin_cases l <;> rfl
  simp only [markClockStep, allLines, List.foldl, one]
  rfl

end Sys2Proof.Machine
end

