-- ==== Sys2Proof/Laws/Kept.lean ====
section
/-! SUPPORT. What the shared operations never touch: the queue of commands, the supplies, the timekeeper, the page
memory, the configuration, the macro and charging tables, the counter of free values, and of the host link the rate, the
mask, the receiver and the transmitter. One lemma per operation. -/

namespace Sys2Proof.Machine

@[simp] theorem State.kept_mk (p pw tk link cfg store mem scan docs macros lines recept engine charge desks log draws) :
    State.kept (State.mk p pw tk link cfg store mem scan docs macros lines recept engine charge desks log draws) =
      Keep.mk p pw tk mem cfg macros charge draws link.rate link.mask link.candidate link.held link.taken link.tx
        link.hostReady := rfl

@[simp] theorem Keep.eta (s : State) :
    Keep.mk s.pending s.power s.tk s.mem s.cfg s.macros s.charge s.draws s.link.rate s.link.mask s.link.candidate
      s.link.held s.link.taken s.link.tx s.link.hostReady = s.kept := rfl

-- One declaration at a time: proofs checked side by side hold a thread each.
set_option Elab.async false
set_option linter.unusedTactic false
set_option linter.unreachableTactic false
set_option linter.unusedSimpArgs false

theorem kept_of_pair {α : Type} {p : State × α} {t : State} {a : α} {k : Keep} (h : p = (t, a)) (hp : p.1.kept = k) :
    t.kept = k := by subst h; exact hp

theorem foldl_kept {α : Type} {f : State → α → State} (h : ∀ s x, (f s x).kept = s.kept) (l : List α) (s : State) :
    (l.foldl f s).kept = s.kept := by
  induction l generalizing s with
  | nil => rfl
  | cons x xs ih => exact (ih _).trans (h s x)

@[simp] theorem State.setLine_kept (s : State) (l : LineNo) (x : Line) :
    (State.setLine s l x).kept = s.kept := rfl

@[simp] theorem State.modLine_kept (s : State) (l : LineNo) (f : Line → Line) :
    (State.modLine s l f).kept = s.kept := rfl

@[simp] theorem raise_kept (kind : NoticeKind) (fields : List Byte) (s : State) :
    (raise kind fields s).kept = s.kept := by unfold raise; (repeat' split) <;> simp

@[simp] theorem raiseUnless_kept (quiet : Bool) (kind : NoticeKind) (fields : List Byte) (s : State) :
    (raiseUnless quiet kind fields s).kept = s.kept := by unfold raiseUnless; split <;> simp

@[simp] theorem reply_kept (kind tag : Byte) (status : Status) (fields : List Byte) (s : State) :
    (reply kind tag status fields s).kept = s.kept := rfl

@[simp] theorem refuse_kept (kind tag : Byte) (status : Status) (s : State) :
    (refuse kind tag status s).kept = s.kept := rfl

@[simp] theorem lowTest_kept (s : State) :
    (lowTest s).kept = s.kept := by unfold lowTest; (repeat' split) <;> simp

@[simp] theorem State.setEntry_kept (s : State) (slot : Nat) (e : PageEntry) :
    (State.setEntry s slot e).kept = s.kept := rfl

@[simp] theorem State.modEntry_kept (s : State) (slot : Nat) (f : PageEntry → PageEntry) :
    (State.modEntry s slot f).kept = s.kept := rfl

@[simp] theorem queueRequest_kept (r : Request) (s : State) :
    (queueRequest r s).kept = s.kept := rfl

@[simp] theorem withdraw_kept (c : Client) (s : State) :
    (withdraw c s).kept = s.kept := rfl

@[simp] theorem withdrawReads_kept (h : PageHandle) (s : State) :
    (withdrawReads h s).kept = s.kept := by unfold withdrawReads; dsimp only; (repeat' split) <;> simp

@[simp] theorem askWrite_kept (c : Client) (h : PageHandle) (data : List Byte) (close : Option CloseReq) (s : State) :
    (askWrite c h data close s).1.kept = s.kept := by unfold askWrite; split <;> simp

@[simp] theorem askRead_kept (c : Client) (h : PageHandle) (block : Nat) (s : State) :
    (askRead c h block s).kept = s.kept := by unfold askRead; (repeat' split) <;> simp

theorem openPage_kept (c : Client) (origin : Origin) (cls : ResClass) (s : State) {t : State} {x} (h : openPage c origin cls s = .ok (t, x)) :
    t.kept = s.kept := by
  unfold openPage at h
  (repeat' split at h) <;> first | (simp at h; done) | (cases h; simp)

@[simp] theorem freePage_kept (h : PageHandle) (s : State) :
    (freePage h s).kept = s.kept := by simp [freePage]

@[simp] theorem releaseTest_kept (h : PageHandle) (s : State) :
    (releaseTest h s).kept = s.kept := by unfold releaseTest; (repeat' split) <;> simp

@[simp] theorem lowerRef_kept (h : PageHandle) (s : State) :
    (lowerRef h s).kept = s.kept := by unfold lowerRef; split <;> simp

@[simp] theorem lowerRefs_kept (hs : List PageHandle) (s : State) :
    (lowerRefs hs s).kept = s.kept := by unfold lowerRefs; exact foldl_kept (fun s x => by simp) _ _

theorem raiseRef_kept (h : PageHandle) (s : State) {t : State} (h : raiseRef h s = .ok t) :
    t.kept = s.kept := by
  unfold raiseRef at h
  (repeat' split at h) <;> first | (simp at h; done) | (cases h; simp)

theorem raiseRefs_kept (x0 : List PageHandle) (s : State) {t : State} (h : raiseRefs x0 s = .ok t) :
    t.kept = s.kept := by
  induction x0 generalizing s with
  | nil => unfold raiseRefs at h; cases h; rfl
  | cons x xs ih =>
    unfold raiseRefs at h
    split at h
    · cases h
    · rename_i heq; exact (ih _ h).trans (raiseRef_kept _ _ heq)

@[simp] theorem discardPage_kept (h : PageHandle) (s : State) :
    (discardPage h s).kept = s.kept := by simp [discardPage]

@[simp] theorem applyHold_kept (hold : Hold) (h : PageHandle) (s : State) :
    (applyHold hold h s).kept = s.kept := by unfold applyHold; (repeat' split) <;> simp

@[simp] theorem finishClose_kept (quiet : Bool) (h : PageHandle) (c : CloseReq) (s : State) :
    (finishClose quiet h c s).kept = s.kept := by simp [finishClose]

@[simp] theorem startClose_kept (c : Client) (h : PageHandle) (code : List Byte) (req : CloseReq) (s : State) :
    (startClose c h code req s).1.kept = s.kept := by
  unfold startClose
  (repeat' split) <;> first
    | (simp; done)
    | (simp; exact kept_of_pair (by assumption) (by simp))
    | exact kept_of_pair (by assumption) (by simp)

@[simp] theorem State.setDoc_kept (s : State) (slot : Nat) (d : Doc) :
    (State.setDoc s slot d).kept = s.kept := rfl

@[simp] theorem State.setDest_kept (s : State) (record : Nat) (d : Option Dest) :
    (State.setDest s record d).kept = s.kept := rfl

@[simp] theorem askPass_kept (s : State) :
    (askPass s).kept = s.kept := rfl

@[simp] theorem releaseDocPages_kept (slot : Nat) (s : State) :
    (releaseDocPages slot s).kept = s.kept := by unfold releaseDocPages; dsimp only; (repeat' split) <;> simp

@[simp] theorem endDoc_kept (quiet : Bool) (slot : Nat) (st : DocState) (s : State) :
    (endDoc quiet slot st s).kept = s.kept := by simp [endDoc]

@[simp] theorem completeTest_kept (quiet cancelled : Bool) (slot : Nat) (s : State) :
    (completeTest quiet cancelled slot s).kept = s.kept := by unfold completeTest; dsimp only; (repeat' split) <;> simp

@[simp] theorem moveAllWaiting_kept (st : DestState) (slot : Nat) (s : State) :
    (moveAllWaiting st slot s).1.kept = s.kept := rfl

@[simp] theorem expireDoc_kept (slot : Nat) (s : State) :
    (expireDoc slot s).kept = s.kept := by unfold expireDoc; dsimp only; (repeat' split) <;> simp

@[simp] theorem expireAll_kept (s : State) :
    (expireAll s).kept = s.kept := by unfold expireAll; exact foldl_kept (fun s x => by simp) _ _

@[simp] theorem outcomeReport_kept (quiet : Bool) (h : DocHandle) (index : Nat) (cause : Cause) (release : DateTime) (logged : Option Nat) (s : State) :
    (outcomeReport quiet h index cause release logged s).kept = s.kept := by unfold outcomeReport; dsimp only; (repeat' split) <;> simp

@[simp] theorem withdrawAttempt_kept (h : DocHandle) (index : Nat) (s : State) :
    (withdrawAttempt h index s).kept = s.kept := by unfold withdrawAttempt; dsimp only; (repeat' split) <;> simp

@[simp] theorem confirmPage_kept (h : DocHandle) (index : Nat) (s : State) :
    (confirmPage h index s).kept = s.kept := by unfold confirmPage; (repeat' split) <;> simp

@[simp] theorem handOff_kept (l : LineNo) (slot index : Nat) (s : State) :
    (handOff l slot index s).kept = s.kept := by unfold handOff; dsimp only; (repeat' split) <;> simp

@[simp] theorem passLine_kept (s : State) (l : LineNo) :
    (passLine s l).kept = s.kept := by unfold passLine; (repeat' split) <;> simp

@[simp] theorem dispatcherPass_kept (s : State) :
    (dispatcherPass s).kept = s.kept := by unfold dispatcherPass; exact foldl_kept (fun s x => by simp) _ _

@[simp] theorem State.setDesk_kept (s : State) (n : Nat) (d : Desk) :
    (State.setDesk s n d).kept = s.kept := rfl

@[simp] theorem deskTest_kept (n : Nat) (s : State) :
    (deskTest n s).kept = s.kept := by unfold deskTest; dsimp only; (repeat' split) <;> simp

@[simp] theorem deskAdd_kept (n units cost : Nat) (s : State) :
    (deskAdd n units cost s).kept = s.kept := by simp [deskAdd]

theorem logReserve_kept (s : State) {t : State} (h : logReserve s = some t) :
    t.kept = s.kept := by
  unfold logReserve at h
  (repeat' split at h) <;> first | (simp at h; done) | (cases h; simp)

@[simp] theorem logGiveBack_kept (s : State) :
    (logGiveBack s).kept = s.kept := rfl

@[simp] theorem logFill_kept (r : LogRecord) (s : State) :
    (logFill r s).kept = s.kept := by unfold logFill; dsimp only; (repeat' split) <;> simp

@[simp] theorem chargeAndLog_kept (l : LineNo) (call : CallRec) (cause : Cause) (release : DateTime) (s : State) :
    (chargeAndLog l call cause release s).1.kept = s.kept := by unfold chargeAndLog; split <;> simp

@[simp] theorem State.setInDoc_kept (s : State) (slot : Nat) (d : InDoc) :
    (State.setInDoc s slot d).kept = s.kept := rfl

@[simp] theorem State.modInDoc_kept (s : State) (slot : Nat) (f : InDoc → InDoc) :
    (State.modInDoc s slot f).kept = s.kept := rfl

@[simp] theorem openInbound_kept (l : LineNo) (answer : DateTime) (s : State) :
    (openInbound l answer s).1.kept = s.kept := by unfold openInbound; split <;> simp

@[simp] theorem noteSender_kept (h : InHandle) (identity : List Byte) (s : State) :
    (noteSender h identity s).kept = s.kept := by unfold noteSender; split <;> simp

@[simp] theorem freeInbound_kept (slot : Nat) (s : State) :
    (freeInbound slot s).kept = s.kept := by simp [freeInbound]

@[simp] theorem placeEntry_kept (job : PrintJob) (urgent : Bool) (s : State) :
    (placeEntry job urgent s).1.kept = s.kept := rfl

@[simp] theorem placeDoc_kept (h : InHandle) (s : State) :
    (placeDoc h s).1.kept = s.kept := rfl

@[simp] theorem offerToPrint_kept (h : InHandle) (s : State) :
    (offerToPrint h s).kept = s.kept := by unfold offerToPrint; (repeat' split) <;> simp

@[simp] theorem listPage_kept (h : InHandle) (p : PageHandle) (s : State) :
    (listPage h p s).kept = s.kept := by unfold listPage; (repeat' split) <;> simp

@[simp] theorem leaveQueue_kept (n : Nat) (s : State) :
    (leaveQueue n s).kept = s.kept := by unfold leaveQueue; dsimp only; (repeat' split) <;> simp

@[simp] theorem leaveWaiting_kept (h : InHandle) (s : State) :
    (leaveWaiting h s).kept = s.kept := rfl

@[simp] theorem endInbound_kept (quiet : Bool) (h : InHandle) (cause : Cause) (release : DateTime) (lastSent : Bool) (s : State) :
    (endInbound quiet h cause release lastSent s).kept = s.kept := by unfold endInbound; dsimp only; (repeat' split) <;> simp

@[simp] theorem State.modEngine_kept (s : State) (f : Engine → Engine) :
    (State.modEngine s f).kept = s.kept := rfl

@[simp] theorem askBlock_kept (s : State) :
    (askBlock s).kept = s.kept := by unfold askBlock; dsimp only; (repeat' split) <;> simp

@[simp] theorem finishEntry_kept (q : QueueEntry) (s : State) :
    (finishEntry q s).kept = s.kept := by unfold finishEntry; dsimp only; (repeat' split) <;> simp

@[simp] theorem endPage_kept (h : PageHandle) (s : State) :
    (endPage h s).kept = s.kept := by unfold endPage; split <;> simp

@[simp] theorem choosePage_kept (fuel : Nat) (s : State) :
    (choosePage fuel s).kept = s.kept := by
  induction fuel generalizing s with
  | zero => rfl
  | succ n ih =>
    unfold choosePage
    dsimp only
    (repeat' split) <;> first
      | (simp; done)
      | (simp [ih]; done)
      | exact kept_of_pair (by assumption) (by simp)
      | (simp [ih]; exact kept_of_pair (by assumption) (by simp))

@[simp] theorem nextPage_kept (s : State) :
    (nextPage s).kept = s.kept := by simp [nextPage]

@[simp] theorem engineOn_kept (s : State) :
    (engineOn s).kept = s.kept := by unfold engineOn; dsimp only; (repeat' split) <;> simp

@[simp] theorem interruptPage_kept (s : State) :
    (interruptPage s).kept = s.kept := by unfold interruptPage; split <;> simp

@[simp] theorem resume_kept (s : State) :
    (resume s).kept = s.kept := by unfold resume; (repeat' split) <;> simp

@[simp] theorem paperGoesOut_kept (s : State) :
    (paperGoesOut s).kept = s.kept := by unfold paperGoesOut; split <;> simp

@[simp] theorem jamIndication_kept (s : State) :
    (jamIndication s).kept = s.kept := by unfold jamIndication; dsimp only; (repeat' split) <;> simp

@[simp] theorem cancelCurrent_kept (s : State) :
    (cancelCurrent s).kept = s.kept := rfl

@[simp] theorem tellEngine_kept (h : InHandle) (s : State) :
    (tellEngine h s).kept = s.kept := by unfold tellEngine; (repeat' split) <;> simp

@[simp] theorem listAndTell_kept (held : Bool) (h : InHandle) (p : PageHandle) (s : State) :
    (listAndTell held h p s).kept = s.kept := by unfold listAndTell; split <;> simp

@[simp] theorem endAndTell_kept (quiet : Bool) (h : InHandle) (cause : Cause) (release : DateTime) (lastSent : Bool) (s : State) :
    (endAndTell quiet h cause release lastSent s).kept = s.kept := by simp [endAndTell]

@[simp] theorem changeState_kept (l : LineNo) (new : CallState) (cause : Option Cause) (s : State) :
    (changeState l new cause s).kept = s.kept := by unfold changeState; dsimp only; (repeat' split) <;> simp

@[simp] theorem reportUnseized_kept (l : LineNo) (cause : Cause) (s : State) :
    (reportUnseized l cause s).kept = s.kept := by simp [reportUnseized]

@[simp] theorem State.modParams_kept (s : State) (l : LineNo) (f : CallParams → CallParams) :
    (State.modParams s l f).kept = s.kept := rfl

@[simp] theorem State.modProc_kept (s : State) (l : LineNo) (f : Procedure → Procedure) :
    (State.modProc s l f).kept = s.kept := rfl

@[simp] theorem State.modSend_kept (s : State) (l : LineNo) (f : SendSide → SendSide) :
    (State.modSend s l f).kept = s.kept := rfl

@[simp] theorem State.modRecv_kept (s : State) (l : LineNo) (f : ReceiveSide → ReceiveSide) :
    (State.modRecv s l f).kept = s.kept := rfl

@[simp] theorem State.modCall_kept (s : State) (l : LineNo) (f : CallRec → CallRec) :
    (State.modCall s l f).kept = s.kept := rfl

@[simp] theorem fetchOn_kept (fuel : Nat) (x0 : LineNo) (s : State) :
    (fetchOn fuel x0 s).kept = s.kept := by
  induction fuel generalizing s with
  | zero => rfl
  | succ n ih =>
    unfold fetchOn
    dsimp only
    (repeat' split) <;> first
      | (simp; done)
      | (simp [ih]; done)
      | exact kept_of_pair (by assumption) (by simp)
      | (simp [ih]; exact kept_of_pair (by assumption) (by simp))

@[simp] theorem beginSymbol_kept (l : LineNo) (s : State) :
    (beginSymbol l s).kept = s.kept := by unfold beginSymbol; dsimp only; split <;> simp

@[simp] theorem nextSymbol_kept (l : LineNo) (s : State) :
    (nextSymbol l s).kept = s.kept := by simp [nextSymbol]

@[simp] theorem seize_kept (l : LineNo) (a : Attempt) (zone : Nat) (s : State) :
    (seize l a zone s).kept = s.kept := by simp [seize]

@[simp] theorem closeReceived_kept (quiet : Bool) (l : LineNo) (s : State) :
    (closeReceived quiet l s).kept = s.kept := by unfold closeReceived; split <;> simp

@[simp] theorem reportEnd_kept (quiet : Bool) (l : LineNo) (call : CallRec) (cause : Cause) (release : DateTime) (logged : Nat) (s : State) :
    (reportEnd quiet l call cause release logged s).kept = s.kept := by unfold reportEnd; (repeat' split) <;> simp

@[simp] theorem hangUp_kept (quiet : Bool) (l : LineNo) (cause : Cause) (s : State) :
    (hangUp quiet l cause s).kept = s.kept := by unfold hangUp; dsimp only; (repeat' split) <;> simp

@[simp] theorem connectOut_kept (l : LineNo) (s : State) :
    (connectOut l s).kept = s.kept := by simp [connectOut]

@[simp] theorem connectIn_kept (l : LineNo) (s : State) :
    (connectIn l s).kept = s.kept := by unfold connectIn; split <;> simp

@[simp] theorem refuseRing_kept (l : LineNo) (r : RingRefusal) (s : State) :
    (refuseRing l r s).kept = s.kept := by unfold refuseRing; dsimp only; (repeat' split) <;> simp

@[simp] theorem answer_kept (l : LineNo) (passed : Bool) (cause : Option Cause) (s : State) :
    (answer l passed cause s).kept = s.kept := by
  unfold answer
  dsimp only
  rw [State.modLine_kept, openInbound_kept]
  split
  · simp
  · cases h : logReserve (changeState l .answering cause s) with
    | none => simp
    | some t => simpa using logReserve_kept _ h

@[simp] theorem answerDecision_kept (resting : Bool) (l : LineNo) (s : State) :
    (answerDecision resting l s).1.kept = s.kept := by unfold answerDecision; split <;> simp

@[simp] theorem deferredDecision_kept (l : LineNo) (s : State) :
    (deferredDecision l s).kept = s.kept := by unfold deferredDecision; split <;> simp

@[simp] theorem letGo_kept (l : LineNo) (s : State) :
    (letGo l s).kept = s.kept := rfl

@[simp] theorem glare_kept (l : LineNo) (s : State) :
    (glare l s).kept = s.kept := by unfold glare; dsimp only; (repeat' split) <;> simp

@[simp] theorem ring_kept (l : LineNo) (s : State) :
    (ring l s).kept = s.kept := by unfold ring; dsimp only; (repeat' split) <;> simp

@[simp] theorem restEnd_kept (l : LineNo) (s : State) :
    (restEnd l s).kept = s.kept := by
  unfold restEnd
  dsimp only
  (repeat' split) <;> first
    | (simp; done)
    | (simp; exact kept_of_pair (by assumption) (by simp))
    | exact kept_of_pair (by assumption) (by simp)

@[simp] theorem resetLine_kept (quiet : Bool) (s : State) (l : LineNo) :
    (resetLine quiet s l).kept = s.kept := by unfold resetLine; dsimp only; (repeat' split) <;> simp

@[simp] theorem State.modScan_kept (s : State) (f : Scan → Scan) :
    (State.modScan s f).kept = s.kept := rfl

@[simp] theorem openSheet_kept (s : State) :
    (openSheet s).kept = s.kept := by
  unfold openSheet
  split
  · rename_i heq; rw [State.modScan_kept]; exact openPage_kept _ _ _ _ heq
  · simp

@[simp] theorem nextSheetOrEnd_kept (s : State) :
    (nextSheetOrEnd s).kept = s.kept := by unfold nextSheetOrEnd; split <;> simp

@[simp] theorem pageDone_kept (e : PageEnding) (s : State) :
    (pageDone e s).kept = s.kept := by unfold pageDone; split <;> simp

@[simp] theorem limitPage_kept (s : State) :
    (limitPage s).kept = s.kept := by unfold limitPage; split <;> simp

@[simp] theorem scanRefused_kept (a : Allocation) (s : State) :
    (scanRefused a s).kept = s.kept := by unfold scanRefused; (repeat' split) <;> simp

@[simp] theorem presentBlock_kept (s : State) :
    (presentBlock s).kept = s.kept := by unfold presentBlock; split <;> simp

@[simp] theorem pump_kept (fuel : Nat) (s : State) :
    (pump fuel s).kept = s.kept := by
  induction fuel generalizing s with
  | zero => rfl
  | succ n ih =>
    unfold pump
    dsimp only
    (repeat' split) <;> first
      | (simp; done)
      | (simp [ih]; done)
      | exact kept_of_pair (by assumption) (by simp)
      | (simp [ih]; exact kept_of_pair (by assumption) (by simp))

@[simp] theorem tryEnd_kept (s : State) :
    (tryEnd s).kept = s.kept := by
  unfold tryEnd
  dsimp only
  (repeat' split) <;> first
    | (simp; done)
    | (simp; exact kept_of_pair (by assumption) (by simp))
    | exact kept_of_pair (by assumption) (by simp)

@[simp] theorem endSheetPage_kept (e : PageEnding) (s : State) :
    (endSheetPage e s).kept = s.kept := by simp [endSheetPage]

@[simp] theorem scanCommitted_kept (byteLen : Nat) (s : State) :
    (scanCommitted byteLen s).kept = s.kept := by simp [scanCommitted]

@[simp] theorem scanRetry_kept (s : State) :
    (scanRetry s).kept = s.kept := by unfold scanRetry; split <;> simp

@[simp] theorem abandonSheet_kept (cause : ScanEnd) (s : State) :
    (abandonSheet cause s).kept = s.kept := by unfold abandonSheet; split <;> simp

@[simp] theorem captureLine_kept (samples : List Byte) (s : State) :
    (captureLine samples s).kept = s.kept := by unfold captureLine; dsimp only; (repeat' split) <;> simp

theorem scanSet_kept (body : List Byte) (s : State) {t : State} {x} (h : scanSet body s = .ok (t, x)) :
    t.kept = s.kept := by
  unfold scanSet at h
  dsimp only at h
  (repeat' split at h) <;> first | (simp at h; done) | (cases h; simp)

theorem scanStart_kept (body : List Byte) (s : State) {t : State} {x} (h : scanStart body s = .ok (t, x)) :
    t.kept = s.kept := by
  unfold scanStart at h
  (repeat' split at h) <;> first | (simp at h; done) | (cases h; simp)

theorem scanStop_kept (body : List Byte) (s : State) {t : State} {x} (h : scanStop body s = .ok (t, x)) :
    t.kept = s.kept := by
  unfold scanStop at h
  (repeat' split at h) <;> first | (simp at h; done) | (cases h; simp)

theorem scanStatus_kept (body : List Byte) (s : State) {t : State} {x} (h : scanStatus body s = .ok (t, x)) :
    t.kept = s.kept := by
  unfold scanStatus at h
  (repeat' split at h) <;> first | (simp at h; done) | (cases h; simp)

@[simp] theorem sensePaper_kept (paper : Bool) (s : State) :
    (sensePaper paper s).kept = s.kept := rfl

@[simp] theorem feederStep_kept (samples : List Byte) (s : State) :
    (feederStep samples s).kept = s.kept := by unfold feederStep; dsimp only; (repeat' split) <;> simp

@[simp] theorem sheetEnd_kept (s : State) :
    (sheetEnd s).kept = s.kept := by unfold sheetEnd; dsimp only; (repeat' split) <;> simp

@[simp] theorem scanHoldTimeout_kept (s : State) :
    (scanHoldTimeout s).kept = s.kept := by unfold scanHoldTimeout; split <;> simp

@[simp] theorem ejectionComplete_kept (s : State) :
    (ejectionComplete s).kept = s.kept := by unfold ejectionComplete; (repeat' split) <;> simp

theorem inboundStatus_kept (body : List Byte) (s : State) {t : State} {x} (h : inboundStatus body s = .ok (t, x)) :
    t.kept = s.kept := by
  unfold inboundStatus at h
  (repeat' split at h) <;> first | (simp at h; done) | (cases h; simp)

theorem inboundSummary_kept (body : List Byte) (s : State) {t : State} {x} (h : inboundSummary body s = .ok (t, x)) :
    t.kept = s.kept := by
  unfold inboundSummary at h
  (repeat' split at h) <;> first | (simp at h; done) | (cases h; simp)

theorem inboundDelete_kept (body : List Byte) (s : State) {t : State} {x} (h : inboundDelete body s = .ok (t, x)) :
    t.kept = s.kept := by
  unfold inboundDelete at h
  dsimp only at h
  (repeat' split at h) <;> first | (simp at h; done) | (cases h; simp)

theorem urgentSet_kept (body : List Byte) (s : State) {t : State} {x} (h : urgentSet body s = .ok (t, x)) :
    t.kept = s.kept := by
  unfold urgentSet at h
  dsimp only at h
  (repeat' split at h) <;> first | (simp at h; done) | (cases h; simp)

theorem printDoc_kept (body : List Byte) (s : State) {t : State} {x} (h : printDoc body s = .ok (t, x)) :
    t.kept = s.kept := by
  unfold printDoc at h
  dsimp only at h
  (repeat' split at h) <;> first | (simp at h; done) | (cases h; simp)

theorem printPage_kept (body : List Byte) (s : State) {t : State} {x} (h : printPage body s = .ok (t, x)) :
    t.kept = s.kept := by
  unfold printPage at h
  dsimp only at h
  (repeat' split at h) <;> first
    | (simp at h; done)
    | (cases h; rw [placeEntry_kept]; exact raiseRef_kept _ _ ‹_›)

@[simp] theorem removeEntry_kept (q : QueueEntry) (s : State) :
    (removeEntry q s).kept = s.kept := by unfold removeEntry; (repeat' split) <;> simp

theorem printCancelEntry_kept (body : List Byte) (s : State) {t : State} {x} (h : printCancelEntry body s = .ok (t, x)) :
    t.kept = s.kept := by
  unfold printCancelEntry at h
  (repeat' split at h) <;> first | (simp at h; done) | (cases h; simp)

theorem printCancelDoc_kept (body : List Byte) (s : State) {t : State} {x} (h : printCancelDoc body s = .ok (t, x)) :
    t.kept = s.kept := by
  unfold printCancelDoc at h
  dsimp only at h
  (repeat' split at h) <;> first | (simp at h; done) | (cases h; simp)

theorem printPause_kept (body : List Byte) (s : State) {t : State} {x} (h : printPause body s = .ok (t, x)) :
    t.kept = s.kept := by
  unfold printPause at h
  dsimp only at h
  (repeat' split at h) <;> first | (simp at h; done) | (cases h; simp)

theorem printResume_kept (body : List Byte) (s : State) {t : State} {x} (h : printResume body s = .ok (t, x)) :
    t.kept = s.kept := by
  unfold printResume at h
  (repeat' split at h) <;> first | (simp at h; done) | (cases h; simp)

theorem printStatus_kept (body : List Byte) (s : State) {t : State} {x} (h : printStatus body s = .ok (t, x)) :
    t.kept = s.kept := by
  unfold printStatus at h
  (repeat' split at h) <;> first | (simp at h; done) | (cases h; simp)

@[simp] theorem entryBegin_kept (s : State) :
    (entryBegin s).kept = s.kept := by unfold entryBegin; (repeat' split) <;> simp

@[simp] theorem headLineStruck_kept (s : State) :
    (headLineStruck s).kept = s.kept := by unfold headLineStruck; (repeat' split) <;> simp

@[simp] theorem cutFeedDone_kept (s : State) :
    (cutFeedDone s).kept = s.kept := by unfold cutFeedDone; split <;> simp

@[simp] theorem paperRestored_kept (s : State) :
    (paperRestored s).kept = s.kept := by unfold paperRestored; split <;> simp

theorem docCreate_kept (body : List Byte) (s : State) {t : State} {x} (h : docCreate body s = .ok (t, x)) :
    t.kept = s.kept := by
  unfold docCreate at h
  dsimp only at h
  (repeat' split at h) <;> first | (simp at h; done) | (cases h; simp)

theorem docAddPages_kept (body : List Byte) (s : State) {t : State} {x} (h : docAddPages body s = .ok (t, x)) :
    t.kept = s.kept := by
  unfold docAddPages at h
  dsimp only at h
  (repeat' split at h) <;> first
    | (simp at h; done)
    | (cases h; rw [State.setDoc_kept]; exact raiseRefs_kept _ _ ‹_›)

theorem docAddDests_kept (body : List Byte) (s : State) {t : State} {x} (h : docAddDests body s = .ok (t, x)) :
    t.kept = s.kept := by
  unfold docAddDests at h
  dsimp only at h
  (repeat' split at h) <;> first | (simp at h; done) | (cases h; simp)

theorem docSubmit_kept (body : List Byte) (s : State) {t : State} {x} (h : docSubmit body s = .ok (t, x)) :
    t.kept = s.kept := by
  unfold docSubmit at h
  dsimp only at h
  (repeat' split at h) <;> first | (simp at h; done) | (cases h; simp)

theorem docDelete_kept (body : List Byte) (s : State) {t : State} {x} (h : docDelete body s = .ok (t, x)) :
    t.kept = s.kept := by
  unfold docDelete at h
  dsimp only at h
  (repeat' split at h) <;> first | (simp at h; done) | (cases h; simp)

theorem docStatus_kept (body : List Byte) (s : State) {t : State} {x} (h : docStatus body s = .ok (t, x)) :
    t.kept = s.kept := by
  unfold docStatus at h
  (repeat' split at h) <;> first | (simp at h; done) | (cases h; simp)

theorem docDestStatus_kept (body : List Byte) (s : State) {t : State} {x} (h : docDestStatus body s = .ok (t, x)) :
    t.kept = s.kept := by
  unfold docDestStatus at h
  (repeat' split at h) <;> first | (simp at h; done) | (cases h; simp)

@[simp] theorem retryEligible_kept (record : Nat) (s : State) :
    (retryEligible record s).kept = s.kept := by unfold retryEligible; (repeat' split) <;> simp

theorem lineConfigure_kept (body : List Byte) (s : State) {t : State} {x} (h : lineConfigure body s = .ok (t, x)) :
    t.kept = s.kept := by
  unfold lineConfigure at h
  (repeat' split at h) <;> first | (simp at h; done) | (cases h; simp)

theorem lineStatusOf_kept (body : List Byte) (s : State) {t : State} {x} (h : lineStatusOf body s = .ok (t, x)) :
    t.kept = s.kept := by
  unfold lineStatusOf at h
  (repeat' split at h) <;> first | (simp at h; done) | (cases h; simp)

theorem lineHoldOf_kept (body : List Byte) (s : State) {t : State} {x} (h : lineHoldOf body s = .ok (t, x)) :
    t.kept = s.kept := by
  unfold lineHoldOf at h
  (repeat' split at h) <;> first | (simp at h; done) | (cases h; simp)

theorem lineReleaseOf_kept (body : List Byte) (s : State) {t : State} {x} (h : lineReleaseOf body s = .ok (t, x)) :
    t.kept = s.kept := by
  unfold lineReleaseOf at h
  dsimp only at h
  (repeat' split at h) <;> first | (simp at h; done) | (cases h; simp)

theorem macroGet_kept (body : List Byte) (s : State) {t : State} {x} (h : macroGet body s = .ok (t, x)) :
    t.kept = s.kept := by
  unfold macroGet at h
  (repeat' split at h) <;> first | (simp at h; done) | (cases h; simp)

@[simp] theorem cancelOnLine_kept (h : DocHandle) (s : State) (l : LineNo) :
    (cancelOnLine h s l).kept = s.kept := by unfold cancelOnLine; dsimp only; (repeat' split) <;> simp

@[simp] theorem cancelDraft_kept (slot : Nat) (s : State) :
    (cancelDraft slot s).1.kept = s.kept := by simp [cancelDraft]

@[simp] theorem cancelRunning_kept (h : DocHandle) (s : State) :
    (cancelRunning h s).1.kept = s.kept := by
  unfold cancelRunning
  dsimp only
  split
  · simp
  · exact (foldl_kept (fun s l => cancelOnLine_kept h s l) _ _).trans (by simp)

theorem docCancel_kept (body : List Byte) (s : State) {t : State} {x} (h : docCancel body s = .ok (t, x)) :
    t.kept = s.kept := by
  unfold docCancel at h
  dsimp only at h
  (repeat' split at h) <;> first | (simp at h; done) | (cases h; simp)

@[simp] theorem endUnseized_kept (l : LineNo) (a : Attempt) (cause : Cause) (s : State) :
    (endUnseized l a cause s).kept = s.kept := by simp [endUnseized]

@[simp] theorem dialExpansion_kept (l : LineNo) (s : State) :
    (dialExpansion l s).kept = s.kept := by unfold dialExpansion; (repeat' split) <;> simp

@[simp] theorem zoneLookup_kept (l : LineNo) (s : State) :
    (zoneLookup l s).kept = s.kept := by
  unfold zoneLookup
  (repeat' split) <;> first
    | (simp; done)
    | (rw [seize_kept]; exact logReserve_kept _ ‹_›)

@[simp] theorem dialSymbolEnd_kept (l : LineNo) (s : State) :
    (dialSymbolEnd l s).kept = s.kept := by unfold dialSymbolEnd; dsimp only; (repeat' split) <;> simp

@[simp] theorem dialToneReport_kept (l : LineNo) (s : State) :
    (dialToneReport l s).kept = s.kept := by unfold dialToneReport; dsimp only; (repeat' split) <;> simp

@[simp] theorem dialToneTimeout_kept (l : LineNo) (s : State) :
    (dialToneTimeout l s).kept = s.kept := by unfold dialToneTimeout; dsimp only; (repeat' split) <;> simp

@[simp] theorem busyTone_kept (l : LineNo) (s : State) :
    (busyTone l s).kept = s.kept := by unfold busyTone; dsimp only; (repeat' split) <;> simp

@[simp] theorem answerIndication_kept (l : LineNo) (s : State) :
    (answerIndication l s).kept = s.kept := by unfold answerIndication; dsimp only; (repeat' split) <;> simp

@[simp] theorem answerTimeout_kept (l : LineNo) (s : State) :
    (answerTimeout l s).kept = s.kept := by unfold answerTimeout; split <;> simp

@[simp] theorem ringBurstEnd_kept (l : LineNo) (s : State) :
    (ringBurstEnd l s).kept = s.kept := by unfold ringBurstEnd; split <;> simp

@[simp] theorem answerToneEnd_kept (l : LineNo) (s : State) :
    (answerToneEnd l s).kept = s.kept := by unfold answerToneEnd; split <;> simp

@[simp] theorem holdReady_kept (l : LineNo) (what : Sending) (s : State) :
    (holdReady l what s).kept = s.kept := rfl

@[simp] theorem beginSending_kept (l : LineNo) (what : Sending) (s : State) :
    (beginSending l what s).kept = s.kept := rfl

@[simp] theorem heard_kept (l : LineNo) (h : Heard) (s : State) :
    (heard l h s).kept = s.kept := rfl

@[simp] theorem unheard_kept (l : LineNo) (s : State) :
    (unheard l s).kept = s.kept := by unfold unheard; dsimp only; split <;> simp

@[simp] theorem answerStored_kept (l : LineNo) (what : Sending) (s : State) :
    (answerStored l what s).kept = s.kept := by unfold answerStored; split <;> simp

@[simp] theorem repeatOrDiscard_kept (l : LineNo) (h : Heard) (s : State) :
    (repeatOrDiscard l h s).kept = s.kept := by unfold repeatOrDiscard; dsimp only; (repeat' split) <;> simp

@[simp] theorem releaseLater_kept (l : LineNo) (cause : Cause) (s : State) :
    (releaseLater l cause s).kept = s.kept := by simp [releaseLater]

@[simp] theorem releaseNow_kept (l : LineNo) (cause : Cause) (s : State) :
    (releaseNow l cause s).kept = s.kept := by simp [releaseNow]

@[simp] theorem nextFrame_kept (l : LineNo) (s : State) :
    (nextFrame l s).kept = s.kept := by unfold nextFrame; dsimp only; (repeat' split) <;> simp

@[simp] theorem beginFrames_kept (l : LineNo) (s : State) :
    (beginFrames l s).kept = s.kept := by simp [beginFrames]

@[simp] theorem queueFrames_kept (l : LineNo) (round : Nat) (frames : List Nat) (s : State) :
    (queueFrames l round frames s).kept = s.kept := rfl

@[simp] theorem queueBlock_kept (l : LineNo) (s : State) :
    (queueBlock l s).kept = s.kept := rfl

@[simp] theorem turnaroundExpiry_kept (l : LineNo) (s : State) :
    (turnaroundExpiry l s).kept = s.kept := by unfold turnaroundExpiry; (repeat' split) <;> simp

@[simp] theorem frameSent_kept (l : LineNo) (s : State) :
    (frameSent l s).kept = s.kept := by unfold frameSent; dsimp only; (repeat' split) <;> simp

@[simp] theorem afterPageGood_kept (l : LineNo) (s : State) :
    (afterPageGood l s).kept = s.kept := by unfold afterPageGood; split <;> simp

@[simp] theorem transmissionSent_kept (l : LineNo) (s : State) :
    (transmissionSent l s).kept = s.kept := by unfold transmissionSent; (repeat' split) <;> simp

@[simp] theorem quitSent_kept (l : LineNo) (s : State) :
    (quitSent l s).kept = s.kept := by unfold quitSent; (repeat' split) <;> simp

@[simp] theorem answerWaitExpiry_kept (l : LineNo) (s : State) :
    (answerWaitExpiry l s).kept = s.kept := by unfold answerWaitExpiry; dsimp only; (repeat' split) <;> simp

@[simp] theorem remoteToneEnd_kept (l : LineNo) (s : State) :
    (remoteToneEnd l s).kept = s.kept := by unfold remoteToneEnd; dsimp only; (repeat' split) <;> simp

@[simp] theorem handIdentity_kept (l : LineNo) (identity : List Byte) (s : State) :
    (handIdentity l identity s).kept = s.kept := by unfold handIdentity; dsimp only; (repeat' split) <;> simp

@[simp] theorem takeOffer_kept (l : LineNo) (identity : List Byte) (rates orders : Byte) (chop : Bool) (cls : ResClass) (s : State) :
    (takeOffer l identity rates orders chop cls s).kept = s.kept := by unfold takeOffer; dsimp only; (repeat' split) <;> simp

@[simp] theorem offerReceived_kept (l : LineNo) (identity : List Byte) (rates orders : Byte) (chop : Bool) (cls : ResClass) (s : State) :
    (offerReceived l identity rates orders chop cls s).kept = s.kept := by unfold offerReceived; dsimp only; (repeat' split) <;> simp

@[simp] theorem takeChoose_kept (l : LineNo) (identity : List Byte) (rate : LineRate) (order : BitOrder) (chop : Bool) (classes : Byte) (s : State) :
    (takeChoose l identity rate order chop classes s).kept = s.kept := by unfold takeChoose; dsimp only; (repeat' split) <;> simp

@[simp] theorem chooseReceived_kept (l : LineNo) (identity : List Byte) (rate : LineRate) (order : BitOrder) (chop : Bool) (classes : Byte) (s : State) :
    (chooseReceived l identity rate order chop classes s).kept = s.kept := by unfold chooseReceived; dsimp only; (repeat' split) <;> simp

@[simp] theorem stepDownLine_kept (l : LineNo) (s : State) :
    (stepDownLine l s).1.kept = s.kept := by unfold stepDownLine; (repeat' split) <;> simp

@[simp] theorem holdBurst_kept (l : LineNo) (s : State) :
    (holdBurst l s).kept = s.kept := by unfold holdBurst; split <;> simp

@[simp] theorem trainGoodReceived_kept (l : LineNo) (s : State) :
    (trainGoodReceived l s).kept = s.kept := by unfold trainGoodReceived; dsimp only; (repeat' split) <;> simp

@[simp] theorem trainBadReceived_kept (l : LineNo) (s : State) :
    (trainBadReceived l s).kept = s.kept := by
  unfold trainBadReceived
  dsimp only
  (repeat' split) <;> first
    | (simp; done)
    | (simp; exact kept_of_pair (by assumption) (by simp))
    | exact kept_of_pair (by assumption) (by simp)

@[simp] theorem answerBad_kept (l : LineNo) (rate : LineRate) (s : State) :
    (answerBad l rate s).kept = s.kept := by
  unfold answerBad
  dsimp only
  (repeat' split) <;> first
    | (simp; done)
    | (simp; exact kept_of_pair (by assumption) (by simp))
    | exact kept_of_pair (by assumption) (by simp)

@[simp] theorem answerGood_kept (l : LineNo) (rate : LineRate) (s : State) :
    (answerGood l rate s).kept = s.kept := by simp [answerGood]

@[simp] theorem burstReceived_kept (l : LineNo) (rate : LineRate) (goodQuality : Bool) (s : State) :
    (burstReceived l rate goodQuality s).kept = s.kept := by unfold burstReceived; dsimp only; (repeat' split) <;> simp

@[simp] theorem freeSendBuffer_kept (l : LineNo) (s : State) :
    (freeSendBuffer l s).kept = s.kept := by simp [freeSendBuffer]

@[simp] theorem blockAccepted_kept (l : LineNo) (s : State) :
    (blockAccepted l s).kept = s.kept := by unfold blockAccepted; dsimp only; (repeat' split) <;> simp

@[simp] theorem resendRound_kept (l : LineNo) (marked : List Nat) (s : State) :
    (resendRound l marked s).kept = s.kept := by
  unfold resendRound
  dsimp only
  (repeat' split) <;> first
    | (simp; done)
    | (simp; exact kept_of_pair (by assumption) (by simp))
    | exact kept_of_pair (by assumption) (by simp)

@[simp] theorem resendReceived_kept (l : LineNo) (marks : List Byte) (s : State) :
    (resendReceived l marks s).kept = s.kept := by unfold resendReceived; dsimp only; (repeat' split) <;> simp

@[simp] theorem nextSentPage_kept (l : LineNo) (s : State) :
    (nextSentPage l s).kept = s.kept := by simp [nextSentPage]

@[simp] theorem pageGoodReceived_kept (l : LineNo) (s : State) :
    (pageGoodReceived l s).kept = s.kept := by unfold pageGoodReceived; dsimp only; (repeat' split) <;> simp

@[simp] theorem pageFailedReceived_kept (l : LineNo) (s : State) :
    (pageFailedReceived l s).kept = s.kept := by unfold pageFailedReceived; dsimp only; (repeat' split) <;> simp

@[simp] theorem quitReceived_kept (l : LineNo) (s : State) :
    (quitReceived l s).kept = s.kept := by unfold quitReceived; dsimp only; (repeat' split) <;> simp

@[simp] theorem frameReceived_kept (l : LineNo) (octets : List Byte) (s : State) :
    (frameReceived l octets s).kept = s.kept := by unfold frameReceived; dsimp only; (repeat' split) <;> simp

@[simp] theorem storeFails_kept (l : LineNo) (sub : StoreSub) (s : State) :
    (storeFails l sub s).kept = s.kept := by simp [storeFails]

@[simp] theorem blockStored_kept (l : LineNo) (s : State) :
    (blockStored l s).kept = s.kept := by simp [blockStored]

@[simp] theorem writeNext_kept (l : LineNo) (s : State) :
    (writeNext l s).kept = s.kept := by
  unfold writeNext
  (repeat' split) <;> first
    | (simp; done)
    | (simp; exact kept_of_pair (by assumption) (by simp))
    | exact kept_of_pair (by assumption) (by simp)

theorem openReceived_kept (l : LineNo) (s : State) {t : State} (h : openReceived l s = .ok t) :
    t.kept = s.kept := by
  unfold openReceived at h
  (repeat' split at h) <;> first
    | (simp at h; done)
    | (cases h; first | rfl | (rw [State.modInDoc_kept]; exact openPage_kept _ _ _ _ ‹_›))

@[simp] theorem storeBlock_kept (l : LineNo) (count : Nat) (final : Option Nat) (s : State) :
    (storeBlock l count final s).kept = s.kept := by
  unfold storeBlock
  split
  · simp
  · rename_i heq; dsimp only; rw [writeNext_kept, State.modRecv_kept]; exact openReceived_kept _ _ heq

@[simp] theorem answerMarks_kept (l : LineNo) (round : Nat) (missing : List Nat) (s : State) :
    (answerMarks l round missing s).kept = s.kept := by
  unfold answerMarks
  dsimp only
  (repeat' split) <;> first
    | (simp; done)
    | (simp; exact kept_of_pair (by assumption) (by simp))
    | exact kept_of_pair (by assumption) (by simp)

@[simp] theorem blockEndReceived_kept (l : LineNo) (sequence block round count : Nat) (final : Option Nat) (s : State) :
    (blockEndReceived l sequence block round count final s).kept = s.kept := by unfold blockEndReceived; dsimp only; (repeat' split) <;> simp

@[simp] theorem pageReceived_kept (l : LineNo) (held : Bool) (s : State) :
    (pageReceived l held s).kept = s.kept := by unfold pageReceived; split <;> simp

@[simp] theorem pageRefused_kept (l : LineNo) (held : Bool) (s : State) :
    (pageRefused l held s).kept = s.kept := by unfold pageRefused; split <;> simp

@[simp] theorem takePageEnd_kept (l : LineNo) (lineCount : Nat) (next : Option ResClass) (s : State) :
    (takePageEnd l lineCount next s).kept = s.kept := by
  unfold takePageEnd
  dsimp only
  (repeat' split) <;> first
    | (simp; done)
    | (simp; exact kept_of_pair (by assumption) (by simp))
    | exact kept_of_pair (by assumption) (by simp)

@[simp] theorem pageEndReceived_kept (l : LineNo) (sequence lineCount : Nat) (next : Option ResClass) (s : State) :
    (pageEndReceived l sequence lineCount next s).kept = s.kept := by unfold pageEndReceived; dsimp only; (repeat' split) <;> simp

@[simp] theorem carrierBegin_kept (l : LineNo) (trainingBurst : Bool) (s : State) :
    (carrierBegin l trainingBurst s).kept = s.kept := by unfold carrierBegin; dsimp only; (repeat' split) <;> simp

@[simp] theorem carrierAbsent_kept (l : LineNo) (s : State) :
    (carrierAbsent l s).kept = s.kept := by unfold carrierAbsent; dsimp only; (repeat' split) <;> simp

@[simp] theorem carrierReturn_kept (l : LineNo) (s : State) :
    (carrierReturn l s).kept = s.kept := by unfold carrierReturn; dsimp only; (repeat' split) <;> simp

@[simp] theorem carrierLossExpiry_kept (l : LineNo) (s : State) :
    (carrierLossExpiry l s).kept = s.kept := by unfold carrierLossExpiry; dsimp only; (repeat' split) <;> simp

@[simp] theorem invalidTransmission_kept (l : LineNo) (s : State) :
    (invalidTransmission l s).kept = s.kept := by unfold invalidTransmission; split <;> simp

@[simp] theorem State.setJob_kept (s : State) (j : Option HostJob) :
    (State.setJob s j).kept = s.kept := rfl

theorem pageOpenWrite_kept (body : List Byte) (s : State) {t : State} {x} (h : pageOpenWrite body s = .ok (t, x)) :
    t.kept = s.kept := by
  unfold pageOpenWrite at h
  (repeat' split at h) <;> first
    | (simp at h; done)
    | (cases h; exact openPage_kept _ _ _ _ ‹_›)

@[simp] theorem writeOn_kept (tag : Byte) (h : PageHandle) (left : List Byte) (fromPending accepted : Nat) (s : State) :
    (writeOn tag h left fromPending accepted s).kept = s.kept := by
  unfold writeOn
  (repeat' split) <;> first
    | (simp; done)
    | (simp; exact kept_of_pair (by assumption) (by simp))
    | exact kept_of_pair (by assumption) (by simp)

@[simp] theorem writeCommitted_kept (tag : Byte) (h : PageHandle) (left : List Byte) (fromPending accepted : Nat) (s : State) :
    (writeCommitted tag h left fromPending accepted s).kept = s.kept := by simp [writeCommitted]

@[simp] theorem writeRefused_kept (tag : Byte) (h : PageHandle) (left : List Byte) (fromPending accepted : Nat) (s : State) :
    (writeRefused tag h left fromPending accepted s).kept = s.kept := rfl

@[simp] theorem pageWriteData_kept (tag : Byte) (body : List Byte) (s : State) :
    (pageWriteData tag body s).kept = s.kept := by unfold pageWriteData; dsimp only; (repeat' split) <;> simp

@[simp] theorem closeUpload_kept (tag : Byte) (h : PageHandle) (req : CloseReq) (s : State) :
    (closeUpload tag h req s).kept = s.kept := by simp [closeUpload]

@[simp] theorem pageClose_kept (tag : Byte) (body : List Byte) (s : State) :
    (pageClose tag body s).kept = s.kept := by
  unfold pageClose
  dsimp only
  (repeat' split) <;> first
    | (simp; done)
    | (simp; exact kept_of_pair (by assumption) (by simp))
    | exact kept_of_pair (by assumption) (by simp)

@[simp] theorem readReply_kept (tag : Byte) (offset count : Nat) (got : List Byte) (damaged : Bool) (s : State) :
    (readReply tag offset count got damaged s).kept = s.kept := rfl

@[simp] theorem readOn_kept (tag : Byte) (h : PageHandle) (offset count next : Nat) (got : List Byte) (damaged : Bool) (s : State) :
    (readOn tag h offset count next got damaged s).kept = s.kept := by unfold readOn; split <;> simp

@[simp] theorem pageRead_kept (tag : Byte) (body : List Byte) (s : State) :
    (pageRead tag body s).kept = s.kept := by unfold pageRead; dsimp only; (repeat' split) <;> simp

@[simp] theorem pageInfo_kept (tag : Byte) (body : List Byte) (s : State) :
    (pageInfo tag body s).kept = s.kept := by unfold pageInfo; (repeat' split) <;> simp

theorem pagePin_kept (body : List Byte) (s : State) {t : State} {x} (h : pagePin body s = .ok (t, x)) :
    t.kept = s.kept := by
  unfold pagePin at h
  dsimp only at h
  (repeat' split at h) <;> first | (simp at h; done) | (cases h; simp)

theorem pageUnpin_kept (body : List Byte) (s : State) {t : State} {x} (h : pageUnpin body s = .ok (t, x)) :
    t.kept = s.kept := by
  unfold pageUnpin at h
  dsimp only at h
  (repeat' split at h) <;> first | (simp at h; done) | (cases h; simp)

theorem pageDrop_kept (body : List Byte) (s : State) {t : State} {x} (h : pageDrop body s = .ok (t, x)) :
    t.kept = s.kept := by
  unfold pageDrop at h
  dsimp only at h
  (repeat' split at h) <;> first | (simp at h; done) | (cases h; simp)

@[simp] theorem dropRequest_kept (r : Request) (s : State) :
    (dropRequest r s).kept = s.kept := rfl

@[simp] theorem readPaper_kept (s : State) : (readPaper s).kept = { s.kept with draws := s.draws + 1 } := rfl

/-- A sensor reading of a grant's own draws a free value; nothing else of what is kept moves. -/
theorem closeRefused_kept (c : Client) (h : PageHandle) (req : CloseReq) (a : Allocation) (s : State) :
    ∃ draws, (closeRefused c h req a s).kept = { s.kept with draws } := by
  have here (t : State) (ht : t.kept = s.kept) : ∃ draws, t.kept = { s.kept with draws } := ⟨s.draws, ht⟩
  unfold closeRefused
  dsimp only
  (repeat' split) <;> first
    | (refine here _ ?_; simp; done)
    | exact ⟨(finishClose false h { req with truncated := true } s).draws + 1, by simp⟩

@[simp] theorem blockRefused_kept (c : Client) (a : Allocation) (s : State) :
    (blockRefused c a s).kept = s.kept := by unfold blockRefused; (repeat' split) <;> simp

@[simp] theorem grantTo_kept (r : Request) (s : State) :
    (grantTo r s).kept = s.kept := rfl

theorem grantStep_kept (s : State) : ∃ draws, (grantStep s).kept = { s.kept with draws } := by
  have here (t : State) (ht : t.kept = s.kept) : ∃ draws, t.kept = { s.kept with draws } := ⟨s.draws, ht⟩
  unfold grantStep
  dsimp only
  (repeat' split) <;> first
    | (refine here _ ?_; simp; done)
    | exact closeRefused_kept _ _ _ _ (dropRequest _ s)

theorem moveBlock_kept (addr : Nat) (data : List Byte) (s : State) :
    (moveBlock addr data s).kept = { s.kept with mem := Memory.writeBlock s.mem addr data } := rfl

@[simp] theorem commitBlock_kept (h : PageHandle) (code : Nat) (s : State) :
    (commitBlock h code s).kept = s.kept := by unfold commitBlock; dsimp only; (repeat' split) <;> simp

@[simp] theorem closeCommitted_kept (c : Client) (h : PageHandle) (req : CloseReq) (s : State) :
    (closeCommitted c h req s).kept = s.kept := by cases c <;> simp only [closeCommitted] <;> (repeat' split) <;> simp

@[simp] theorem blockCommitted_kept (c : Client) (h : PageHandle) (s : State) :
    (blockCommitted c h s).kept = s.kept := by unfold blockCommitted; (repeat' split) <;> simp

@[simp] theorem freePort_kept (s : State) :
    (freePort s).kept = s.kept := rfl

@[simp] theorem markDamaged_kept (h : PageHandle) (k : Nat) (s : State) :
    (markDamaged h k s).kept = s.kept := by unfold markDamaged; dsimp only; (repeat' split) <;> simp

@[simp] theorem checkRead_kept (h : PageHandle) (k : Nat) (matched : Bool) (s : State) :
    (checkRead h k matched s).kept = s.kept := by unfold checkRead; split <;> simp

@[simp] theorem endFill_kept (l : LineNo) (s : State) :
    (endFill l s).kept = s.kept := by unfold endFill; split <;> simp

@[simp] theorem deliver_kept (c : Client) (data : List Byte) (matched : Bool) (s : State) :
    (deliver c data matched s).kept = s.kept := by unfold deliver; (repeat' split) <;> simp

@[simp] theorem readGone_kept (c : Client) (s : State) :
    (readGone c s).kept = s.kept := by unfold readGone; split <;> simp

@[simp] theorem readStep_kept (disturbed : List (Nat × Byte)) (s : State) :
    (readStep disturbed s).kept = s.kept := by unfold readStep; dsimp only; (repeat' split) <;> simp

/-- A block write's transfer moves one block of the memory; nothing else of what is kept moves (R7, R17). -/
theorem writeStep_kept (s : State) :
    (writeStep s).kept = s.kept ∨
      ∃ addr data, (writeStep s).kept = { s.kept with mem := Memory.writeBlock s.mem addr data } := by
  unfold writeStep
  dsimp only
  (repeat' split) <;> first
    | exact .inl rfl
    | (right; exact ⟨_, _, moveBlock_kept _ _ (freePort s)⟩)
    | exact .inr ⟨_, _, (blockCommitted_kept _ _ _).trans
        ((commitBlock_kept _ _ _).trans (moveBlock_kept _ _ (freePort s)))⟩
    | exact .inr ⟨_, _, (closeCommitted_kept _ _ _ _).trans
        ((commitBlock_kept _ _ _).trans (moveBlock_kept _ _ (freePort s)))⟩

theorem prefixRead_kept (body : List Byte) (s : State) {t : State} {x} (h : prefixRead body s = .ok (t, x)) :
    t.kept = s.kept := by
  unfold prefixRead at h
  (repeat' split at h) <;> first | (simp at h; done) | (cases h; simp)

theorem prefixTest_kept (body : List Byte) (s : State) {t : State} {x} (h : prefixTest body s = .ok (t, x)) :
    t.kept = s.kept := by
  unfold prefixTest at h
  (repeat' split at h) <;> first | (simp at h; done) | (cases h; simp)

theorem zoneRead_kept (body : List Byte) (s : State) {t : State} {x} (h : zoneRead body s = .ok (t, x)) :
    t.kept = s.kept := by
  unfold zoneRead at h
  (repeat' split at h) <;> first | (simp at h; done) | (cases h; simp)

theorem bandRead_kept (body : List Byte) (s : State) {t : State} {x} (h : bandRead body s = .ok (t, x)) :
    t.kept = s.kept := by
  unfold bandRead at h
  (repeat' split at h) <;> first | (simp at h; done) | (cases h; simp)

theorem weekdayRead_kept (body : List Byte) (s : State) {t : State} {x} (h : weekdayRead body s = .ok (t, x)) :
    t.kept = s.kept := by
  unfold weekdayRead at h
  (repeat' split at h) <;> first | (simp at h; done) | (cases h; simp)

theorem holidayRead_kept (body : List Byte) (s : State) {t : State} {x} (h : holidayRead body s = .ok (t, x)) :
    t.kept = s.kept := by
  unfold holidayRead at h
  (repeat' split at h) <;> first | (simp at h; done) | (cases h; simp)

theorem priceRead_kept (body : List Byte) (s : State) {t : State} {x} (h : priceRead body s = .ok (t, x)) :
    t.kept = s.kept := by
  unfold priceRead at h
  (repeat' split at h) <;> first | (simp at h; done) | (cases h; simp)

theorem deskSet_kept (body : List Byte) (s : State) {t : State} {x} (h : deskSet body s = .ok (t, x)) :
    t.kept = s.kept := by
  unfold deskSet at h
  (repeat' split at h) <;> first | (simp at h; done) | (cases h; simp)

@[simp] theorem deskClearOne_kept (s : State) (n : Nat) :
    (deskClearOne s n).kept = s.kept := by unfold deskClearOne; dsimp only; (repeat' split) <;> simp

theorem deskClear_kept (body : List Byte) (s : State) {t : State} {x} (h : deskClear body s = .ok (t, x)) :
    t.kept = s.kept := by
  unfold deskClear at h
  (repeat' split at h) <;> first
    | (simp at h; done)
    | (cases h; exact foldl_kept deskClearOne_kept _ _)

theorem deskRead_kept (body : List Byte) (s : State) {t : State} {x} (h : deskRead body s = .ok (t, x)) :
    t.kept = s.kept := by
  unfold deskRead at h
  (repeat' split at h) <;> first | (simp at h; done) | (cases h; simp)

theorem logRead_kept (body : List Byte) (s : State) {t : State} {x} (h : logRead body s = .ok (t, x)) :
    t.kept = s.kept := by
  unfold logRead at h
  (repeat' split at h) <;> first | (simp at h; done) | (cases h; simp)

theorem logDiscard_kept (body : List Byte) (s : State) {t : State} {x} (h : logDiscard body s = .ok (t, x)) :
    t.kept = s.kept := by
  unfold logDiscard at h
  dsimp only at h
  (repeat' split at h) <;> first | (simp at h; done) | (cases h; simp)

@[simp] theorem raiseCheck_kept (cause : CheckCause) (candidate : List Byte) (s : State) :
    (raiseCheck cause candidate s).kept = s.kept := by simp [raiseCheck]

theorem identify_kept (body : List Byte) (s : State) {t : State} {x} (h : identify body s = .ok (t, x)) :
    t.kept = s.kept := by
  unfold identify at h
  (repeat' split at h) <;> first | (simp at h; done) | (cases h; simp)

@[simp] theorem linkRate_kept (tag : Byte) (body : List Byte) (s : State) :
    (linkRate tag body s).kept = s.kept := by
  unfold linkRate
  (repeat' split) <;> rfl

theorem configGet_kept (body : List Byte) (s : State) {t : State} {x} (h : configGet body s = .ok (t, x)) :
    t.kept = s.kept := by
  unfold configGet at h
  (repeat' split at h) <;> first | (simp at h; done) | (cases h; simp)

@[simp] theorem raiseSuspect_kept (cause : SuspectCause) (already : Bool) (s : State) :
    (raiseSuspect cause already s).kept = s.kept := by simp [raiseSuspect]

@[simp] theorem markClockStep_kept (s : State) :
    (markClockStep s).kept = s.kept := by
  unfold markClockStep
  refine foldl_kept (fun s x => ?_) _ _
  dsimp only
  split <;> simp

theorem clockRead_kept (body : List Byte) (s : State) {t : State} {x} (h : clockRead body s = .ok (t, x)) :
    t.kept = s.kept := by
  unfold clockRead at h
  dsimp only at h
  (repeat' split at h) <;> first | (simp at h; done) | (cases h; simp)

@[simp] theorem readPrinterSensors_kept (paperAbsent jamReported : Bool) (s : State) :
    (readPrinterSensors paperAbsent jamReported s).kept = s.kept := by unfold readPrinterSensors; (repeat' split) <;> simp

@[simp] theorem resetAllLines_kept (quiet : Bool) (s : State) :
    (resetAllLines quiet s).kept = s.kept := by unfold resetAllLines; exact foldl_kept (fun s x => by simp) _ _

theorem resetScopeLines_kept (body : List Byte) (s : State) {t : State} {x} (h : resetScopeLines body s = .ok (t, x)) :
    t.kept = s.kept := by
  unfold resetScopeLines at h
  (repeat' split at h) <;> first | (simp at h; done) | (cases h; simp)

@[simp] theorem scopeEngine_kept (before : State) :
    (scopeEngine before).kept = before.kept := by unfold scopeEngine; dsimp only; (repeat' split) <;> simp

theorem resetScopeEngine_kept (body : List Byte) (s : State) {t : State} {x} (h : resetScopeEngine body s = .ok (t, x)) :
    t.kept = s.kept := by
  unfold resetScopeEngine at h
  (repeat' split at h) <;> first | (simp at h; done) | (cases h; simp)

end Sys2Proof.Machine
end

