-- ==== Sys2Proof/Laws/Memory.lean ====
section
/-! SUPPORT. The page memory: every write keeps the canonical form, and reading after a write. -/

namespace Sys2Proof.Machine

/-- The form as a statement about the list: addresses strictly ascending, no entry equal to the unwritten octet. -/
theorem Memory.wf_iff (m : List Host.Cell) :
    Memory.wf m = true ↔ m.Pairwise (fun a b => a.1 < b.1) ∧ ∀ c ∈ m, c.2 ≠ unwritten := by
  induction m with
  | nil => simp [Memory.wf]
  | cons c r ih =>
    obtain ⟨a, v⟩ := c
    cases r with
    | nil => simp [Memory.wf]
    | cons d r =>
      obtain ⟨b, w⟩ := d
      simp only [Memory.wf, Bool.and_eq_true, bne_iff_ne, decide_eq_true_eq] at ih ⊢
      rw [ih]
      constructor
      · rintro ⟨⟨hv, hab⟩, hp, hm⟩
        refine ⟨List.pairwise_cons.2 ⟨?_, hp⟩, ?_⟩
        · intro x hx
          rcases List.mem_cons.1 hx with rfl | hx
          · exact hab
          · exact lt_trans hab ((List.pairwise_cons.1 hp).1 x hx)
        · intro x hx
          rcases List.mem_cons.1 hx with rfl | hx
          · exact hv
          · exact hm x hx
      · rintro ⟨hp, hm⟩
        exact ⟨⟨hm _ (List.mem_cons_self ..), (List.pairwise_cons.1 hp).1 _ (List.mem_cons_self ..)⟩,
          (List.pairwise_cons.1 hp).2, fun x hx => hm x (List.mem_cons_of_mem _ hx)⟩

theorem Memory.mem_cellsFrom {a : Nat} {data : List Byte} {c : Host.Cell} (h : c ∈ Memory.cellsFrom a data) :
    a ≤ c.1 ∧ c.1 < a + data.length ∧ c.2 ≠ unwritten := by
  induction data generalizing a with
  | nil => simp [Memory.cellsFrom] at h
  | cons v r ih =>
    unfold Memory.cellsFrom at h
    split at h
    · obtain ⟨h1, h2, h3⟩ := ih h
      simp only [List.length_cons]; exact ⟨by omega, by omega, h3⟩
    · rename_i hv
      rcases List.mem_cons.1 h with rfl | h
      · simp only [List.length_cons]; exact ⟨le_refl _, by omega, hv⟩
      · obtain ⟨h1, h2, h3⟩ := ih h
        simp only [List.length_cons]; exact ⟨by omega, by omega, h3⟩

theorem Memory.cellsFrom_ascending (a : Nat) (data : List Byte) :
    (Memory.cellsFrom a data).Pairwise (fun x y => x.1 < y.1) := by
  induction data generalizing a with
  | nil => simp [Memory.cellsFrom]
  | cons v r ih =>
    unfold Memory.cellsFrom
    split
    · exact ih _
    · exact List.pairwise_cons.2 ⟨fun x hx => by have := (Memory.mem_cellsFrom hx).1; simp; omega, ih _⟩

/-- A write keeps the canonical form. -/
theorem Memory.write_wf {m : List Host.Cell} (h : Memory.wf m = true) (a : Nat) (data : List Byte) :
    Memory.wf (Memory.write m a data) = true := by
  rw [Memory.wf_iff] at h ⊢
  obtain ⟨hp, hm⟩ := h
  unfold Memory.write
  refine ⟨?_, ?_⟩
  · rw [List.pairwise_append, List.pairwise_append]
    refine ⟨⟨hp.filter _, Memory.cellsFrom_ascending a data, ?_⟩, hp.filter _, ?_⟩
    · intro x hx y hy
      have := (Memory.mem_cellsFrom hy).1
      have := of_decide_eq_true (List.mem_filter.1 hx).2
      omega
    · intro x hx y hy
      have hy := of_decide_eq_true (List.mem_filter.1 hy).2
      rcases List.mem_append.1 hx with hx | hx
      · have := of_decide_eq_true (List.mem_filter.1 hx).2; omega
      · have := (Memory.mem_cellsFrom hx).2.1; omega
  · intro c hc
    rcases List.mem_append.1 hc with hc | hc
    · rcases List.mem_append.1 hc with hc | hc
      · exact hm c (List.mem_filter.1 hc).1
      · exact (Memory.mem_cellsFrom hc).2.2
    · exact hm c (List.mem_filter.1 hc).1

/-- A store block written keeps the canonical form. -/
theorem Memory.writeBlock_wf {m : List Host.Cell} (h : Memory.wf m = true) (block : Nat) (data : List Byte) :
    Memory.wf (Memory.writeBlock m block data) = true := Memory.write_wf h ..

theorem Memory.read_append (m n : List Host.Cell) (a : Nat) :
    Memory.read (m ++ n) a = if a ∈ m.map (·.1) then Memory.read m a else Memory.read n a := by
  induction m with
  | nil => simp
  | cons c r ih =>
    obtain ⟨b, v⟩ := c
    by_cases hb : b = a
    · simp [Memory.read, hb]
    · simp [Memory.read, hb, ih, Ne.symm hb]

theorem Memory.read_filter (m : List Host.Cell) (p : Nat → Bool) (a : Nat) :
    Memory.read (m.filter fun c => p c.1) a = if p a then Memory.read m a else unwritten := by
  induction m with
  | nil => simp [Memory.read]
  | cons c r ih =>
    obtain ⟨b, v⟩ := c
    by_cases hb : b = a
    · subst hb
      by_cases hp : p b
      · simp [Memory.read, hp]
      · simp [hp, ih]
    · by_cases hp : p b
      · simp [Memory.read, hp, ih, hb]
      · simp [Memory.read, hp, ih, hb]

theorem Memory.read_absent {m : List Host.Cell} {a : Nat} (h : a ∉ m.map (·.1)) : Memory.read m a = unwritten := by
  induction m with
  | nil => rfl
  | cons c r ih =>
    obtain ⟨b, v⟩ := c
    simp only [List.map_cons, List.mem_cons, not_or] at h
    simp [Memory.read, Ne.symm h.1, ih h.2]

theorem Memory.read_cellsFrom (a : Nat) (data : List Byte) (k : Nat) :
    Memory.read (Memory.cellsFrom a data) (a + k) = (data[k]?).getD unwritten := by
  induction data generalizing a k with
  | nil => simp [Memory.cellsFrom, Memory.read]
  | cons v r ih =>
    have below : Memory.read (Memory.cellsFrom (a + 1) r) a = unwritten := by
      apply Memory.read_absent
      intro hmem
      obtain ⟨c, hc, h⟩ := List.mem_map.1 hmem
      have := (Memory.mem_cellsFrom hc).1
      omega
    have shift : ∀ j, Memory.read (Memory.cellsFrom (a + 1) r) (a + (j + 1)) = (r[j]?).getD unwritten := by
      intro j
      have := ih (a + 1) j
      rwa [show a + 1 + j = a + (j + 1) by omega] at this
    unfold Memory.cellsFrom
    split
    · rename_i hv
      cases k with
      | zero => simpa [hv] using below
      | succ j => simpa using shift j
    · cases k with
      | zero => simp [Memory.read]
      | succ j => simpa [Memory.read] using shift j

/-- Reading inside a write gives what was written. -/
theorem Memory.read_write_in (m : List Host.Cell) (a : Nat) (data : List Byte) {k : Nat} (h : k < data.length) :
    Memory.read (Memory.write m a data) (a + k) = data[k] := by
  have low : a + k ∉ (m.filter fun c => decide (c.1 < a)).map (·.1) := by
    intro hm
    obtain ⟨c, hc, he⟩ := List.mem_map.1 hm
    have := of_decide_eq_true (List.mem_filter.1 hc).2
    omega
  have high : Memory.read (m.filter fun c => decide (a + data.length ≤ c.1)) (a + k) = unwritten := by
    rw [Memory.read_filter m (fun x => decide (a + data.length ≤ x))]
    simp [Nat.not_le.2 (Nat.add_lt_add_left h a)]
  have hv : (data[k]?).getD unwritten = data[k] := by simp [List.getElem?_eq_getElem h]
  unfold Memory.write
  rw [List.append_assoc, Memory.read_append, if_neg low, Memory.read_append, high, Memory.read_cellsFrom, hv]
  split
  · rfl
  · rename_i hn
    have := Memory.read_absent hn
    rw [Memory.read_cellsFrom, hv] at this
    exact this.symm

/-- Reading outside a write gives what was there. -/
theorem Memory.read_write_out (m : List Host.Cell) (a : Nat) (data : List Byte) {b : Nat}
    (h : b < a ∨ a + data.length ≤ b) : Memory.read (Memory.write m a data) b = Memory.read m b := by
  have mid : b ∉ (Memory.cellsFrom a data).map (·.1) := by
    intro hm
    obtain ⟨c, hc, he⟩ := List.mem_map.1 hm
    obtain ⟨h1, h2, _⟩ := Memory.mem_cellsFrom hc
    omega
  unfold Memory.write
  rw [List.append_assoc, Memory.read_append, Memory.read_append, if_neg mid,
    Memory.read_filter m (fun x => decide (x < a)), Memory.read_filter m (fun x => decide (a + data.length ≤ x))]
  rcases h with h | h
  · simp only [h, decide_true, if_true]
    split
    · rfl
    · rename_i hn
      have hn : b ∉ m.map (·.1) := by
        intro hm
        obtain ⟨c, hc, rfl⟩ := List.mem_map.1 hm
        exact hn (List.mem_map.2 ⟨c, List.mem_filter.2 ⟨hc, by simpa using h⟩, rfl⟩)
      rw [Memory.read_absent hn]; simp
  · have hb : ¬ b < a := by omega
    rw [if_neg]
    · simp [h]
    · intro hm
      obtain ⟨c, hc, rfl⟩ := List.mem_map.1 hm
      exact hb (of_decide_eq_true (List.mem_filter.1 hc).2)

end Sys2Proof.Machine
end

