-- ==== Sys2Proof/Laws/Reads.lean ====
section
/-! SUPPORT. What a block read's completion can do: the check of what was read, the requests and buffers that its reader goes
on with, a notice beside an update of another part, a line that holds a transmission; and what a delivery never touches, the
scan unit. -/

namespace Sys2Proof.Machine

-- One declaration at a time: proofs checked side by side hold a thread each.
set_option Elab.async false
set_option linter.unusedTactic false
set_option linter.unreachableTactic false
set_option linter.unusedSimpArgs false

/-! ### A notice beside an update of another part (R209) -/

@[simp] theorem raise_line (kind : NoticeKind) (fields : List Byte) (s : State) (l : LineNo) :
    (raise kind fields s).line l = s.line l := by
  obtain ⟨_, _, h⟩ := raise_frame kind fields s; rw [h]; rfl

@[simp] theorem raise_store (kind : NoticeKind) (fields : List Byte) (s : State) :
    (raise kind fields s).store = s.store := by
  obtain ⟨_, _, h⟩ := raise_frame kind fields s; rw [h]

@[simp] theorem raise_scan (kind : NoticeKind) (fields : List Byte) (s : State) :
    (raise kind fields s).scan = s.scan := by
  obtain ⟨_, _, h⟩ := raise_frame kind fields s; rw [h]

theorem raise_setLine (kind : NoticeKind) (fields : List Byte) (s : State) (l : LineNo) (x : Line) :
    (raise kind fields s).setLine l x = raise kind fields (s.setLine l x) := by
  by_cases h : kind.level < s.link.mask
  · rw [raise_masked h, raise_masked (s := s.setLine l x) h]
  · by_cases hf : 32 ≤ s.link.notices.length
    · rw [raise_full (by omega) hf, raise_full (s := s.setLine l x) (by simpa using h) hf]; rfl
    · rw [raise_room (by omega) (by omega),
        raise_room (s := s.setLine l x) (by simpa using h) (by simpa using hf)]; rfl

theorem raise_withStore (kind : NoticeKind) (fields : List Byte) (s : State) (t : Store) :
    raise kind fields { s with store := t } = { raise kind fields s with store := t } := by
  by_cases h : kind.level < s.link.mask
  · rw [raise_masked (s := s) h, raise_masked (s := { s with store := t }) h]
  · by_cases hf : 32 ≤ s.link.notices.length
    · rw [raise_full (s := s) (by omega) hf, raise_full (s := { s with store := t }) (by simpa using h) hf]
    · rw [raise_room (s := s) (by omega) (by omega),
        raise_room (s := { s with store := t }) (by simpa using h) (by simpa using hf)]; rfl

/-! ### A line that holds a transmission (R96, R97) -/

theorem holdReady_eq (l : LineNo) (what : Sending) (s : State) :
    holdReady l what s = s.setLine l { s.line l with
      params := { (s.line l).params with detector := .disarmed },
      proc := { (s.line l).proc with tx := .ready what, timer := false, incoming := false } } := by
  simp [holdReady, State.modProc, State.modParams, State.setLine_setLine]

theorem heard_eq (l : LineNo) (h : Heard) (s : State) :
    heard l h s = s.setLine l { s.line l with
      params := { (s.line l).params with repeats := 0, detector := .disarmed },
      proc := { (s.line l).proc with timer := false, incoming := false, lastIn := some h } } := by
  simp [heard, State.modProc, State.modParams, State.setLine_setLine]

/-- A line that changes its state and holds a transmission has entered that state with it. -/
theorem holdReady_changeState (l : LineNo) (what : Sending) (new : CallState) (s : State) (x : Line)
    (hs : (s.line l).state = x.state) (hne : x.state ≠ new) :
    holdReady l what (changeState l new none (s.setLine l x)) = s.entering l { x with
      state := new, params := { x.params with detector := .disarmed },
      proc := { x.proc with tx := .ready what, timer := false, incoming := false } } := by
  have h : changeState l new none (s.setLine l x) =
      raise .lineState (lineStateFields l x.state new s.now none) (s.setLine l { x with state := new }) := by
    simp [changeState, hne, State.setLine_setLine]; rfl
  rw [holdReady_eq, h, raise_setLine, raise_line]
  simp only [State.line_setLine_self, State.setLine_setLine, State.entering, hs]
  congr 1

/-! ### What a block read delivers (R11) -/

theorem Memory.readRange_length (m : List Host.Cell) (a n : Nat) : (Memory.readRange m a n).length = n := by
  induction n generalizing a with
  | zero => rfl
  | succ n ih => simp [Memory.readRange, ih]

/-- A block as read: the first 256 octets of what stands there with its check word, disturbed, and whether they match. -/
theorem readChecked_eq (s : State) (addr : Nat) (disturbed : List (Nat × Byte)) :
    readChecked s addr disturbed =
      let whole := disturb (Memory.readBlock s.mem addr ++ checkOctets (checkAt s.store.checks addr)) disturbed
      (whole.take 256, decide (disturbed = []) || Config.checkWord (whole.take 256) == wordOf (whole.drop 256)) := by
  unfold readChecked
  by_cases h : disturbed = []
  · have hl : (Memory.readBlock s.mem addr).length = 256 := Memory.readRange_length ..
    simp [h, disturb, List.take_left' hl]
  · simp [h]

/-- The state of a page whose block has been read: on a mismatch DAMAGED, and STORE_DAMAGE told the first time. -/
def State.marked (s : State) (h : PageHandle) (e : PageEntry) (k : Nat) (matched : Bool) : State :=
  if matched || e.damaged then s
  else raise .storeDamage (ePage h ++ e16 k) (s.setEntry h.slot { e with damaged := true })

theorem checkRead_eq {s : State} {h : PageHandle} {e : PageEntry} (he : s.page h = some e) (k : Nat) (matched : Bool) :
    checkRead h k matched s = s.marked h e k matched := by
  obtain ⟨-, hs, -, -⟩ := State.page_some he
  unfold checkRead State.marked markDamaged
  rw [he, ← hs]
  cases matched <;> simp

/-- The port is free whatever the check has marked. -/
theorem freePort_marked (s : State) (h : PageHandle) (e : PageEntry) (k : Nat) (matched : Bool) :
    (freePort s).marked h e k matched =
      { s.marked h e k matched with store := { (s.marked h e k matched).store with port := none } } := by
  unfold State.marked
  split
  · rfl
  · rw [raise_store]
    exact raise_withStore _ _ (s.setEntry h.slot { e with damaged := true }) _

/-- Everything that the completion of a read of a page still there does: the check, the port, and then the reader's own next
action, or nothing of the data for a reader that has ended. -/
theorem readStep_page {s : State} {c : Client} {level addr k : Nat} {h : PageHandle} {void : Bool} {e : PageEntry}
    (disturbed : List (Nat × Byte))
    (hp : s.store.port = some { req := { client := c, level, op := .read h k }, addr, void }) (he : s.page h = some e) :
    readStep disturbed s =
      let whole := disturb (Memory.readBlock s.mem addr ++ checkOctets (checkAt s.store.checks addr)) disturbed
      let matched : Bool :=
        decide (disturbed = []) || Config.checkWord (whole.take 256) == wordOf (whole.drop 256)
      let m := s.marked h e k matched
      let m : State := { m with store := { m.store with port := none } }
      if void then readGone c m else deliver c (whole.take 256) matched m := by
  unfold readStep
  rw [hp]
  dsimp only
  rw [readChecked_eq]
  dsimp only
  rw [checkRead_eq (s := freePort s) he, freePort_marked]
  rfl

theorem scanRetry_eq {s : State} (h : s.scan.state ≠ .held) : scanRetry s = s := by simp [scanRetry, h]

/-! ### What a reader goes on with (R12, R118) -/

/-- Asking for a block changes nothing but the requests that wait. -/
theorem askRead_frame (c : Client) (h : PageHandle) (k : Nat) (s : State) :
    ∃ waiting, askRead c h k s = { s with store := { s.store with waiting } } := by
  unfold askRead
  split
  · split
    · exact ⟨_, rfl⟩
    · exact ⟨s.store.waiting, rfl⟩
  · exact ⟨s.store.waiting, rfl⟩

/-- A fetch takes free buffers only: a buffer in use stays as it is. -/
theorem SendSide.takeBuffer_cases {x x' : SendSide} {b : TxBuffer} (h : x.takeBuffer b = some x') :
    (x.buf0 = none ∧ x' = { x with buf0 := some b }) ∨
      (x.buf0 ≠ none ∧ x.buf1 = none ∧ x' = { x with buf1 := some b }) := by
  unfold SendSide.takeBuffer at h
  split at h
  · rename_i h0; left; exact ⟨by simpa using h0, by simpa using h.symm⟩
  · rename_i h0
    split at h
    · rename_i h1; right; exact ⟨by simpa using h0, by simpa using h1, by simpa using h.symm⟩
    · cases h

theorem State.setLine_line (s : State) (l : LineNo) : s.setLine l (s.line l) = s := by
  unfold State.setLine State.line; fin_cases l <;> rfl

/-- Everything that going on with the fetches does: requests that wait, and line blocks to fetch that take free buffers. -/
theorem fetchOn_frame (fuel : Nat) (l : LineNo) (s : State) :
    ∃ waiting buf0 buf1 fetch,
      fetchOn fuel l s = { s.setLine l { s.line l with send := { (s.line l).send with buf0, buf1, fetch } } with
        store := { s.store with waiting } } ∧
      ((s.line l).send.buf0 ≠ none → buf0 = (s.line l).send.buf0) ∧
      ((s.line l).send.buf1 ≠ none → buf1 = (s.line l).send.buf1) ∧
      ((s.line l).send.buf0 = none →
        buf0 = none ∨ ∃ b, buf0 = some b ∧ (s.line l).send.fetch = some (b.pos, b.block)) := by
  have same (s : State) : ∃ waiting buf0 buf1 fetch,
      s = { s.setLine l { s.line l with send := { (s.line l).send with buf0, buf1, fetch } } with
        store := { s.store with waiting } } ∧
      ((s.line l).send.buf0 ≠ none → buf0 = (s.line l).send.buf0) ∧
      ((s.line l).send.buf1 ≠ none → buf1 = (s.line l).send.buf1) ∧
      ((s.line l).send.buf0 = none →
        buf0 = none ∨ ∃ b, buf0 = some b ∧ (s.line l).send.fetch = some (b.pos, b.block)) :=
    ⟨s.store.waiting, (s.line l).send.buf0, (s.line l).send.buf1, (s.line l).send.fetch, (s.setLine_line l).symm,
      fun _ => rfl, fun _ => rfl, .inl⟩
  induction fuel generalizing s with
  | zero => exact same s
  | succ n ih =>
    unfold fetchOn
    dsimp only
    split
    · exact same s
    · split
      · exact same s
      · split
        · split
          · obtain ⟨w, hw⟩ := askRead_frame (.lc l) ‹_› _ s
            rw [hw]
            exact ⟨w, (s.line l).send.buf0, (s.line l).send.buf1, (s.line l).send.fetch,
              congrArg (fun t : State => { t with store := { t.store with waiting := w } }) (s.setLine_line l).symm,
              fun _ => rfl, fun _ => rfl, .inl⟩
          · exact same s
        · split
          · exact same s
          · rename_i hfetch
            split
            · exact same s
            · split
              · exact same s
              · rename_i x' hx
                obtain ⟨w, b0, b1, f, hf, h0, h1, -⟩ := ih (s.modSend l fun _ => { x' with fetch := _ })
                refine ⟨w, b0, b1, f, hf.trans ?_, ?_, ?_, ?_⟩
                · simp only [State.modSend, State.modLine_eq, State.line_setLine_self, State.setLine_setLine]
                  obtain ⟨-, rfl⟩ | ⟨-, -, rfl⟩ := SendSide.takeBuffer_cases hx <;> rfl
                · intro hne
                  simp only [State.modSend, State.modLine_eq, State.line_setLine_self] at h0
                  obtain ⟨h, rfl⟩ | ⟨-, -, rfl⟩ := SendSide.takeBuffer_cases hx
                  · exact absurd h hne
                  · exact h0 hne
                · intro hne
                  simp only [State.modSend, State.modLine_eq, State.line_setLine_self] at h1
                  obtain ⟨-, rfl⟩ | ⟨-, h, rfl⟩ := SendSide.takeBuffer_cases hx
                  · exact h1 hne
                  · exact absurd h hne
                · intro hnone
                  simp only [State.modSend, State.modLine_eq, State.line_setLine_self] at h0
                  obtain ⟨-, rfl⟩ | ⟨h, -, -⟩ := SendSide.takeBuffer_cases hx
                  · exact .inr ⟨_, h0 (by simp), hfetch⟩
                  · exact absurd hnone h

/-! ### The decoder never moves the engine's page (R140, R142) -/

@[simp] theorem completeLine_page (dots : DotLine) (n : Nat) (faulty : Bool) (e : Engine) :
    (completeLine dots n faulty e).page = e.page := rfl

@[simp] theorem placeLine_page (dots : DotLine) (n : Nat) (faulty : Bool) (e : Engine) :
    (placeLine dots n faulty e).page = e.page := by unfold placeLine; dsimp only; (repeat' split) <;> rfl

@[simp] theorem runToken_page (n : Nat) (e : Engine) : (runToken n e).page = e.page := by
  unfold runToken; dsimp only; split
  · rfl
  · split <;> rfl

@[simp] theorem undefinedToken_page (e : Engine) : (undefinedToken e).page = e.page := by
  unfold undefinedToken; split <;> rfl

@[simp] theorem repeatToken_page (n : Nat) (e : Engine) : (repeatToken n e).page = e.page := by
  unfold repeatToken; split <;> rfl

theorem controlToken_page {act : Engine → Engine} (h : ∀ e, (act e).page = e.page) (e : Engine) :
    (controlToken act e).page = e.page := by
  unfold controlToken; split
  · rfl
  · exact h e

theorem oneToken_page {byteLen : Nat} {e e' : Engine} (h : oneToken byteLen e = some e') : e'.page = e.page := by
  unfold oneToken at h
  dsimp only at h
  (repeat' split at h) <;> cases h <;> first
    | exact controlToken_page (fun e => by first | rfl | exact repeatToken_page _ _) e
    | simp [Engine.eat]

theorem decodeOn_page (byteLen : Nat) (e : Engine) : (decodeOn byteLen e).page = e.page := by
  suffices h : ∀ fuel e, (decodeLoop byteLen fuel e).page = e.page from h ..
  intro fuel
  induction fuel with
  | zero => intro e; rfl
  | succ n ih =>
    intro e
    unfold decodeLoop
    (repeat' split) <;> first
      | rfl
      | exact (ih _).trans (oneToken_page ‹_›)
      | simp [ih]

/-- Everything that the engine does with a page in hand and no stop: it decodes, and then ends the page, strikes on, or asks
for the next block. -/
theorem engineOn_eq {s : State} {h : PageHandle} (hp : s.engine.page = some h) (hs : s.engine.stopped = false) :
    engineOn s =
      let g := decodeOn (s.entry h.slot).byteLen s.engine
      let t : State := { s with engine := g }
      if g.decoder.ended then
        if g.ring.isEmpty then nextPage (endPage h (withdraw .print t)) else withdraw .print t
      else askBlock t := by
  unfold engineOn
  rw [hp, hs]
  rfl

/-- The next block is asked for where R140 lets it, and the engine counts it. -/
theorem askBlock_eq {s : State} {h : PageHandle} {e : PageEntry} (hp : s.engine.page = some h) (he : s.page h = some e) :
    askBlock s =
      let d := s.engine.decoder
      if d.ended = false ∧ d.asked = d.delivered ∧ d.asked < e.committed ∧ d.asked < d.decoded / 256 + 2 then
        askRead .print h d.asked { s with engine := { s.engine with decoder := { d with asked := d.asked + 1 } } }
      else s := by
  unfold askBlock
  rw [hp]
  dsimp only
  rw [he]
  dsimp only
  by_cases hc : s.engine.decoder.ended = false ∧ s.engine.decoder.asked = s.engine.decoder.delivered ∧
      s.engine.decoder.asked < e.committed ∧ s.engine.decoder.asked < s.engine.decoder.decoded / 256 + 2
  · rw [if_pos hc, if_neg]
    · rfl
    · obtain ⟨h1, h2, h3, h4⟩ := hc
      simp [h1, h2] at *
      omega
  · rw [if_neg hc, if_pos]
    by_contra hn
    apply hc
    simp at hn
    exact ⟨hn.1.1.1, hn.1.1.2, hn.2, by omega⟩

/-! ### A delivery leaves the scan unit alone -/

@[simp] theorem lowTest_scan (s : State) : (lowTest s).scan = s.scan := by unfold lowTest; (repeat' split) <;> simp

@[simp] theorem withdraw_scan (c : Client) (s : State) : (withdraw c s).scan = s.scan := rfl

@[simp] theorem reply_scan (kind tag : Byte) (status : Status) (fields : List Byte) (s : State) :
    (reply kind tag status fields s).scan = s.scan := rfl

@[simp] theorem withdrawReads_scan (h : PageHandle) (s : State) : (withdrawReads h s).scan = s.scan := by
  unfold withdrawReads; dsimp only; (repeat' split) <;> simp

@[simp] theorem askRead_scan (c : Client) (h : PageHandle) (k : Nat) (s : State) : (askRead c h k s).scan = s.scan := by
  obtain ⟨_, hw⟩ := askRead_frame c h k s; rw [hw]

@[simp] theorem fetchOn_scan (fuel : Nat) (l : LineNo) (s : State) : (fetchOn fuel l s).scan = s.scan := by
  obtain ⟨_, _, _, _, hw, -⟩ := fetchOn_frame fuel l s; rw [hw]; rfl

@[simp] theorem lowerRef_scan (h : PageHandle) (s : State) : (lowerRef h s).scan = s.scan := by
  unfold lowerRef releaseTest freePage; (repeat' split) <;> simp

@[simp] theorem lowerRefs_scan (hs : List PageHandle) (s : State) : (lowerRefs hs s).scan = s.scan := by
  unfold lowerRefs
  induction hs generalizing s with
  | nil => rfl
  | cons h hs ih => exact (ih _).trans (lowerRef_scan h s)

@[simp] theorem freeInbound_scan (slot : Nat) (s : State) : (freeInbound slot s).scan = s.scan := by simp [freeInbound]

@[simp] theorem leaveQueue_scan (n : Nat) (s : State) : (leaveQueue n s).scan = s.scan := by
  unfold leaveQueue; dsimp only; split <;> rfl

@[simp] theorem finishEntry_scan (q : QueueEntry) (s : State) : (finishEntry q s).scan = s.scan := by
  unfold finishEntry; dsimp only; (repeat' split) <;> simp

@[simp] theorem endPage_scan (h : PageHandle) (s : State) : (endPage h s).scan = s.scan := by
  unfold endPage; split <;> simp

@[simp] theorem askBlock_scan (s : State) : (askBlock s).scan = s.scan := by
  unfold askBlock; dsimp only; (repeat' split) <;> simp

@[simp] theorem choosePage_scan (fuel : Nat) (s : State) : (choosePage fuel s).scan = s.scan := by
  induction fuel generalizing s with
  | zero => rfl
  | succ n ih => unfold choosePage; dsimp only; (repeat' split) <;> simp [ih]

@[simp] theorem engineOn_scan (s : State) : (engineOn s).scan = s.scan := by
  unfold engineOn nextPage; dsimp only; (repeat' split) <;> simp

@[simp] theorem nextFrame_scan (l : LineNo) (s : State) : (nextFrame l s).scan = s.scan := by
  unfold nextFrame beginSending; dsimp only; (repeat' split) <;> simp [State.modProc, State.modParams]

@[simp] theorem deliver_scan (c : Client) (data : List Byte) (matched : Bool) (s : State) :
    (deliver c data matched s).scan = s.scan := by
  unfold deliver endFill readOn readReply
  (repeat' split) <;> simp [State.modSend, State.setJob]

end Sys2Proof.Machine
end

