-- ==== Sys2Proof/WellFormed.lean ====
section
/-! DEFINITION. Which commands and events can come at all: body lengths of a host frame (R204, R216), the width of a
scanned line (2.3), the ranges of the line messages (11.7.5) and the record numbers of the part's tables. -/

namespace Sys2Proof

/-- A set of `n` names in one octet: bits beyond the list are 0 (11.7.1). -/
def setInRange (n : Nat) (s : Byte) : Bool := decide (s.toNat < 2 ^ n)

/-- A body that a complete frame can carry (R204). -/
def bodyFits (body : List Byte) : Bool := decide (body.length ≤ 1040)

/-- The ranges of OFFER's fields (11.7.5). -/
def offerInRange (identity : List Byte) (rates orders : Byte) : Bool :=
  decide (identity.length ≤ 20) && setInRange 6 rates && setInRange 2 orders

/-- The ranges of CHOOSE's fields (11.7.5). -/
def chooseInRange (identity : List Byte) (classes : Byte) : Bool :=
  decide (identity.length ≤ 20) && setInRange 3 classes

/-- The ranges of BLOCK_END's fields (11.7.5). -/
def blockEndInRange (sequence block round count : Nat) (final : Option Nat) : Bool :=
  decide (sequence ≤ 255) && decide (block ≤ 255) && decide (round ≤ 4) && decide (1 ≤ count) && decide (count ≤ 64) &&
    (match final with | none => true | some n => decide (n ≤ 256))

/-- The ranges of PAGE_END's fields (11.7.5). -/
def pageEndInRange (sequence lineCount : Nat) : Bool := decide (sequence ≤ 255) && decide (lineCount ≤ 65535)

/-- Whether a command or event can come. -/
def Instr.wellFormed : Instr → Bool
  | .powerOn _ _ => true
  | .resetLine => true
  | .backupSupplyFail => true
  | .crystalStopUnpowered => true
  | .tenthCounted => true
  | .crystalGapExpiry => true
  | .crystalReturn => true
  | .mainSuppliesOff => true
  | .crystalStartsAgain => true
  | .deadlineReached slot => decide (slot < 64)
  | .retryEligible record => decide (record < 2048)
  | .hostOctetReceived _ _ => true
  | .frameGapExpiry => true
  | .hostReadyChange _ => true
  | .frameTransmitStart => true
  | .replySent => true
  | .noticeSent => true
  | .unknownKindCommand _ _ body => bodyFits body
  | .identify _ body => bodyFits body
  | .linkRate _ body => bodyFits body
  | .noticeMask _ body => bodyFits body
  | .configSet _ body => bodyFits body
  | .configGet _ body => bodyFits body
  | .resetLines _ body => bodyFits body
  | .resetEngine _ body => bodyFits body
  | .pageOpenWrite _ body => bodyFits body
  | .pageWriteData _ body => bodyFits body
  | .pageClose _ body => bodyFits body
  | .pageRead _ body => bodyFits body
  | .pageInfo _ body => bodyFits body
  | .pagePin _ body => bodyFits body
  | .pageUnpin _ body => bodyFits body
  | .pageDrop _ body => bodyFits body
  | .scanSet _ body => bodyFits body
  | .scanStart _ body _ => bodyFits body
  | .scanStop _ body => bodyFits body
  | .scanStatus _ body _ => bodyFits body
  | .docCreate _ body => bodyFits body
  | .docAddPages _ body => bodyFits body
  | .docAddDests _ body => bodyFits body
  | .docSubmit _ body => bodyFits body
  | .docCancel _ body => bodyFits body
  | .docStatus _ body => bodyFits body
  | .docDestStatus _ body => bodyFits body
  | .docDelete _ body => bodyFits body
  | .lineConfig _ body => bodyFits body
  | .lineStatus _ body => bodyFits body
  | .lineHold _ body => bodyFits body
  | .lineRelease _ body => bodyFits body
  | .macroSet _ body => bodyFits body
  | .macroGet _ body => bodyFits body
  | .inboundStatus _ body => bodyFits body
  | .inboundStatusSummary _ body => bodyFits body
  | .inboundDelete _ body => bodyFits body
  | .urgentSet _ body => bodyFits body
  | .printDoc _ body => bodyFits body
  | .printPage _ body => bodyFits body
  | .printCancelEntry _ body => bodyFits body
  | .printCancelDoc _ body => bodyFits body
  | .printPause _ body => bodyFits body
  | .printResume _ body => bodyFits body
  | .printStatus _ body => bodyFits body
  | .prefixSetSet _ body => bodyFits body
  | .prefixSetRemove _ body => bodyFits body
  | .prefixSetRead _ body => bodyFits body
  | .prefixSetTest _ body => bodyFits body
  | .zoneSet _ body => bodyFits body
  | .zoneSetRead _ body => bodyFits body
  | .bandSet _ body => bodyFits body
  | .bandSetRead _ body => bodyFits body
  | .weekdaySet _ body => bodyFits body
  | .weekdaySetRead _ body => bodyFits body
  | .holidaySet _ body => bodyFits body
  | .holidaySetRead _ body => bodyFits body
  | .rateSet _ body => bodyFits body
  | .rateSetRead _ body => bodyFits body
  | .priceSet _ body => bodyFits body
  | .priceSetRead _ body => bodyFits body
  | .deskSet _ body => bodyFits body
  | .deskRead _ body => bodyFits body
  | .deskClear _ body => bodyFits body
  | .logRead _ body => bodyFits body
  | .logDiscard _ body => bodyFits body
  | .clockSet _ body => bodyFits body
  | .clockRead _ body => bodyFits body
  | .storePortGrant => true
  | .blockWriteCommit _ => true
  | .blockReadComplete disturbed => disturbed.all fun d => decide (d.1 < 258)
  | .feederStep samples _ => decide (samples.length = 2048)
  | .sheetEndSensor => true
  | .scanHoldTimeout => true
  | .ejectionComplete _ => true
  | .dispatcherPass => true
  | .dialExpansion _ => true
  | .zoneLookup _ => true
  | .dialSymbolEnd _ => true
  | .dialToneReport _ => true
  | .dialToneTimeout _ => true
  | .busyTone _ => true
  | .answerIndication _ => true
  | .answerTimeout _ => true
  | .ring _ => true
  | .ringBurstEnd _ => true
  | .answerToneEnd _ => true
  | .restEnd _ => true
  | .remoteAnswerToneEnd _ => true
  | .turnaroundExpiry _ => true
  | .frameSent _ => true
  | .transmissionSent _ => true
  | .quitSent _ => true
  | .answerWaitExpiry _ => true
  | .invalidTransmission _ => true
  | .offerReceived _ identity rates orders _ _ => offerInRange identity rates orders
  | .chooseReceived _ identity _ _ _ classes => chooseInRange identity classes
  | .trainingBurstReceived _ _ _ => true
  | .trainGoodReceived _ => true
  | .trainBadReceived _ => true
  | .lineFrameReceived _ octets => decide (octets.length ≤ 262)
  | .blockEndReceived _ sequence block round count final => blockEndInRange sequence block round count final
  | .resendReceived _ marks => decide (marks.length = 8)
  | .pageEndReceived _ sequence lineCount _ => pageEndInRange sequence lineCount
  | .pageGoodReceived _ => true
  | .pageFailedReceived _ => true
  | .quitReceived _ => true
  | .remoteCarrierBegin _ _ => true
  | .carrierAbsent _ => true
  | .carrierReturn _ => true
  | .carrierLossExpiry _ => true
  | .meteringPulse _ => true
  | .printEntryBegin => true
  | .headLineStruck => true
  | .cutFeedDone => true
  | .paperOut => true
  | .paperRestored => true
  | .jam => true
  | .jamSensorClear => true

end Sys2Proof
end

