-- ==== Sys2Proof/Tests/Slice0.lean ====
section
/-! SUPPORT. Tests: ill-formed commands refused, worked examples of the spec, and for each statement with hypotheses a
state and operands that meet them, clause by clause. -/

namespace Sys2Proof.Tests

open Sys2Proof.Machine

-- One declaration at a time: theorems that the kernel evaluates hold a thread each while they wait for it.
set_option Elab.async false

/-! ### Ill-formed commands and events -/

def octets (n : Nat) : List Byte := List.replicate n 0

theorem test_body_too_long : (Instr.configSet 0 (octets 1041)).wellFormed = false := by decide +kernel
theorem test_body_longest : (Instr.configSet 0 (octets 1040)).wellFormed = true := by decide +kernel
theorem test_no_such_document_slot : (Instr.deadlineReached 64).wellFormed = false := by decide
theorem test_no_such_record : (Instr.retryEligible 2048).wellFormed = false := by decide
theorem test_disturbed_outside_block : (Instr.blockReadComplete [(258, 1)]).wellFormed = false := by decide
theorem test_samples_short : (Instr.feederStep [] true).wellFormed = false := by decide
theorem test_line_frame_too_long : (Instr.lineFrameReceived 0 (octets 263)).wellFormed = false := by decide +kernel
theorem test_marks_short : (Instr.resendReceived 0 [1]).wellFormed = false := by decide
theorem test_identity_too_long : (Instr.offerReceived 0 (octets 21) 1 1 false .fine).wellFormed = false := by decide
theorem test_offer_unknown_rate : (Instr.offerReceived 0 [] 0x40 1 false .fine).wellFormed = false := by decide
theorem test_choose_unknown_class : (Instr.chooseReceived 0 [] .r9600 .msbFirst false 8).wellFormed = false := by decide
theorem test_round_past_four : (Instr.blockEndReceived 0 0 0 5 1 none).wellFormed = false := by decide
theorem test_no_frames : (Instr.blockEndReceived 0 0 0 0 0 none).wellFormed = false := by decide
theorem test_page_end_sequence : (Instr.pageEndReceived 0 256 0 none).wellFormed = false := by decide

/-! ### Worked examples of the spec -/

/-- Dots in runs: colour and length. -/
def dotsOf (runs : List (Bool × Nat)) : DotLine := runs.flatMap fun r => List.replicate r.2 r.1

def lineX : DotLine := dotsOf [(false, 100), (true, 30), (false, 1000), (true, 200), (false, 398)]
def lineY : DotLine := dotsOf [(true, 1728)]

/-- 2.4, worked figures: the ties of the density value, and the clamp. -/
theorem test_density_ties :
    [200, 10, 120, 130, 28, 255].map (rawDensity .reset) = [207, -7, 117, 128, 14, 269] ∧
      rawDensity { ScanSettings.reset with rounding := .floor } 28 = 13 := by decide +kernel

/-- 2.4, worked figures: diffusion along a line. -/
theorem test_diffusion : halftoneDots 0 [100, 100, 100, 100, 200] = [true, false, true, false, true] := by decide +kernel

/-- R28: dot 6 takes sample 7, dot 1727 sample 2046. -/
theorem test_samples_taken : sampleOf 5 = 5 ∧ sampleOf 6 = 7 ∧ sampleOf 1727 = 2046 := by decide +kernel

/-- 2.5, the worked page: 16 octets. -/
theorem test_worked_page :
    codeLines [whiteLine, whiteLine, lineX, lineX, lineX, lineY, whiteLine] =
      [0xC3, 0xC3, 0x64, 0x1E, 0x83, 0xE8, 0x80, 0xC8, 0x81, 0x8E, 0xC2, 0x02, 0x00, 0x86, 0xC0, 0xC3] := by
  decide +kernel

/-- 7.3, the worked decode of a damaged page: seven lines, five damaged. -/
theorem test_damaged_page :
    (fun r => (r.1.length, r.1[6]?, r.2)) (decodeLines 11 60 { Engine.reset with decoder := { Decoder.reset with
      stream := [0xC2, 0x03, 0x64, 0x1E, 0x83, 0xE8, 0xC1, 0xD5, 0x00, 0x86, 0xC0] } }) = (7, some lineY, 5) := by
  decide +kernel

/-- 4.3, the worked expansion: macro 7 calls macro 3, and the charged number is the 14 digits from position 2. -/
theorem test_worked_expansion :
    let d (n : Nat) : DialSym := .digit n
    let macros := ((Table.all none).set 3 (some [d 9, .wait])).set 7
      (some [.macroCall 3, .chargePoint, d 0, d 0, d 4, d 4])
    let e := expand macros [.macroCall 7, d 1, d 6, d 1, d 4, d 9, d 6, d 0, d 3, d 1, d 2]
    e.2 = none ∧ e.1.buffer.length = 16 ∧ e.1.charge = 2 ∧
      chargedDigits e.1 = [0, 0, 4, 4, 1, 6, 1, 4, 9, 6, 0, 3, 1, 2] := by decide +kernel

/-- 4.3: a macro that calls itself ends with DEPTH. -/
theorem test_macro_calls_itself :
    (expand ((Table.all none).set 3 (some [.macroCall 3])) [.macroCall 3]).2 = some .depth := by decide +kernel

/-- 5.5, the worked division of 20000 octets: 79 frames, line blocks of 64 and 15, the last frame of 32 octets short. -/
theorem test_worked_division :
    frameCount 20000 = 79 ∧ blockFrames 20000 0 = 64 ∧ blockFrames 20000 1 = 15 ∧ lastOctets 20000 = 32 := by
  decide +kernel

/-- 7.5, the worked line: strikes formed at three limits. -/
theorem test_strike_grouping :
    let b := [100, 200, 150, 0, 216, 216, 10, 0]
    formStrikes 432 0 b = [300, 366, 226] ∧ formStrikes 216 0 b = [100, 200, 150, 216, 216, 10] ∧
      formStrikes 1728 0 b = [892] := by decide +kernel

/-- The tariff of 8.7. -/
def tariff : Charging :=
  { Charging.reset with
    workday := [(0, 1), (480, 0), (1080, 1)], restDay := [(0, 2)], holidays := (Table.all none).set 0 (some ⟨2025, 1, 1⟩) }

def row5 : ChargeState :=
  { ChargeState.reset with captured := true, rates := [⟨1, 120⟩, ⟨0, 300⟩], rounding := .up, minimum := 2, price := 85 }

/-- 8.7, a call across the evening boundary: 15 units, 1275; on a metered line with 18 pulses 1530 and MISMATCH. -/
theorem test_evening_call :
    let f := outFigures tariff 2 row5 ⟨2024, 12, 30, 17, 58, 30, 0⟩ ⟨2024, 12, 30, 18, 3, 12, 4⟩
    let g := outFigures tariff 2 { row5 with metered := true, pulses := 18 } ⟨2024, 12, 30, 17, 58, 30, 0⟩
      ⟨2024, 12, 30, 18, 3, 12, 4⟩
    f.duration = 2824 ∧ f.computed = 15 ∧ f.cost = 1275 ∧ f.flags = .none ∧
      g.units = 18 ∧ g.cost = 1530 ∧ g.flags.mismatch = true := by decide +kernel

/-- 8.7, across midnight into a holiday: 62 units, 5270. -/
theorem test_holiday_call :
    let ch : ChargeState :=
      { row5 with rates := [⟨0, 0⟩, ⟨2, 100⟩, ⟨2, 150⟩], rounding := .nearestEven, minimum := 3 }
    let f := outFigures tariff 2 ch ⟨2024, 12, 31, 23, 55, 0, 0⟩ ⟨2025, 1, 1, 0, 7, 30, 0⟩
    f.duration = 7500 ∧ f.computed = 62 ∧ f.cost = 5270 := by decide +kernel

/-- 10.2, the worked calendar. -/
theorem test_weekday : (⟨2024, 12, 31⟩ : Date).dayCount = 9131 ∧ (⟨2025, 1, 1⟩ : Date).weekday = 2 := by decide +kernel

/-- 11.2, the worked sequence: a frame with a body octet turned to 0xA5 and its CRC damaged raises LINK_CHECK with CRC and GAP, and the frame
behind it is held. -/
theorem test_damaged_frame :
    let a : Frame := ⟨0x2D, 0x31, [0x01, 0x00]⟩
    let b : Frame := ⟨0x50, 0x32, [0x00]⟩
    let events := ((a.octets.set 5 0xA5).set 7 0x15 ++ b.octets).map (fun o => Instr.hostOctetReceived o true) ++ [.frameGapExpiry]
    (match execAll events { State.reset with link := Link.reset } with
      | .next t => decide (t.link.held = [b] ∧ (t.link.notices.map fun n => n.fields.headD 9) = [0, 2])
      | .fault _ => false
      | .refused _ => false) = true := by decide +kernel

/-! ### States for the witnesses -/

/-- The part with a command's frame held and not yet taken, and with it taken. -/
def asked (f : Frame) (s : State) : State := { s with link := { s.link with held := [f], taken := 0 } }
def given (f : Frame) (s : State) : State := { s with link := { s.link with held := [f], taken := 1 } }

/-- Whether `s` takes the frame and is then as `given` says. -/
def takesIt (f : Frame) (s : State) : Bool := (asked f s).takes f = some (given f s)

def aPage (state : PageState) (issue : Nat) (writer : Option Client) (chain : List Nat) (byteLen refs pins : Nat) :
    PageEntry :=
  { PageEntry.freeWith issue with
    state, writer, chain, origin := some .host, cls := .fine, committed := (byteLen + 255) / 256, byteLen, refs, pins }

def aDoc (state : DocState) (pages : List PageHandle) (dests : List Nat) : Doc :=
  { Doc.freeWith 7 with state, pages, dests, pagesHeld := true, retryLimit := 2 }

def aDest (state : DestState) : Dest :=
  { dial := [.digit 1, .digit 2], state, attempts := 1, confirmed := 0, eligible := ⟨2024, 5, 6, 7, 0, 0, 0⟩,
    lastCause := none, lastLine := none, lastLog := none }

def anIn (state : InState) (printState : PrintState) (pages : List PageHandle) : InDoc :=
  { InDoc.freeWith 4 with state, printState, pages }

/-- A small part: pages 0 to 5, outbound documents 0 to 3, inbound documents 0 to 2. -/
def lab : State :=
  { State.reset with
    tk := { Timekeeper.reset with time := ⟨2024, 5, 6, 7, 8, 9, 3⟩, valid := true, suspect := false },
    link := Link.reset,
    store := { Store.reset with
      pool := ⟨6, []⟩,
      dir := ⟨.freeWith 0, [
        (0, aPage .closed 5 none [0] 300 3 1), (1, aPage .opened 0 (some .hostXfer) [1] 256 0 1),
        (2, aPage .closed 63 none [2] 100 1 0), (3, aPage .closed 1 none [3] 50 0 1),
        (4, { aPage .opened 2 (some .scan) [4] 256 0 0 with origin := some .scan }),
        (5, { aPage .opened 3 (some (.lc 0)) [5] 256 0 0 with origin := some (.line 0) })]⟩ },
    docs := { DocTable.reset with
      docs := ⟨.freeWith 0, [
        (0, aDoc .draft [⟨0, 5⟩] [0]), (1, aDoc .queued [⟨0, 5⟩] [1]), (2, aDoc .active [⟨0, 5⟩, ⟨2, 63⟩] [2]),
        (3, aDoc .done [⟨0, 5⟩] [3])]⟩,
      pool := ⟨none, [(0, some (aDest .waiting)), (1, some (aDest .waiting)), (2, some (aDest .onLine)),
        (3, some (aDest .sent))]⟩ },
    recept := { Reception.reset with
      docs := ⟨.freeWith 0, [(0, anIn .complete .queued [⟨0, 5⟩]), (1, anIn .receiving .notQueued []),
        (2, anIn .complete .held [⟨0, 5⟩])]⟩ } }

def onLine (l : LineNo) (x : Line) (s : State) : State := s.setLine l x
def onScan (u : Scan) (s : State) : State := { s with scan := u }
def onEngine (e : Engine) (s : State) : State := { s with engine := e }

/-! ### Witnesses of the statements' hypotheses: the machine, the host link, the timekeeper -/

theorem test_witness_step : ({ lab with pending := [.tenthCounted] } : State).pending = .tenthCounted :: [] := by
  decide

theorem test_witness_soundness_kept : lab.sound ∧ step lab = .next lab := by
  refine ⟨⟨⟨?_, ?_, ?_, ?_, ?_⟩, ?_, ⟨?_, ?_, ?_, ?_⟩, ?_⟩, rfl⟩ <;>
    first | decide | rfl

theorem test_witness_segments_accounted : lab.store.accounted ∧ step lab = .next lab := by
  refine ⟨⟨by decide, rfl, rfl, by decide, ?_⟩, rfl⟩
  · have h : lab.store.pool.toList = List.range' 6 8186 := by simp [lab, SegPool.toList]
    have hc : lab.store.chained = List.range' 0 6 := rfl
    rw [h, hc, List.range_eq_range']
    refine List.perm_append_comm.trans ?_
    rw [List.range'_append_1 (s := 0) (m := 6) (n := 8186)]

def twoHeld : State :=
  { lab with link := { Link.reset with held := [⟨0x01, 1, []⟩, ⟨0x05, 2, []⟩], taken := 1 } }

theorem test_witness_commands_taken :
    twoHeld.power = true ∧ twoHeld.link.job = none ∧
      twoHeld.link.held.drop twoHeld.link.taken = ⟨0x05, 2, []⟩ :: [] ∧
      ({ lab.link with job := some (.closePage 0 ⟨1, 0⟩) } : Link).job.isSome := by decide

theorem test_witness_octets :
    lab.power = true ∧ lab.link.candidate = [] ∧
      ({ lab.link with candidate := [0xA5, 0, 2] } : Link).candidate = 0xA5 :: [0, 2] ∧ (0xA5 : Byte) ∉ ([0, 2] : List Byte) := by
  decide

theorem test_witness_whole_frame :
    lab.power = true ∧ lab.link.candidate = [] ∧ (octets 1040).length ≤ 1040 ∧ lab.link.held.length < 8 := by
  decide +kernel

def talking (tx : Transmitter) (replies : List Reply) (notices : List Notice) : State :=
  { lab with link := { Link.reset with tx, replies, notices, taken := 1, held := [⟨0x01, 1, []⟩] } }

def okReply (newRate : Option HostRate) : Reply := ⟨⟨0x82, 1, [0, 1]⟩, newRate⟩

theorem test_witness_transmits :
    ((talking .free [okReply none] []).link.tx = .free ∧ (talking .free [okReply none] []).link.hostReady = true) ∧
      ((talking .free [] [startNotice]).link.replies = [] ∧ (talking .free [] [startNotice]).link.notices = startNotice :: []) ∧
      ((talking (.sendingReply [0xA5]) [okReply none] []).link.tx = .sendingReply [0xA5] ∧
        (okReply (some .b230400)).newRate = some .b230400 ∧
        (talking (.sendingReply [0xA5]) [okReply (some .b230400)] []).link.candidate = []) ∧
      (talking (.sendingNotice [0xA5]) [] [startNotice]).link.tx = .sendingNotice [0xA5] := by decide +kernel

theorem test_witness_link_commands :
    takesIt ⟨0x07, 1, []⟩ lab = true ∧ isCommandKind 0x07 = false ∧ takesIt ⟨0x03, 1, [3]⟩ lab = true ∧
      takesIt ⟨0x02, 1, [3]⟩ lab = true ∧ (3 : Byte).toNat < 4 ∧ takesIt ⟨0x02, 1, [4]⟩ lab = true ∧ 4 ≤ (4 : Byte).toNat ∧
      takesIt ⟨0x02, 1, []⟩ lab = true ∧ takesIt ⟨0x03, 1, [1, 2]⟩ lab = true := by decide +kernel

theorem test_witness_config_set :
    takesIt ⟨0x04, 1, [2, 2, 0xFF, 0xFF, 3, 0]⟩ lab = true ∧
      (match readItems 2 [2, 0xFF, 0xFF, 3, 0] with
        | .ok items => decide (itemsOnce items = true ∧ (applyItems items lab.cfg).isSome)
        | .error _ => false) = true ∧ lab.scan.state ≠ .held := by decide +kernel

def atTime (t : DateTime) : State := { lab with tk := { lab.tk with time := t } }

theorem test_witness_tenth :
    ((atTime ⟨2024, 2, 28, 23, 59, 59, 9⟩).now.valid = true ∧
        (atTime ⟨2024, 2, 28, 23, 59, 59, 9⟩).now ≠ ⟨2099, 12, 31, 23, 59, 59, 9⟩) ∧ lab.tk.crystalRuns = true ∧
      ({ lab.tk with source := .fallback, crystalRuns := false } : Timekeeper).source = .fallback ∧
      ({ lab.tk with crystalRuns := false } : Timekeeper).source = .crystal ∧
      ((atTime ⟨2099, 12, 31, 23, 59, 59, 9⟩).power = true ∧ (atTime ⟨2099, 12, 31, 23, 59, 59, 9⟩).scan.state ≠ .held) := by
  decide +kernel

theorem test_witness_supplies :
    (lab.power = true ∧ lab.tk.source = .crystal ∧ lab.tk.crystalRuns = true ∧ lab.tk.lost = false) ∧
      ({ lab with power := false } : State).power = false ∧ ({ lab.tk with crystalRuns := false } : Timekeeper).crystalRuns = false ∧
      ({ lab.tk with source := .fallback } : Timekeeper).source = .fallback := by decide

theorem test_witness_clock_set :
    takesIt ⟨0x58, 1, [99, 12, 31, 23, 59, 59, 9]⟩ lab = true ∧ (timeOf 99 12 31 23 59 59 9).valid = true ∧
      takesIt ⟨0x58, 1, [25, 2, 29, 0, 0, 0, 0]⟩ lab = true ∧ (timeOf 25 2 29 0 0 0 0).valid = false := by decide +kernel

theorem test_witness_calendar : 36524 < 36525 ∧ 31557599999 < 31557600000 ∧ (atTime ⟨2099, 12, 31, 23, 59, 59, 9⟩).now.valid = true := by
  decide +kernel

/-! ### The page store and scanning -/

theorem test_witness_upload_opens :
    takesIt ⟨0x10, 1, [2]⟩ lab = true ∧ lab.hostUploads < 2 ∧ (2 : Byte) = oct (classIndex .extra) ∧
      ((lab.entry 6).state = .free ∧ ∀ k, k < 6 → (lab.entry k).state ≠ .free) ∧
      2 ≤ (lab.setEntry 6 (aPage .opened 0 (some .hostXfer) [] 0 0 1)).hostUploads ∧
      takesIt ⟨0x10, 1, [3]⟩ lab = true ∧ 3 ≤ (3 : Byte).toNat := by decide +kernel

/-- Every slot of the directory taken. -/
def fullHouse : State :=
  { lab with store := { lab.store with dir := .all (aPage .closed 0 none [] 0 1 0) } }

theorem test_witness_upload_directory_full :
    fullHouse.hostUploads < 2 ∧ ∀ k, k < 1024 → (fullHouse.entry k).state ≠ .free := by
  refine ⟨by decide +kernel, fun k _ => ?_⟩
  show (cellGet (aPage .closed 0 none [] 0 1 0) [] k).state ≠ .free
  simp [cellGet, aPage]

/-- Page 1 of the lab with octets pending and its segment's blocks used up or not. -/
def uploading (pending : List Byte) (committed : Nat) : State :=
  lab.setEntry 1 { aPage .opened 0 (some .hostXfer) [1] 256 0 1 with pending, committed }

theorem test_witness_upload_gathers :
    (takesIt ⟨0x11, 1, 0 :: 64 :: octets 1⟩ (uploading (octets 254) 1) = true ∧
        (uploading (octets 254) 1).page (pageOf 0 64) = some ((uploading (octets 254) 1).entry 1) ∧
        ((uploading (octets 254) 1).entry 1).pending.length + 1 < 256) ∧
      (takesIt ⟨0x11, 1, 0 :: 64 :: octets 1024⟩ (uploading (octets 255) 15) = true ∧
        ((uploading (octets 255) 15).entry 1).committed < 16 * ((uploading (octets 255) 15).entry 1).chain.length) ∧
      (let s := { uploading (octets 255) 16 with cfg := { lab.cfg with receptionReserve := 2048 } }
       let s := { s with store := { s.store with pool := ⟨8192, [9]⟩ } }
       takesIt ⟨0x11, 1, 0 :: 64 :: octets 1⟩ s = true ∧ 16 * (s.entry 1).chain.length ≤ (s.entry 1).committed ∧
        s.freeCount ≤ s.cfg.receptionReserve) := by decide +kernel

theorem test_witness_upload_closes :
    takesIt ⟨0x12, 1, [0, 64, 0x1B, 0x01]⟩ lab = true ∧ lab.scan.state ≠ .held ∧
      lab.page (pageOf 0 64) = some (lab.entry 1) ∧ (lab.entry 1).pending = [] ∧ 0 < (lab.entry 1).pins ∧
      (((uploading (octets 255) 15).entry 1).pending.length < 256 ∧
        ((uploading (octets 255) 15).entry 1).pending ≠ []) ∧
      (takesIt ⟨0x12, 1, [0, 5, 0, 0]⟩ lab = true ∧ lab.page (pageOf 0 5) = some (lab.entry 0) ∧
        (lab.entry 0).state ≠ .opened) := by decide +kernel

def portBusy (t : Transfer) (s : State) : State := { s with store := { s.store with port := some t } }

def hostRead : Transfer := ⟨⟨.hostXfer, 0, .read ⟨0, 5⟩ 1⟩, 1, false⟩

theorem test_witness_page_read :
    (takesIt ⟨0x13, 1, [0, 5, 0, 0, 1, 0x2B, 4, 0]⟩ lab = true ∧ lab.page (pageOf 0 5) = some (lab.entry 0) ∧
        nat32 0 0 1 0x2B < (lab.entry 0).byteLen ∧ nat32 0 0 1 0x2B / 256 < (lab.entry 0).committed ∧
        nat16 4 0 ≤ 1024 ∧ (lab.entry 0).state = .closed) ∧
      (takesIt ⟨0x13, 1, [0, 64, 0, 0, 0, 0, 0, 1]⟩ lab = true ∧ (lab.entry 1).state = .opened) ∧
      (lab.entry 0).byteLen ≤ nat32 0 0 1 0x2C ∧ nat16 4 1 > 1024 ∧
      (let s := portBusy hostRead { lab with link := { lab.link with
          job := some (.readPage 1 ⟨0, 5⟩ 200 100 1 (octets 256) false) } }
       s.power = true ∧ s.scan.state ≠ .held ∧ s.store.port = some hostRead ∧ 200 + 100 ≤ 256 * (1 + 1)) := by
  decide +kernel

def waits (r : List Request) (s : State) : State := { s with store := { s.store with waiting := r } }

def twoWait : List Request :=
  [{ client := .print, level := 2, op := .read ⟨0, 5⟩ 0 }, { client := .lc 3, level := 3, op := .write ⟨5, 3⟩ [] none }]

theorem test_witness_port_grants :
    (waits twoWait lab).store.port = none ∧ (waits twoWait lab).store.waiting ≠ [] ∧
      (twoWait.all fun r => match r.op with
        | .write h _ _ => decide (allocTest (waits twoWait lab) ((waits twoWait lab).entry h.slot) r.client = .pass)
        | .read _ _ => true) = true ∧
      (portBusy hostRead lab).store.port.isSome ∧
      ((uploading [] 16).entry 1).committed = 16 * ((uploading [] 16).entry 1).chain.length := by decide +kernel

def hostWrite (void : Bool) : Transfer := ⟨⟨.hostXfer, 0, .write ⟨1, 0⟩ (octets 256) none⟩, 96, void⟩

theorem test_witness_block_write :
    let s := portBusy (hostWrite false) { uploading (octets 255) 16 with
      link := { lab.link with job := some (.writeData 1 ⟨1, 0⟩ (octets 511) 255 0) } }
    s.power = true ∧ s.scan.state ≠ .held ∧ Memory.wf s.mem = true ∧ (octets 256).length = 256 ∧
      (octets 511).length < 512 ∧ s.store.pool.head.isSome ∧ s.page ⟨1, 0⟩ = some (s.entry 1) ∧
      (s.entry 1).state = .opened ∧ s.store.port = some (hostWrite false) ∧
      (portBusy (hostWrite true) lab).store.port = some (hostWrite true) := by decide +kernel

theorem test_witness_pins :
    (takesIt ⟨0x15, 1, [1, 128]⟩ lab = true ∧ lab.page (pageOf 1 128) = none) ∧
      (takesIt ⟨0x15, 1, [0, 5]⟩ lab = true ∧ lab.page (pageOf 0 5) = some (lab.entry 0) ∧ (lab.entry 0).pins < 15) ∧
      (lab.setEntry 0 { lab.entry 0 with pins := 15 }).page (pageOf 0 5) = some { lab.entry 0 with pins := 15 } ∧
      (takesIt ⟨0x16, 1, [0, 191]⟩ lab = true ∧ lab.page (pageOf 0 191) = some (lab.entry 2) ∧ (lab.entry 2).pins = 0) ∧
      (takesIt ⟨0x16, 1, [0, 5]⟩ lab = true ∧ 0 < (lab.entry 0).pins ∧ 0 < (lab.entry 0).refs) ∧
      takesIt ⟨0x17, 1, [0, 5]⟩ lab = true ∧
      (takesIt ⟨0x16, 1, [0, 193]⟩ lab = true ∧ takesIt ⟨0x17, 1, [0, 193]⟩ lab = true ∧
        lab.page (pageOf 0 193) = some (lab.entry 3) ∧ (lab.entry 3).pins = 1 ∧ (lab.entry 3).refs = 0 ∧
        (lab.entry 3).state = .closed) := by decide +kernel

theorem test_witness_scan_settings :
    takesIt ⟨0x20, 1, [2, 1, 255, 0, 1, 0, 0]⟩ lab = true ∧ lab.scan.state = .idle ∧
      (onScan { Scan.reset with state := .held } lab).scan.state ≠ .idle ∧
      takesIt ⟨0x20, 1, [3, 1, 255, 0, 1, 0, 0]⟩ lab = true := by decide +kernel

theorem test_witness_dots : (octets 2048).length = 2048 ∧ ScanSettings.reset.mode = .text ∧
    ({ ScanSettings.reset with mode := .halftone } : ScanSettings).mode = .halftone := by decide +kernel

theorem test_witness_page_code : (∀ l ∈ [lineX, whiteLine], l.length = 1728) ∧ [lineX, whiteLine].length ≤ 6912 := by
  decide +kernel

/-- The lab without its scan page. -/
def noScan : State := lab.setEntry 4 (.freeWith 2)

/-- A job on page 4. -/
def scanning (state : ScanState) : Scan := { Scan.reset with state, page := some ⟨4, 2⟩ }

theorem test_witness_scan_job :
    (takesIt ⟨0x21, 1, []⟩ noScan = true ∧ noScan.scan.state = .idle ∧ noScan.scan.settings.target = none ∧
        Client.scan.holdsOpen noScan = false ∧ (noScan.entry 4).state = .free ∧
        ∀ k, k < 4 → (noScan.entry k).state ≠ .free) ∧
      (onScan (scanning .scanning) lab).scan.state ≠ .idle ∧
      (takesIt ⟨0x22, 1, []⟩ lab = true ∧ lab.scan.state = .idle) ∧
      (takesIt ⟨0x22, 1, []⟩ (onScan { Scan.reset with state := .ejecting, nextSheet := true } lab) = true) ∧
      (takesIt ⟨0x22, 1, []⟩ (onScan (scanning .held) lab) = true ∧
        (onScan (scanning .held) lab).page ⟨4, 2⟩ = some (lab.entry 4)) ∧
      (({ scanning .held with holdTime := 300 } : Scan).holdTime = 300 ∧ (scanning .held).holdTime ≠ 300 ∧
        (onScan (scanning .held) lab).power = true ∧ (onScan (scanning .held) lab).link.job = none) := by decide +kernel

theorem test_witness_feeder_step :
    let u := { scanning .scanning with step := 6911 }
    u.backlog = [] ∧ u.lineWaits = false ∧ u.ending = none ∧ u.endStep ≠ some u.step ∧ u.step < 6912 ∧
      u.step % captureStride u.settings.cls ≠ 0 ∧
      ({ u with step := 6910 } : Scan).step % captureStride u.settings.cls = 0 := by decide +kernel

theorem test_witness_sheet_end :
    (let u := { scanning .scanning with step := 1 }
     u.endStep = none ∧ u.ending = none ∧ 1 ≤ u.step) ∧
      (let u := { scanning .scanning with step := 70, endStep := some 70 }
       let s := onScan u lab
       s.page ⟨4, 2⟩ = some (lab.entry 4) ∧ s.outstanding .scan = false ∧ s.scanTaker ⟨4, 2⟩ = none ∧ (lab.entry 4).pins < 15 ∧
        (onScan { u with target := some ⟨0, 7⟩ } lab).scanTaker ⟨4, 2⟩ = some ⟨0, 7⟩ ∧
        (lab.docs.docs.get 0).state = .draft ∧ (lab.docs.docs.get 0).pages.length < 255) := by decide +kernel

/-! ### Documents and dispatch -/

def deadline0 : DateTime := ⟨2024, 5, 6, 7, 8, 9, 3⟩

/-- Every document slot taken. -/
def allDocs : State := { lab with docs := { lab.docs with docs := .all (aDoc .done [] []) } }

theorem test_witness_document_built :
    (takesIt ⟨0x28, 1, [15, 9] ++ eOpt eTime (some deadline0) ++ [16, 0, 1, 1]⟩ lab = true ∧ (1 : Byte).toNat < 2 ∧
        deadline0.valid = true ∧ (15 : Byte).toNat ≤ 15 ∧ (lab.docs.docs.get 4).state = .free ∧
        ∀ k, k < 4 → (lab.docs.docs.get k).state ≠ .free) ∧
      takesIt ⟨0x28, 1, [16, 9] ++ eOpt eTime none ++ [16, 0, 1, 1]⟩ lab = true ∧
      (takesIt ⟨0x28, 1, [0, 0] ++ eOpt eTime none ++ [0, 0, 1, 0]⟩ allDocs = true ∧
        ∀ k, k < 64 → (allDocs.docs.docs.get k).state ≠ .free) ∧
      (let pages : List PageHandle := [⟨0, 5⟩, ⟨2, 63⟩, ⟨0, 5⟩]
       takesIt ⟨0x29, 1, [0, 7, oct pages.length] ++ pages.flatMap ePage⟩ lab = true ∧
        lab.doc (docOf 0 7) = some (lab.docs.docs.get 0) ∧ (lab.docs.docs.get 0).state = .draft ∧
        1 ≤ pages.length ∧ (lab.docs.docs.get 0).pages.length + pages.length ≤ 255 ∧
        lab.page ⟨0, 5⟩ = some (lab.entry 0) ∧ (lab.entry 0).refs + pages.count ⟨0, 5⟩ ≤ 4095 ∧
        lab.page ⟨2, 63⟩ = some (lab.entry 2) ∧ (lab.entry 2).refs + pages.count ⟨2, 63⟩ ≤ 4095) ∧
      (let dial : List DialSym := [.digit 9, .macroCall 31, .star]
       takesIt ⟨0x2A, 1, [0, 7] ++ eSyms dial⟩ lab = true ∧ (lab.docs.docs.get 0).dests.length < 200 ∧
        dial.length ≤ 40 ∧ dial.all DialSym.inRange = true ∧ lab.dest 4 = none ∧
        (∀ k, k < 4 → (lab.dest k).isSome) ∧ 0 < lab.docs.freeRecords) := by decide +kernel

def withDoc (k : Nat) (d : Doc) : State := lab.setDoc k d

theorem test_witness_document_submitted :
    (takesIt ⟨0x2B, 1, [0, 7]⟩ lab = true ∧ lab.doc (docOf 0 7) = some (lab.docs.docs.get 0) ∧
        lab.scan.state ≠ .held ∧ (lab.docs.docs.get 0).pages ≠ [] ∧ (lab.docs.docs.get 0).dests ≠ [] ∧
        (∀ p ∈ (lab.docs.docs.get 0).pages, (lab.entry p.slot).state ≠ .opened) ∧
        (lab.docs.docs.get 0).deadlineReached lab.now = false) ∧
      (let d := { aDoc .draft [⟨0, 5⟩] [0] with deadline := some deadline0 }
       takesIt ⟨0x2B, 1, [0, 7]⟩ (withDoc 0 d) = true ∧ d.deadlineReached lab.now = true ∧ d.dests.Nodup ∧
        ((withDoc 0 d).dest 0).map (·.state) = some .waiting) ∧
      takesIt ⟨0x2B, 1, [0, 7]⟩ (withDoc 0 (aDoc .draft [⟨0, 5⟩] [])) = true ∧
      (takesIt ⟨0x2B, 1, [1, 7]⟩ lab = true ∧ lab.doc (docOf 1 7) = some (lab.docs.docs.get 1) ∧
        (lab.docs.docs.get 1).state ≠ .draft) ∧
      (takesIt ⟨0x2B, 1, [0, 7]⟩ (withDoc 0 (aDoc .draft [⟨1, 0⟩] [0])) = true ∧ (lab.entry 1).state = .opened) := by
  decide +kernel

theorem test_witness_document_cancelled :
    (takesIt ⟨0x2C, 1, [1, 7]⟩ lab = true ∧ lab.doc (docOf 1 7) = some (lab.docs.docs.get 1) ∧
        lab.scan.state ≠ .held ∧ (lab.docs.docs.get 1).dests.Nodup ∧ (lab.docs.docs.get 1).releasePages = false ∧
        (lab.dest 1).map (·.state) = some .waiting) ∧
      (takesIt ⟨0x2C, 1, [2, 7]⟩ lab = true ∧ (lab.docs.docs.get 2).state = .active ∧
        (lab.dest 2).map (·.state) = some .onLine ∧ ∀ l, (lab.line l).attempt = none) ∧
      takesIt ⟨0x2C, 1, [3, 7]⟩ lab = true ∧ takesIt ⟨0x2F, 1, [2, 7]⟩ lab = true ∧
      (takesIt ⟨0x2F, 1, [3, 7]⟩ lab = true ∧ (lab.docs.docs.get 3).state = .done ∧
        lab.page ⟨0, 5⟩ = some (lab.entry 0) ∧ (lab.docs.docs.get 3).pages.count ⟨0, 5⟩ < (lab.entry 0).refs) := by
  decide +kernel

def passDue (s : State) : State := { s with docs := { s.docs with passAsked := true } }

/-- Only line 2 can take an attempt, and only document 1 has an eligible destination. -/
def oneFree : State :=
  passDue { lab with
    cfg := { lab.cfg with inboundReserve := 0 },
    lines := { lab.lines with
      lc0 := { Line.reset with state := .rest }, lc1 := { Line.reset with state := .sending },
      lc3 := { Line.reset with config := { LineConfig.reset with direction := .inOnly } } } }

theorem test_witness_dispatcher :
    (lab.power = true ∧ lab.docs.passAsked = false) ∧
      (let s := { passDue lab with cfg := { lab.cfg with inboundReserve := 4 } }
       s.docs.passAsked = true ∧ ∀ l, s.freeForOutbound l = false) ∧
      (oneFree.docs.passAsked = true ∧ oneFree.freeForOutbound 2 = true ∧
        (∀ l, l ≠ 2 → oneFree.freeForOutbound l = false) ∧
        oneFree.dispatchable (oneFree.docs.docs.get 1) = true ∧ (oneFree.docs.docs.get 1).dests[0]? = some 1 ∧
        oneFree.dest 1 = some (aDest .waiting) ∧ (aDest .waiting).isEligible oneFree.now = true ∧
        ∀ k, k < 64 → k ≠ 1 → oneFree.dispatchable (oneFree.docs.docs.get k) = true → k = 2) ∧
      (oneFree.dest 2 = some (aDest .onLine) ∧ (aDest .onLine).isEligible oneFree.now = false) := by decide +kernel

theorem test_witness_times_reached :
    let d := { aDoc .active [⟨0, 5⟩] [0, 2] with deadline := some deadline0 }
    lab.power = true ∧ lab.scan.state ≠ .held ∧ (lab.docs.docs.get 1).deadlineReached lab.now = false ∧
      d.deadlineReached lab.now = true ∧ (withDoc 2 d).docs.docs.get 2 = d ∧ d.dests.Nodup ∧
      (∀ r ∈ d.dests, (lab.dest r).isSome) ∧
      (({ aDest .retryWait with eligible := deadline0 } : Dest).state = .retryWait ∧ deadline0.tenths ≤ lab.now.tenths) ∧
      (aDest .waiting).state ≠ .retryWait := by decide +kernel

theorem test_witness_attempt_outcome :
    lab.doc ⟨2, 7⟩ = some (lab.docs.docs.get 2) ∧ (lab.docs.docs.get 2).dests[0]? = some 2 ∧
      lab.dest 2 = some (aDest .onLine) ∧ (aDest .onLine).confirmed ≠ (lab.docs.docs.get 2).pages.length ∧
      (lab.docs.docs.get 2).cancelReq = false ∧ (lab.docs.docs.get 2).retryLimit = 2 ∧ (aDest .onLine).attempts < 2 ∧
      (lab.docs.docs.get 2).deadlineReached lab.now = false ∧
      ({ aDest .onLine with confirmed := 2 } : Dest).confirmed = (lab.docs.docs.get 2).pages.length := by decide +kernel

/-! ### Dialling and call set-up -/

def idleWith (attempt : Option Attempt) : Line := { Line.reset with attempt }

/-- The attempt of document 2's destination. -/
def anAttempt (expanded : Bool) : Attempt :=
  { doc := ⟨2, 7⟩, index := 0, dial := [.digit 1, .digit 2], desk := 0, priority := 0, firstPage := 0, expanded }

def anOut : OutCall := ⟨⟨2, 7⟩, 0, 0, 0⟩

def aCall (out : Option OutCall) (inbound : Option InHandle) : CallRec :=
  { out, inbound, charged := [1, 2], zone := some 3, reserved := true, start := ⟨2024, 5, 6, 7, 8, 0, 0⟩, connect := none,
    release := none, cause := none, pages := 0, flags := .none }

/-- A line with an OUT call of document 2, playing "1W". -/
def calling (state : CallState) : Line :=
  { Line.reset with
    state, attempt := some (anAttempt true), call := some (aCall (some anOut) none),
    expander := ⟨[.digit 1, .wait], 0, []⟩ }

theorem test_witness_lines_configured :
    (4 ≤ (4 : Byte).toNat ∧ takesIt ⟨0x30, 1, [4, 0, 0, 1, 1, 30]⟩ lab = true) ∧
      ((3 : Byte).toNat = (3 : LineNo).val ∧ takesIt ⟨0x30, 1, [3, 2, 1, 0, 0, 0]⟩ lab = true ∧
        (lab.line 3).inCall = false ∧ (calling .dialling).inCall = true) ∧
      (takesIt ⟨0x32, 1, [3]⟩ (onLine 3 (calling .dialling) lab) = true) ∧
      (takesIt ⟨0x32, 1, [3]⟩ lab = true ∧ (lab.line 3).state = .idle ∧ (lab.line 3).attempt = none) ∧
      (takesIt ⟨0x33, 1, [3]⟩ (onLine 3 { Line.reset with state := .outOfService } lab) = true ∧
        ({ Line.reset with state := .outOfService } : Line).ringDue = false) ∧
      takesIt ⟨0x33, 1, [3]⟩ lab = true := by decide +kernel

def macros37 : Table (Option (List DialSym)) :=
  ((Table.all none).set 3 (some [.macroCall 3])).set 7 (some [.digit 4, .chargePoint])

theorem test_witness_dial_strings :
    (let pre : List DialSym := [.digit 9, .wait, .chargePoint]
     let post : List DialSym := [.digit 0]
     pre.getLast? = some .chargePoint ∧ .chargePoint ∉ post ∧
      (∀ x ∈ pre ++ post, (match x with | .macroCall _ => true | _ => false) = false) ∧
      ((pre ++ post).filter fun x => decide (x ≠ .chargePoint)).length ≤ 64 ∧
      (chargedDigits ⟨[.digit 9, .wait, .digit 0], 2, []⟩).length ≤ 32) ∧
      macros37.get 7 = some [.digit 4, .chargePoint] ∧ macros37.get 5 = none ∧ macros37.get 3 = some (.macroCall 3 :: []) ∧
      ([.digit 9, .macroCall 31] : List DialSym).all DialSym.inRange = true ∧
      (takesIt ⟨0x34, 1, [31, 1] ++ eSyms [.digit 9, .macroCall 31]⟩ lab = true ∧ takesIt ⟨0x34, 1, [31, 0]⟩ lab = true ∧
        takesIt ⟨0x34, 1, [32, 0]⟩ lab = true) ∧
      (let s := onLine 1 (idleWith (some (anAttempt false))) lab
       (s.line 1).state = .idle ∧ (s.line 1).attempt = some (anAttempt false) ∧
        (expand s.macros (anAttempt false).dial).2 = none) ∧
      (let a : Attempt := { anAttempt false with dial := [.macroCall 0] }
       let s := onLine 1 (idleWith (some a)) lab
       (expand s.macros a.dial).2 = some .unknownMacro ∧ (s.line 1).deferred = false ∧
        s.doc a.doc = some (s.docs.docs.get 2) ∧ (s.docs.docs.get 2).dests[0]? = some 2 ∧
        s.dest 2 = some (aDest .onLine) ∧ (aDest .onLine).confirmed ≠ (s.docs.docs.get 2).pages.length ∧
        (s.docs.docs.get 2).cancelReq = false) := by decide +kernel

/-- Line 1 with its lookup due. -/
def lookingUp (zone : Option Nat) (reached : Bool) : State :=
  onLine 1 { idleWith (some (anAttempt true)) with charged := [1, 2], expander := ⟨[.digit 1], 0, []⟩ }
    { lab with
      charge := { Charging.reset with defaultZone := zone }
      desks := lab.desks.set 0 { Desk.reset with reached } }

theorem test_witness_lookup :
    (let s := lookingUp none false
     s.power = true ∧ s.scan.state ≠ .held ∧ (s.line 1).state = .idle ∧ (s.line 1).attempt = some (anAttempt true) ∧
      (s.line 1).deferred = false ∧ s.doc ⟨2, 7⟩ = some (s.docs.docs.get 2) ∧
      (s.docs.docs.get 2).dests[0]? = some 2 ∧ s.dest 2 = some (aDest .onLine) ∧
      (s.docs.docs.get 2).cancelReq = false ∧ (aDest .onLine).confirmed ≠ (s.docs.docs.get 2).pages.length ∧
      s.charge.lookup (s.line 1).charged = none) ∧
      (let s := lookingUp (some 15) false
       s.charge.lookup (s.line 1).charged = some 15 ∧ (s.desks.get (anAttempt true).desk).reached = false ∧
        s.log.records.length + s.log.reserved < 256) ∧
      (let s := lookingUp (some 15) true
       (s.desks.get (anAttempt true).desk).reached = true ∧ (s.docs.docs.get 2).deadlineReached s.now = false) := by
  decide +kernel

theorem test_witness_dial_buffer :
    (let x := calling .seized
     x.expander.buffer[x.playPos]? = some (.digit 1) ∧ x.state = .seized) ∧
      (let x := { calling .dialling with playPos := 1 }
       x.expander.buffer[x.playPos]? = some .wait ∧ x.playPos < 2 ∧ x.expander.buffer[2]? = none ∧
        ({ x with dialTone := true }.atSymbol 2).state = .alerting) ∧
      (let x := { calling .dialling with dialTone := true }
       x.expander.buffer[x.playPos]? = some (.digit 1) ∧ x.expander.buffer[1]? = some .wait ∧
        x.expander.buffer[2]? ≠ some .wait) ∧
      (calling .sending).state ≠ .seized ∧ (calling .sending).state ≠ .dialling := by decide +kernel

theorem test_witness_calls_answered :
    let s := onLine 1 (calling .alerting) lab
    s.power = true ∧ (s.line 1).state = .alerting ∧ (s.line 1).attempt = some (anAttempt true) ∧
      (s.line 1).call = some (aCall (some anOut) none) ∧ (aCall (some anOut) none).connect = none ∧
      s.doc anOut.doc = some (s.docs.docs.get 2) ∧ (s.docs.docs.get 2).dests[0]? = some 2 ∧
      s.dest 2 = some (aDest .onLine) ∧ ({ calling .seized with playPos := 1 } : Line).symbol = some .wait := by
  decide +kernel

theorem test_witness_rings :
    (lab.power = true ∧ lab.scan.state ≠ .held ∧ (lab.line 0).state = .idle ∧
        min 255 ((lab.line 0).ringCount + 1) < (lab.line 0).config.ringsToAnswer) ∧
      (calling .alerting).state ∉ [.idle, .outOfService, .rest, .seized] ∧
      ({ calling .seized with config := { LineConfig.reset with direction := .outOnly } } : Line).config.direction = .outOnly ∧
      (let s := onLine 0 { Line.reset with ringCount := 255 } { lab with cfg := { lab.cfg with receptionReserve := 2048 } }
       let s := { s with store := { s.store with pool := ⟨6145, []⟩ } }
       (s.line 0).attempt = none ∧ (s.line 0).config.ringsToAnswer ≤ min 255 ((s.line 0).ringCount + 1) ∧
        (s.line 0).config.direction ≠ .outOnly ∧ s.freeCount < s.cfg.receptionReserve) ∧
      ({ Line.reset with state := .outOfService, ringCount := 1 } : Line).refused = false ∧
      (let s := onLine 0 { Line.reset with ringCount := 1 } lab
       (s.recept.docs.get 3).state = .free ∧ s.freeInSlots ≠ 0 ∧ (∀ k, k < 3 → (s.recept.docs.get k).state ≠ .free) ∧
        s.cfg.receptionReserve ≤ s.freeCount ∧ s.logHasRoom = true ∧ s.log.records.length + s.log.reserved < 256) ∧
      (let s := onLine 0 (calling .seized) lab
       (s.line 0).config.direction = .both ∧ (s.line 0).attempt = some (anAttempt true) ∧
        s.doc ⟨2, 7⟩ = some (s.docs.docs.get 2) ∧ (s.docs.docs.get 2).dests[0]? = some 2 ∧
        s.dest 2 = some (aDest .onLine) ∧ (s.docs.docs.get 2).cancelReq = false ∧
        (s.docs.docs.get 2).deadlineReached s.now = false) := by decide +kernel

theorem test_witness_burst_answer_rest :
    ({ Line.reset with burst := true } : Line).burst = true ∧ Line.reset.burst = false ∧
      (let x : Line := { Line.reset with state := .answering, call := some (aCall none (some ⟨1, 4⟩)) }
       x.call = some (aCall none (some ⟨1, 4⟩)) ∧ (aCall none (some ⟨1, 4⟩)).inbound = some ⟨1, 4⟩) ∧
      (({ Line.reset with state := .rest } : Line).ringDue = false ∧ Line.reset.state ≠ .rest) ∧
      (let s := onLine 0 { Line.reset with state := .rest, burst := true, ringCount := 2 } lab
       (s.line 0).ringDue = true ∧ (s.line 0).config.direction ≠ .outOnly ∧ s.cfg.receptionReserve ≤ s.freeCount ∧
        s.freeInSlots ≠ 0 ∧ s.logHasRoom = true) := by decide +kernel

/-! ### The line procedure -/

/-- A connected line in a role, quiet and listening. -/
def talker (role : Role) (state : CallState) (call : CallRec) : Line :=
  { Line.reset with
    state, call := some call, params := { CallParams.reset with role := some role, rate := some .r9600 } }

def sender (state : CallState) : Line := talker .sender state (aCall (some anOut) none)
def receiver (state : CallState) : Line := talker .receiver state (aCall none (some ⟨1, 4⟩))

/-- The lab with a call of document 2 on line 1, page 0 of 300 octets first. -/
def sendingLab (x : Line) : State := onLine 1 x lab

/-- The lab with a call received on line 0, its page 5 open. -/
def receivingLab (x : Line) : State :=
  onLine 0 x (lab.setInDoc 1 { anIn .receiving .notQueued [⟨0, 5⟩] with inPage := some ⟨5, 3⟩ })

def sentMsg (m : Msg) : Line := { sender .negotiating with proc := { Procedure.reset with lastOut := some (.msg m) } }

theorem test_witness_negotiation :
    (let s := sendingLab (sender .negotiating)
     s.power = true ∧ (s.line 1).listening = true ∧ (s.line 1).state = .negotiating ∧ (s.line 1).role = some .sender ∧
      (s.line 1).proc.lastOut = none ∧ s.pageSent 1 = some (s.entry 0)) ∧
      (let s := sendingLab { sender .negotiating with
          params := { CallParams.reset with role := some .sender, detector := .armed } }
       (s.line 1).listening = true ∧ (s.line 1).role = some .sender ∧ (s.line 1).proc.lastOut = none ∧
        (s.line 1).params.detector ≠ .disarmed) ∧
      (let s := receivingLab (receiver .negotiating)
       (s.line 0).listening = true ∧ (s.line 0).role = some .receiver ∧ (octets 20).length ≤ 20 ∧
        (0x28 : Byte).toNat < 64 ∧ (0x02 : Byte).toNat < 4 ∧ (0x28 : Byte).getLsbD (lineRateIndex .r7200) = true ∧
        (∀ k, k < lineRateIndex .r7200 → (0x28 : Byte).getLsbD k = false) ∧ (0x02 : Byte) ≠ 0 ∧
        (s.line 0).call = some (aCall none (some ⟨1, 4⟩)) ∧ s.inDoc ⟨1, 4⟩ = some (s.recept.docs.get 1) ∧
        (s.line 0).proc.offerSeen = false) ∧
      ({ Procedure.reset with offerSeen := true, badOffers := 2 } : Procedure).badOffers < 3 ∧
      (let s := sendingLab (sentMsg .quit)
       (s.line 1).proc.lastOut.isSome ∧ (7 : Byte).toNat < 8 ∧ s.cancelAsked 1 = false ∧
        s.pageSent 1 = some (s.entry 0)) := by decide +kernel

theorem test_witness_training :
    (let s := receivingLab (receiver .training)
     (s.line 0).listening = true ∧ (s.line 0).state = .training ∧ (s.line 0).role = some .receiver ∧
      (s.line 0).params.rate = some .r9600 ∧ .r9600 ∉ (s.line 0).proc.badRates ∧
      ({ Procedure.reset with lastIn := some (.burst .r7200), badRates := [.r9600] } : Procedure).lastIn ≠ some (.burst .r9600)) ∧
      (let p : Procedure := { Procedure.reset with lastIn := some (.burst .r9600), badRates := [.r9600] }
       p.lastIn = some (.burst .r9600) ∧ .r9600 ∈ p.badRates) ∧
      (let s := sendingLab { sender .training with proc := { Procedure.reset with lastOut := some (.burst .r9600) } }
       (s.line 1).listening = true ∧ (s.line 1).role = some .sender ∧ s.cancelAsked 1 = false ∧
        (s.line 1).params.rate = some .r9600 ∧ s.pageSent 1 = some (s.entry 0)) := by decide +kernel

/-- A sender with the two frames of its page in the buffer. -/
def framing (tx : LineTx) (queue : List (Nat × Option Nat)) : Line :=
  { sender .sending with
    proc := { Procedure.reset with tx },
    send := { SendSide.reset with buf0 := some ⟨0, 0, 2, [octets 256, octets 256]⟩, queue } }

def cancelled2 (x : Line) : State :=
  (sendingLab x).setDoc 2 { aDoc .active [⟨0, 5⟩, ⟨2, 63⟩] [2] with cancelReq := true }

def awaiting (byteLen round : Nat) : State :=
  (sendingLab { sender .sending with
    params := { CallParams.reset with role := some .sender, rate := some .r2400, round },
    proc := { Procedure.reset with lastOut := some (.msg (.blockEnd 0 0 round 2 none)) } }).setEntry 0
      (aPage .closed 5 none [0] byteLen 3 1)

theorem test_witness_sender :
    (let s := sendingLab (framing (.ready (.msg .quit)) [])
     s.power = true ∧ (s.line 1).proc.tx = .ready (.msg .quit)) ∧
      (let s := cancelled2 (framing (.ready .frames) [])
       (s.line 1).proc.tx = .ready .frames ∧ s.cancelAsked 1 = true ∧ (s.line 1).state ≠ .releasing) ∧
      (let s := sendingLab (framing (.ready .frames) [(1, some 0)])
       s.cancelAsked 1 = false ∧ (s.line 1).send.queue = (1, some 0) :: [] ∧
        ((s.line 1).frameData 1 (some 0)).isSome) ∧
      (let s := sendingLab (framing (.sending .frames) [(0, none), (1, none)])
       (s.line 1).send.filling = false ∧ (s.line 1).send.queue = (0, none) :: (1, none) :: [] ∧
        ((s.line 1).frameData 1 none).isSome) ∧
      (let s := sendingLab (framing (.sending .frames) [(1, none)])
       (s.line 1).send.queue = [(1, none)] ∧ s.pageSent 1 = some (s.entry 0)) ∧
      (framing (.sending (.msg .trainGood)) []).proc.andThen = none ∧
      (let x : Line := { receiver .postPage with proc := { Procedure.reset with
          tx := .sending (.msg .pageGood), afterGood := some (some .extra) } }
       x.proc.afterGood = some (some .extra) ∧ x.state = .postPage) ∧
      (let s := awaiting 300 3
       ([1, 0, 0, 0, 0, 0, 0, 0x80] : List Byte).length = 8 ∧ (s.line 1).listening = true ∧
        (s.line 1).awaitsResend = true ∧ s.cancelAsked 1 = false ∧ s.pageSent 1 = some (s.entry 0) ∧
        (s.line 1).params.round < 4) ∧
      ((awaiting 300 4).line 1).params.round = 4 ∧
      64 * (((awaiting 20000 0).line 1).send.block + 1) < frameCount ((awaiting 20000 0).entry 0).byteLen ∧
      frameCount ((awaiting 300 0).entry 0).byteLen ≤ 64 * (((awaiting 300 0).line 1).send.block + 1) := by
  decide +kernel

set_option maxRecDepth 20000 in
theorem test_witness_frames_carried :
    (255 < 256 ∧ 63 < 64 ∧ (octets 256).length = 256 ∧ 3 < 4 ∧ (octets 64).length = 64) ∧
      ((readLineFrame (pageFrame 255 255 63 (some 3) (octets 64))).isSome ∧
        69 < (pageFrame 255 255 63 (some 3) (octets 64)).length ∧
        (pageFrame 255 255 63 (some 3) (octets 64))[0]? ≠ some 1) := by decide +kernel

/-- A receiver with a page's block in its buffer. -/
def holding (parts : List (Nat × Nat × List Byte)) (finalDone : Bool) : State :=
  receivingLab { receiver .receiving with recv := { ReceiveSide.reset with parts, finalDone } }

def wholeFrame : List (Nat × Nat × List Byte) := (List.range 4).map fun p => (0, p, octets 64)

theorem test_witness_receiver :
    (let s := holding [] false
     s.power = true ∧ s.scan.state ≠ .held ∧ (s.line 0).listening = true ∧ (s.line 0).state = .receiving ∧
      (s.line 0).proc.storing = false ∧ (s.line 0).params.pageSeq < 256 ∧ (s.line 0).params.block < 256 ∧
      (s.line 0).recv.finalDone = false ∧ (∀ p, p < 4 → (s.line 0).recv.holds 63 p = false) ∧
      readLineFrame (inLineOrder none [1, 2, 3]) = none ∧ (s.line 0).proc.awaitQuit = none ∧
      (s.line 0).recv.nextRound = 0 ∧
      (List.range 64).filter (fun f => !(s.line 0).recv.holds f 0) ≠ []) ∧
      (let x : Line := { receiver .receiving with recv := { ReceiveSide.reset with answered := some 3 } }
       x.recv.nextRound = 4 ∧ x.params.rate = some .r9600) ∧
      (let s := holding wholeFrame false
       (List.range 1).filter (fun f => !((s.line 0).recv.holds f 0 && (s.line 0).recv.holds f 3)) = [] ∧
        (s.line 0).call = some (aCall none (some ⟨1, 4⟩)) ∧ (aCall none (some ⟨1, 4⟩)).out = none ∧
        s.inDoc ⟨1, 4⟩ = some (s.recept.docs.get 1) ∧ (s.recept.docs.get 1).inPage = some ⟨5, 3⟩ ∧
        s.page ⟨5, 3⟩ = some (s.entry 5) ∧ (s.entry 5).committed < 16 * (s.entry 5).chain.length) ∧
      (let s := holding [] true
       (s.line 0).recv.finalDone = true ∧ 65535 ≤ 65535 ∧ (s.line 0).recv.short = [] ∧
        (s.recept.docs.get 1).pages ≠ [] ∧ s.engine.entry = none) := by decide +kernel

theorem test_witness_pages_confirmed :
    (let s := sendingLab (sender .postPage)
     s.power = true ∧ s.scan.state ≠ .held ∧ (s.line 1).listening = true ∧ (s.line 1).role = some .sender ∧
      (s.line 1).call = some (aCall (some anOut) none) ∧ s.doc anOut.doc = some (s.docs.docs.get 2) ∧
      (s.docs.docs.get 2).dests[anOut.index]? = some 2 ∧ s.dest 2 = some (aDest .onLine) ∧
      (s.docs.docs.get 2).pages[(s.line 1).params.pagePos + 1]? = some ⟨2, 63⟩ ∧ (s.desks.get anOut.desk).limit = none) ∧
      (let x : Line := { sender .postPage with proc := { Procedure.reset with timer := true, lastOut := some (.msg .quit) } }
       x.listening = true ∧ x.proc.incoming = false ∧ x.proc.awaitQuit = none ∧ x.params.repeats < 3 ∧
        x.proc.lastOut.isSome) ∧
      (let x : Line := { sender .releasing with
          call := some { aCall (some anOut) none with cause := some .normal }
          proc := { Procedure.reset with tx := .sending (.msg .quit) } }
       x.proc.tx = .sending (.msg .quit)) ∧
      (let x : Line := { sender .sending with params := { CallParams.reset with detector := .counting } }
       x.listening = true ∧ x.params.detector = .counting) ∧
      ({ sender .releasing with proc := { Procedure.reset with timer := true, awaitQuit := some .timeout } } : Line).listening = true := by
  decide +kernel

theorem test_witness_carrier :
    (sender .sending).listening = true ∧
      ({ CallParams.reset with detector := .armed } : CallParams).detector = .armed ∧
      (sender .sending).params.detector = .disarmed ∧ (sender .sending).params.detector ≠ .counting := by decide +kernel

/-! ### Reception, the print queue and the print engine -/

/-- Inbound document 2 of the lab in a given state, waiting to be printed or not. -/
def inbound2 (state : InState) (print : PrintState) (pages : List PageHandle) (urgent : Bool) : State :=
  { lab with recept := { lab.recept with
      docs := lab.recept.docs.set 2 { anIn state print pages with urgent }, waitList := [⟨2, 4⟩] } }

theorem test_witness_inbound_deleted :
    (let s := inbound2 .complete .held [⟨0, 5⟩] false
     takesIt ⟨0x39, 1, [2, 4]⟩ s = true ∧ s.scan.state ≠ .held ∧ s.inDoc (inOf 2 4) = some (s.recept.docs.get 2) ∧
      s.page ⟨0, 5⟩ = some (s.entry 0) ∧ (s.recept.docs.get 2).pages.count ⟨0, 5⟩ < (s.entry 0).refs) ∧
      (let s := inbound2 .part .notQueued [⟨2, 63⟩] false
       s.page ⟨2, 63⟩ = some (s.entry 2) ∧ s.store.chained = lab.store.chained ∧ s.store.pool = lab.store.pool ∧
        (s.entry 2).state = .closed ∧ (s.entry 2).refs = 1 ∧ (s.entry 2).pins = 0) ∧
      (inbound2 .receiving .notQueued [] false).inDoc (inOf 2 4) = some (anIn .receiving .notQueued []) := by
  decide +kernel

theorem test_witness_urgent_set :
    takesIt ⟨0x3A, 1, 15 :: eOpt eChars (some (octets 20))⟩ lab = true ∧
      takesIt ⟨0x3A, 1, 0 :: eOpt eChars (some (octets 1))⟩ lab = true ∧
      takesIt ⟨0x3A, 1, 0 :: eOpt eChars (some (octets 21))⟩ lab = true ∧
      takesIt ⟨0x3A, 1, 0 :: eOpt eChars (some [])⟩ lab = true ∧
      takesIt ⟨0x3A, 1, 16 :: eOpt eChars none⟩ lab = true := by decide +kernel

def anEntry (number : Nat) (urgent begun : Bool) : QueueEntry := ⟨number, .page ⟨0, 5⟩, urgent, begun⟩

def queued (queue : List QueueEntry) (counter : Nat) (s : State) : State :=
  { s with recept := { s.recept with queue, entryCounter := counter } }

theorem test_witness_print_doc :
    (let s := queued [anEntry 65535 false false] 65535 (inbound2 .complete .held [⟨0, 5⟩] false)
     takesIt ⟨0x3B, 1, [2, 4]⟩ s = true ∧ s.recept.queue = [anEntry 65535 false false] ++ [] ∧
      0 = (s.recept.entryCounter + 1) % 65536 ∧ (∀ e ∈ s.recept.queue, e.number ≠ 0) ∧
      (∃ e ∈ s.recept.queue, e.number = (s.recept.entryCounter + 0) % 65536) ∧ s.recept.queue.length < 48) ∧
      (let s := queued [anEntry 1 false true, anEntry 2 false false] 3 (inbound2 .complete .printed [⟨0, 5⟩] true)
       s.inDoc (inOf 2 4) = some (s.recept.docs.get 2) ∧ (s.recept.docs.get 2).urgent = true ∧
        (∀ e ∈ [anEntry 2 false false], e.urgent = false ∧ e.begun = false) ∧
        [anEntry 1 false true].getLast? = some (anEntry 1 false true) ∧ (anEntry 1 false true).begun = true) ∧
      48 ≤ (queued (List.replicate 48 (anEntry 0 false false)) 1 lab).recept.queue.length ∧
      (takesIt ⟨0x3C, 1, [0, 5]⟩ lab = true ∧ lab.page (pageOf 0 5) = some (lab.entry 0) ∧
        (lab.entry 0).state = .closed ∧ (lab.entry 0).refs < 4095 ∧ takesIt ⟨0x3C, 1, [0, 64]⟩ lab = true ∧
        lab.page (pageOf 0 64) = some (lab.entry 1) ∧ (lab.entry 1).state = .opened) := by decide +kernel

theorem test_witness_print_cancel :
    (let s := queued [anEntry 258 false true] 3 lab
     takesIt ⟨0x3D, 1, [0, 1, 2]⟩ s = true ∧ s.recept.entryNumbered (nat16 1 2) = some (anEntry 258 false true) ∧
      s.page ⟨0, 5⟩ = some (s.entry 0) ∧ 1 < (s.entry 0).refs ∧ s.recept.entryNumbered (nat16 1 3) = none) ∧
      (let q : QueueEntry := ⟨7, .document ⟨0, 4⟩, false, false⟩
       let s := queued [q] 3 (inbound2 .complete .queueWait [⟨0, 5⟩] false)
       takesIt ⟨0x3D, 1, [1, 0, 4]⟩ s = true ∧ s.recept.entryOf (inOf 0 4) = some q ∧
        s.inDoc (inOf 0 4) = some (s.recept.docs.get 0) ∧ (s.recept.docs.get 0).printState = .queued ∧
        s.recept.waitList = ⟨2, 4⟩ :: [] ∧ takesIt ⟨0x3D, 1, [1, 2, 4]⟩ s = true ∧
        s.inDoc (inOf 2 4) = some (s.recept.docs.get 2)) := by decide +kernel

def printing (cls : ResClass) (ring : List DotLine) (ended : Bool) : Engine :=
  { Engine.reset with
    entry := some 9, page := some ⟨0, 5⟩, cls, ring, decoder := { Decoder.reset with ended }, struck := 4 }

def onPage (e : Engine) : State := onEngine e (queued [anEntry 9 false true] 10 lab)

theorem test_witness_entry_begins :
    (let s := queued [anEntry 9 false false] 10 lab
     s.power = true ∧ s.scan.state ≠ .held ∧ s.engine.entry = none ∧ s.engine.stopped = false ∧
      s.page ⟨0, 5⟩ = some (s.entry 0) ∧ 0 < (s.entry 0).byteLen ∧ 0 < (s.entry 0).committed) ∧
      (lab.recept.docs.get 0).pages[0]? = some ⟨0, 5⟩ ∧ (lab.recept.docs.get 1).pages = [] ∧
      (lab.recept.docs.get 1).state = .receiving := by decide +kernel

theorem test_witness_head_lines :
    (let s := onPage (printing .fine [lineX, lineY] true)
     s.power = true ∧ s.engine.stopped = false ∧ s.engine.cutFeed = false ∧ 1 < s.engine.ring.length) ∧
      (printing .coarse [lineX] true).ring[0]? = some lineX ∧
      (let s := onPage (printing .extra [lineX] true)
       s.engine.ring = [lineX] ∧ 1 = s.engine.ring.length ∧ s.recept.entryNumbered 9 = some (anEntry 9 false true) ∧
        s.recept.waitList = [] ∧ s.page ⟨0, 5⟩ = some (s.entry 0) ∧ 1 < (s.entry 0).refs ∧ s.engine.index = 0) ∧
      ((printing .extra [lineX, lineY] true).ring[1]? = some lineY ∧ 2 = (printing .extra [lineX, lineY] true).ring.length) ∧
      ({ printing .fine [] true with cutFeed := true } : Engine).cutFeed = true := by decide +kernel

theorem test_witness_strikes : 216 ≤ 216 ∧ 1728 ≤ 1728 ∧ lineX.length = 1728 ∧ lineY.length = 1728 ∧
    strikes 216 lineY = List.replicate 8 216 ∧ strikes 1728 lineY = [1728] := by decide +kernel

theorem test_witness_engine_stops :
    (let s := onPage (printing .fine [lineX] false)
     s.power = true ∧ s.scan.state ≠ .held ∧ s.engine.page = some ⟨0, 5⟩ ∧ s.engine.paperOut = false ∧
      s.engine.jamLatched = false ∧ s.engine.hostPause = false ∧ takesIt ⟨0x3E, 1, []⟩ s = true ∧
      takesIt ⟨0x3F, 1, []⟩ s = true ∧ s.page ⟨0, 5⟩ = some (s.entry 0) ∧ (s.entry 0).state = .closed ∧
      0 < (s.entry 0).committed) ∧
      (let e := { printing .fine [] false with paperOut := true, jamLatched := true, jamSensor := true }
       e.stopped = true ∧ takesIt ⟨0x3F, 1, []⟩ (onPage e) = true) := by decide +kernel

/-! ### Charging, desks and the log -/

def prefixed : State :=
  { lab with charge := { tariff with prefixes := [⟨[0], some 1⟩, ⟨[0, 0], none⟩], defaultZone := some 4 } }

def prefixes128 : State :=
  { lab with charge := { tariff with prefixes := (List.range 128).map fun k => ⟨[k / 100, k / 10 % 10, k % 10], none⟩ } }

theorem test_witness_prefixes :
    takesIt ⟨0x48, 1, 0 :: (eDigits (List.replicate 12 9) ++ eOpt e8 (some 15))⟩ prefixed = true ∧
      takesIt ⟨0x48, 1, 0 :: (eDigits (List.replicate 13 9) ++ eOpt e8 none)⟩ prefixed = true ∧
      takesIt ⟨0x48, 1, 0 :: (eDigits [] ++ eOpt e8 (some 16))⟩ prefixed = true ∧
      takesIt ⟨0x48, 1, 0 :: (eDigits [] ++ eOpt e8 none)⟩ prefixed = true ∧
      prefixed.charge.prefixes.Pairwise (fun x y => digitsBefore x.digits y.digits = true) ∧
      takesIt ⟨0x48, 1, 1 :: eDigits [0, 0]⟩ prefixed = true ∧ (∃ e ∈ prefixed.charge.prefixes, e.digits = [0, 0]) ∧
      takesIt ⟨0x48, 1, 1 :: eDigits [7]⟩ prefixed = true ∧ (∀ e ∈ prefixed.charge.prefixes, e.digits ≠ [7]) ∧
      128 ≤ prefixes128.charge.prefixes.length ∧ (∀ e ∈ prefixes128.charge.prefixes, e.digits ≠ [0]) ∧
      takesIt ⟨0x48, 1, 0 :: (eDigits [0] ++ eOpt e8 none)⟩ prefixes128 = true ∧
      prefixed.charge.lookup [0, 0, 7] = none ∧ prefixed.charge.lookup [0, 7] = some 1 ∧
      prefixed.charge.lookup [7] = some 4 := by decide +kernel

theorem test_witness_tariff_rows :
    takesIt ⟨0x49, 1, [15, 1, 200]⟩ lab = true ∧ ZoneRounding.code .nearestEven = 1 ∧
      takesIt ⟨0x49, 1, [16, 9, 0]⟩ lab = true ∧ takesIt ⟨0x49, 1, [15, 2, 0]⟩ lab = true ∧
      takesIt ⟨0x4D, 1, [15, 7, 16, 255, 255]⟩ lab = true ∧ takesIt ⟨0x4D, 1, [15, 8, 0, 0, 0]⟩ lab = true := by
  decide +kernel

theorem test_witness_tariff_days :
    (let starts : List (Nat × Nat) := [(1439, 7), (0, 0)]
     takesIt ⟨0x4A, 1, DayType.restDay.code :: (e8 starts.length ++ starts.flatMap fun x => e16 x.1 ++ e8 x.2)⟩ lab = true ∧
      (∀ x ∈ starts, x.1 ≤ 1439 ∧ x.2 ≤ 7) ∧ (starts.map (·.1)).Nodup) ∧
      (let starts : List (Nat × Nat) := [(1440, 0)]
       takesIt ⟨0x4A, 1, DayType.workday.code :: (e8 starts.length ++ starts.flatMap fun x => e16 x.1 ++ e8 x.2)⟩ lab = true) ∧
      takesIt ⟨0x4B, 1, Charging.reset.weekdays.map DayType.code⟩ lab = true ∧ Charging.reset.weekdays.length = 7 ∧
      (⟨2099, 12, 31⟩ : Date).valid = true ∧ takesIt ⟨0x4C, 1, 15 :: eOpt eDate (some ⟨2099, 12, 31⟩)⟩ lab = true ∧
      takesIt ⟨0x4C, 1, 16 :: eOpt eDate none⟩ lab = true ∧ takesIt ⟨0x4E, 1, [255, 255]⟩ lab = true := by decide +kernel

theorem test_witness_charged :
    (∀ day ∈ [DayType.workday, .saturday, .restDay], ∀ st ∈ tariff.schedule day, st.1 ≤ 1439) ∧
      row5.metered = false ∧ ({ row5 with metered := true, pulses := 65535 } : ChargeState).saturated = false ∧
      ({ row5 with metered := true, saturated := true } : ChargeState).captured = true ∧ lab.power = true ∧
      (lab.line 0).charging.captured = false := by decide +kernel

def deskLab (d : Desk) : State := { lab with desks := lab.desks.set 15 d }

theorem test_witness_desks :
    (let d : Desk := ⟨100, 5, 1, some 200, false, false⟩
     (deskLab d).desk 15 = d ∧ (200 ≤ min 4294967295 (d.cost + 100)) ∧ min 4294967295 (d.cost + 99) < 200) ∧
      (let s := deskLab ⟨100, 5, 1, some 100, true, false⟩
       takesIt ⟨0x4F, 1, 15 :: eOpt e32 (some 4294967295)⟩ s = true ∧ takesIt ⟨0x4F, 1, 16 :: eOpt e32 none⟩ s = true ∧
        takesIt ⟨0x51, 1, eOpt e8 (some 15)⟩ s = true ∧ takesIt ⟨0x51, 1, eOpt e8 (some 16)⟩ s = true ∧
        takesIt ⟨0x51, 1, eOpt e8 none⟩ s = true ∧ takesIt ⟨0x53, 1, [1, 1]⟩ s = true) := by decide +kernel

/-! ### Readings and resets -/

theorem test_witness_readings :
    ([(0x01, []), (0x05, []), (0x14, [0, 5]), (0x2D, [2, 7]), (0x2E, [2, 7, 0, 10]), (0x31, e8 3), (0x35, [31]),
        (0x38, [1, 2, 4]), (0x38, [0]), (0x40, []), (0x48, [2, 0]), (0x48, 3 :: eDigits (List.replicate 32 9)), (0x49, [15]),
        (0x4D, [15]), (0x4A, [DayType.saturday.code]), (0x4B, []), (0x4C, []), (0x4E, []), (0x50, [1, 15]), (0x52, [4]),
        (0x59, []), (0x59, [99, 12, 31]), (0x23, [])] : List (Byte × List Byte)).all
      (fun x => takesIt ⟨x.1, 1, x.2⟩ prefixed) = true ∧
      prefixed.page (pageOf 0 5) = some (prefixed.entry 0) ∧ prefixed.doc (docOf 2 7) = some (prefixed.docs.docs.get 2) ∧
      (prefixed.docs.docs.get 2).dests = [2] ∧ (prefixed.dest 2).isSome ∧
      prefixed.inDoc (inOf 2 4) = some (prefixed.recept.docs.get 2) ∧ 0 < prefixed.charge.prefixes.length ∧
      (dateOf 99 12 31).valid = true := by decide +kernel

theorem test_witness_reset_line : lab.power = true ∧ ({ lab.tk with lost := true } : Timekeeper).lost = true := by decide

/-- Line 1 sends, line 2 receives. -/
def busyLines : State := onLine 2 (receiver .receiving) (sendingLab (sender .sending))

theorem test_witness_reset_scopes :
    takesIt ⟨0x06, 1, [0]⟩ busyLines = true ∧ takesIt ⟨0x06, 1, [1]⟩ busyLines = true ∧
      takesIt ⟨0x06, 1, [2]⟩ busyLines = true ∧ busyLines.scan.state ≠ .held ∧ busyLines.callsInProgress = 2 ∧
      (∀ l ∈ allLines, (busyLines.line l).state.inProgress = true → (busyLines.line l).call.isSome) ∧
      busyLines.log.sequence < 65536 ∧ (onScan (scanning .scanning) busyLines).scan.state = .scanning := by decide +kernel

/-! ### Witnesses of the clauses on new segments, refusals, checks and the ends of receptions -/

theorem test_witness_failed_frames :
    (let f : Frame := ⟨0x2D, 0x31, [0xA5, 0]⟩
     f.body.length ≤ 1040 ∧ [1, 2] ≠ crcOctets f.covered ∧
      ({ lab.link with candidate := [0xA5, 0, 2, 0x2D, 0x31, 0xA5, 0, 1] } : Link).candidate =
        0xA5 :: (e16 f.body.length ++ [f.kind, f.tag] ++ f.body ++ [1])) ∧
      (1040 < 256 * (4 : Byte).toNat + (0x11 : Byte).toNat ∧
        ({ lab.link with candidate := [0xA5, 4] } : Link).candidate = [0xA5, 4]) := by decide +kernel

/-- 11.2: the frame whose CRC fails is examined again, and the 0xA5 in its body begins the frame in receipt. -/
theorem test_failed_frame_examined_again :
    (match exec (.hostOctetReceived 2 true)
        { lab with link := { lab.link with candidate := [0xA5, 0, 2, 0x2D, 0x31, 0xA5, 0, 1] } } with
      | .next t => decide (t.link.candidate = [0xA5, 0, 1, 2] ∧
          (t.link.notices.map fun n => n.fields) = [[0, 1, 0x2D, 1, 0x31, 0, 8]])
      | .fault _ => false
      | .refused _ => false) = true := by decide +kernel

/-- Page 1 of the lab as an upload with this chain and as many blocks committed as it holds. -/
def fullChain (chain : List Nat) (pending : List Byte) : State :=
  lab.setEntry 1 { aPage .opened 0 (some .hostXfer) chain 0 0 1 with committed := 16 * chain.length, pending }

/-- The store down to its last free segment, with the reserve at its highest. -/
def lastSegment (s : State) : State :=
  { s with cfg := { s.cfg with receptionReserve := 2048 }, store := { s.store with pool := ⟨8192, [9]⟩ } }

theorem test_witness_new_segment :
    (let s := fullChain [] (octets 255)
     takesIt ⟨0x11, 1, 0 :: 64 :: octets 1⟩ s = true ∧ takesIt ⟨0x12, 1, [0, 64, 0, 0]⟩ s = true ∧
      s.page (pageOf 0 64) = some (s.entry 1) ∧ (s.entry 1).chain.length < 2048 ∧ (s.entry 1).pins = 1 ∧
      16 * (s.entry 1).chain.length ≤ (s.entry 1).committed ∧ s.cfg.receptionReserve < s.freeCount) ∧
      (let s := lastSegment (fullChain [1] (octets 255))
       takesIt ⟨0x11, 1, 0 :: 64 :: octets 1⟩ s = true ∧ takesIt ⟨0x12, 1, [0, 64, 0, 0]⟩ s = true ∧
        16 * (s.entry 1).chain.length ≤ (s.entry 1).committed ∧ s.freeCount ≤ s.cfg.receptionReserve) ∧
      (let s := fullChain (List.replicate 2048 1) (octets 255)
       takesIt ⟨0x11, 1, 0 :: 64 :: octets 1⟩ s = true ∧ takesIt ⟨0x12, 1, [0, 64, 0, 0]⟩ s = true ∧
        16 * (s.entry 1).chain.length ≤ (s.entry 1).committed ∧ 2048 ≤ (s.entry 1).chain.length) := by decide +kernel

theorem test_witness_block_checked :
    (let s := portBusy hostRead { lab with link := { lab.link with
        job := some (.readPage 1 ⟨0, 5⟩ 200 100 1 (octets 256) false) } }
     s.power = true ∧ s.scan.state ≠ .held ∧ s.page ⟨0, 5⟩ = some (s.entry 0) ∧ (s.entry 0).damaged = false ∧
      ([(257, 1)] : List (Nat × Byte)) ≠ [] ∧ 200 + 100 ≤ 256 * (1 + 1)) ∧
      (let t : Transfer := ⟨⟨.print, 2, .read ⟨0, 5⟩ 0⟩, 0, true⟩
       (portBusy t lab).store.port = some t ∧ t.req.client ≠ .hostXfer) := by decide +kernel

/-- A write of the lab's page at the port's second test, which fails. -/
def atGrant (c : Client) (h : PageHandle) (close : Option CloseReq) (job : Option HostJob) : State :=
  let s := lastSegment (onScan (scanning .scanning) lab)
  let s := s.setEntry h.slot { s.entry h.slot with committed := 16 }
  waits [{ client := c, level := s.levelOf c, op := .write h (octets 256) close }] { s with link := { s.link with job } }

def finalReq (hold : Hold) : CloseReq := ⟨9, 6913, false, hold⟩

theorem test_witness_refused_at_grant :
    (let s := atGrant .hostXfer ⟨1, 0⟩ none (some (.writeData 1 ⟨1, 0⟩ (octets 300) 255 256))
     s.store.port = none ∧ s.store.pick = some ⟨.hostXfer, 0, .write ⟨1, 0⟩ (octets 256) none⟩ ∧
      s.page ⟨1, 0⟩ = some (s.entry 1) ∧ 16 * (s.entry 1).chain.length ≤ (s.entry 1).committed ∧
      (s.entry 1).chain.length < 2048 ∧ s.freeCount ≤ s.cfg.receptionReserve ∧ 0 < (s.entry 1).pins) ∧
      (let s := atGrant .hostXfer ⟨1, 0⟩ (some (finalReq .none)) (some (.closePage 1 ⟨1, 0⟩))
       s.store.pick = some ⟨.hostXfer, 0, .write ⟨1, 0⟩ (octets 256) (some (finalReq .none))⟩) ∧
      (let s := atGrant .scan ⟨4, 2⟩ none none
       s.store.pick = some ⟨.scan, 1, .write ⟨4, 2⟩ (octets 256) none⟩ ∧ s.scan.state = .scanning ∧
        s.scan.page = some ⟨4, 2⟩ ∧ 16 * (s.entry 4).chain.length ≤ (s.entry 4).committed) := by decide +kernel

/-- A block write of a page of the lab at its completion. -/
def completing (c : Client) (h : PageHandle) (close : Option CloseReq) (void : Bool) (s : State) : State :=
  portBusy ⟨⟨c, s.levelOf c, .write h (octets 256) close⟩, 96, void⟩ s

theorem test_witness_commits :
    (let s := completing .print ⟨1, 0⟩ none true lab
     s.page ⟨1, 0⟩ = some (s.entry 1) ∧ Memory.wf s.mem = true ∧ s.scan.state ≠ .held) ∧
      (let s := completing .hostXfer ⟨1, 0⟩ (some (finalReq .none)) false
        { lab with link := { lab.link with job := some (.closePage 1 ⟨1, 0⟩) } }
       (s.entry 1).state = .opened ∧ 0 < (s.entry 1).pins ∧ (finalReq .none).hold = .none) ∧
      (let u := { scanning .held with full := some (octets 256), filling := octets 255, marks := [(512, 4), (513, 1)] }
       let s := completing .scan ⟨4, 2⟩ none false (onScan u lab)
       s.scan.state = .held ∧ s.scan.backlog = [] ∧ s.scan.lineWaits = false ∧ s.scan.ending = none ∧
        s.page ⟨4, 2⟩ = some (s.entry 4) ∧ (s.entry 4).state = .opened) ∧
      (let x := { receiver .receiving with recv := { ReceiveSide.reset with toWrite := [octets 256, octets 256] } }
       let s := completing (.lc 0) ⟨5, 3⟩ none false (receivingLab x)
       (s.line 0).recv.toWrite = octets 256 :: octets 256 :: [] ∧ (s.line 0).call = some (aCall none (some ⟨1, 4⟩)) ∧
        s.inDoc ⟨1, 4⟩ = some (s.recept.docs.get 1) ∧ (s.recept.docs.get 1).inPage = some ⟨5, 3⟩ ∧
        (s.entry 5).committed + 1 < 16 * (s.entry 5).chain.length) := by decide +kernel

theorem test_witness_upload_dropped :
    takesIt ⟨0x17, 1, [0, 64]⟩ lab = true ∧ lab.page (pageOf 0 64) = some (lab.entry 1) ∧
      (lab.entry 1).state = .opened ∧ (lab.entry 1).writer = some .hostXfer ∧
      (takesIt ⟨0x17, 1, [1, 2]⟩ lab = true ∧ lab.page (pageOf 1 2) = some (lab.entry 4) ∧
        (lab.entry 4).writer ≠ some .hostXfer) := by decide +kernel

theorem test_witness_scan_goes_on :
    (let s := onScan { scanning .held with full := some (octets 256) } (lab.setEntry 3 (aPage .closed 1 none [3] 50 0 1))
     takesIt ⟨0x17, 1, [0, 193]⟩ s = true ∧ s.outstanding .scan = false ∧ s.page ⟨4, 2⟩ = some (s.entry 4) ∧
      (s.entry 4).state = .opened ∧ s.page (pageOf 0 193) = some (s.entry 3) ∧ (s.entry 3).state = .closed ∧
      (s.entry 3).refs = 0 ∧ s.cfg.receptionReserve < s.freeCount + (s.entry 3).chain.length) ∧
      (let u := { Scan.reset with state := .ejecting, nextSheet := true }
       u.nextSheet = true ∧ Client.scan.holdsOpen (onScan u noScan) = false ∧ (noScan.entry 4).state = .free) := by
  decide +kernel

/-- Lines of alternating samples need more octets than both buffers hold. -/
theorem test_witness_buffer_filled :
    let u := { scanning .scanning with filling := octets 255, step := 4 }
    let code := runsCode ((List.range 1728).map fun k => decide (k % 2 = 1))
    u.filling.length < 256 ∧ 256 ≤ u.filling.length + code.length ∧ 512 < u.filling.length + code.length ∧ u.full = none ∧
      u.step % captureStride u.settings.cls = 0 ∧
      ((lab.entry 4).committed < 16 * (lab.entry 4).chain.length) ∧
      (let s := lastSegment (lab.setEntry 4 { lab.entry 4 with committed := 16 })
       16 * (s.entry 4).chain.length ≤ (s.entry 4).committed ∧ s.freeCount ≤ s.cfg.receptionReserve) ∧
      (let s := onScan u (lab.setEntry 4 { lab.entry 4 with committed := 32768, chain := List.replicate 2048 4 })
       2048 ≤ (s.entry 4).chain.length ∧ 16 * (s.entry 4).chain.length ≤ (s.entry 4).committed ∧
        s.page ⟨4, 2⟩ = some (s.entry 4) ∧ s.scanTaker ⟨4, 2⟩ = none) := by decide +kernel

theorem test_witness_page_ends :
    (let u := { scanning .scanning with step := 6912, endStep := some 6913 }
     u.endStep ≠ some 6912 ∧ u.filling = [] ∧ u.full = none ∧ u.repeats = 0 ∧ (onScan u lab).scanTaker ⟨4, 2⟩ = none ∧
      (onScan u lab).outstanding .scan = false) ∧
      (let u := { scanning .scanning with step := 6912, endStep := some 6912, filling := octets 255 }
       u.endStep = some u.step ∧ u.filling ≠ [] ∧ u.filling.length < 256 ∧
        (lab.entry 4).committed < 16 * (lab.entry 4).chain.length) ∧
      (let u := { scanning .scanning with ending := some .trailingEdge }
       let s := completing .scan ⟨4, 2⟩ (some (finalReq .scanTarget)) false (onScan u lab)
       s.scan.ending = some .trailingEdge ∧ s.page ⟨4, 2⟩ = some (s.entry 4) ∧ (finalReq .scanTarget).hold = .scanTarget ∧
        s.scanTaker ⟨4, 2⟩ = none) := by decide +kernel

theorem test_witness_glare_refused :
    let s := lastSegment (onLine 0 (calling .seized) lab)
    (s.line 0).state = .seized ∧ (s.line 0).config.direction = .both ∧ (s.line 0).attempt = some (anAttempt true) ∧
      s.doc ⟨2, 7⟩ = some (s.docs.docs.get 2) ∧ s.dest 2 = some (aDest .onLine) ∧ s.freeCount < s.cfg.receptionReserve := by
  decide +kernel

/-- A sender whose first line block is being fetched into buffer 0. -/
def fetching (tx : LineTx) (filling : Bool) : State :=
  sendingLab { sender .sending with
    proc := { Procedure.reset with tx }
    send := { SendSide.reset with queue := [(0, none), (1, none)], filling, buf0 := some ⟨0, 0, 2, []⟩ } }

theorem test_witness_fill :
    (let s := fetching (.ready .frames) false
     (s.line 1).send.filling = false ∧ (s.line 1).frameData 0 none = none ∧ s.cancelAsked 1 = false) ∧
      (fetching (.sending .frames) false).power = true ∧
      (let s := portBusy ⟨⟨.lc 1, 0, .read ⟨0, 5⟩ 0⟩, 0, false⟩ (fetching (.sending .frames) true)
       let y : Line := { s.line 1 with send := { (s.line 1).send with buf0 := some ⟨0, 0, 2, [octets 256]⟩ } }
       (s.line 1).call = some (aCall (some anOut) none) ∧ s.doc anOut.doc = some (s.docs.docs.get 2) ∧
        s.store.waiting = [] ∧ (s.line 1).send.filling = true ∧ y.frameData 0 none = some (octets 256) ∧
        (s.line 1).send.buf0 ≠ none ∧ (s.docs.docs.get 2).pages[0]? = some ⟨0, 5⟩ ∧
        s.page ⟨0, 5⟩ = some (s.entry 0) ∧ (s.entry 0).state = .closed ∧ 64 * 0 + 0 + 1 < (s.entry 0).committed) := by
  decide +kernel

theorem test_witness_store_failure :
    (let s := holding wholeFrame false
     let s := s.setEntry 5 { s.entry 5 with committed := 16 }
     let s := { s with store := { s.store with pool := ⟨8192, []⟩ } }
     (∀ q, q < 4 → (s.line 0).recv.holds 0 q = true) ∧ 16 * (s.entry 5).chain.length ≤ (s.entry 5).committed ∧
      s.freeCount = 0 ∧ (s.recept.docs.get 1).pages ≠ [] ∧ s.engine.entry = none ∧
      s.page ⟨5, 3⟩ = some (s.entry 5)) ∧
      (let x := { receiver .receiving with recv := { ReceiveSide.reset with short := octets 255, finalDone := true } }
       let s := receivingLab x
       (s.line 0).recv.short ≠ [] ∧ (s.line 0).recv.short.length < 256 ∧
        (s.entry 5).committed < 16 * (s.entry 5).chain.length) ∧
      (let s := completing (.lc 0) ⟨5, 3⟩ (some (finalReq .reference)) false (receivingLab (receiver .postPage))
       s.page ⟨5, 3⟩ = some (s.entry 5) ∧ (s.entry 5).state = .opened ∧ (finalReq .reference).hold = .reference ∧
        (s.recept.docs.get 1).inPage = some ⟨5, 3⟩) := by decide +kernel

theorem test_witness_reception_ends :
    (let s := onLine 0 (receiver .receiving) lab
     (s.line 0).call = some (aCall none (some ⟨1, 4⟩)) ∧ s.inDoc ⟨1, 4⟩ = some (s.recept.docs.get 1) ∧
      (s.recept.docs.get 1).inPage = none ∧ s.engine.entry = none ∧ (s.line 0).listening = true ∧
      (s.line 0).role = some .receiver ∧ (s.line 0).proc.awaitQuit = none ∧ s.link.mask = 0 ∧ s.link.notices.length ≤ 28) ∧
      (let x := { receiver .releasing with proc := { Procedure.reset with goodLast := true, awaitQuit := some .normal } }
       x.listening = true ∧ x.proc.awaitQuit = some .normal) := by decide +kernel

theorem test_witness_carrier_storing :
    let x := { receiver .receiving with
      proc := { Procedure.reset with storing := true }, params := { CallParams.reset with detector := .counting } }
    x.listening = true ∧ x.proc.storing = true ∧ x.params.detector = .counting ∧ lab.scan.state ≠ .held ∧
      Line.reset.listening = false := by decide +kernel

/-- The engine with its first block on the port. -/
theorem test_witness_block_printed :
    let e : Engine := { printing .fine [] false with decoder := { Decoder.reset with asked := 1 } }
    let s := portBusy ⟨⟨.print, 2, .read ⟨0, 5⟩ 0⟩, 0, false⟩ (onPage e)
    let d := (decodeOn (s.entry 0).byteLen { s.engine with decoder := { s.engine.decoder with
      delivered := 1, stream := Memory.readBlock s.mem 0 } }).decoder
    s.engine.page = some ⟨0, 5⟩ ∧ s.engine.stopped = false ∧ s.page ⟨0, 5⟩ = some (s.entry 0) ∧
      (s.entry 0).state = .closed ∧ d.ended = false ∧ d.asked = d.delivered ∧ d.asked < (s.entry 0).committed ∧
      d.asked < d.decoded / 256 + 2 := by decide +kernel

/-- The block of address 0 in the lab as it comes with disturbances, and whether its check word matches. -/
def readWhole (disturbed : List (Nat × Byte)) : List Byte :=
  disturb (Memory.readBlock lab.mem 0 ++ checkOctets (checkAt lab.store.checks 0)) disturbed

def readMatches (disturbed : List (Nat × Byte)) : Bool :=
  Config.checkWord ((readWhole disturbed).take 256) == wordOf ((readWhole disturbed).drop 256)

/-- Whatever the check word is, one of two disturbances of its low octet is a mismatch. -/
theorem test_witness_mismatch : readMatches [(257, 1)] = false ∨ readMatches [(257, 2)] = false := by
  have data : (readWhole [(257, 1)]).take 256 = (readWhole [(257, 2)]).take 256 := by decide +kernel
  have word : wordOf ((readWhole [(257, 1)]).drop 256) ≠ wordOf ((readWhole [(257, 2)]).drop 256) := by decide +kernel
  cases first : readMatches [(257, 1)] with
  | false => exact .inl rfl
  | true =>
    cases second : readMatches [(257, 2)] with
    | false => exact .inr rfl
    | true =>
      simp only [readMatches, data, beq_iff_eq] at first second
      exact absurd (first.symm.trans second) word

/-- R11, R22, R118, R140: a PAGE-READ's earlier block, a channel's block in either buffer, the engine's block with the code
going on, and ended by a disturbed octet (0xCF) with lines left in the ring and with none. -/
theorem test_witness_live_reads :
    (let t : Transfer := ⟨⟨.hostXfer, 0, .read ⟨0, 5⟩ 0⟩, 0, false⟩
     let s := portBusy t { lab with link := { lab.link with job := some (.readPage 1 ⟨0, 5⟩ 0 257 0 [] false) } }
     s.power = true ∧ s.scan.state ≠ .held ∧ s.page ⟨0, 5⟩ = some (s.entry 0) ∧ (s.entry 0).damaged = false ∧
      256 * (0 + 1) < 0 + 257 ∧ (s.entry 0).state = .closed ∧ 0 + 1 < (s.entry 0).committed) ∧
      (let s := portBusy ⟨⟨.lc 1, 0, .read ⟨0, 5⟩ 0⟩, 0, false⟩ (fetching (.sending .frames) true)
       let b : TxBuffer := ⟨0, 0, 2, []⟩
       let y : Line := { s.line 1 with send := { (s.line 1).send with
         buf0 := some { b with got := [(readWhole [(0, 0x80)]).take 256] } } }
       (s.line 1).send.buf0 = some b ∧ b.got.length < b.want ∧ (s.line 1).send.filling = true ∧
        (y.frameData 0 none).isSome) ∧
      (let b : TxBuffer := ⟨0, 0, 2, []⟩
       let x : SendSide := { SendSide.reset with
         queue := [(0, none)], filling := true, buf0 := some ⟨1, 0, 1, [octets 256]⟩, buf1 := some b }
       let s := portBusy ⟨⟨.lc 1, 0, .read ⟨0, 5⟩ 0⟩, 0, false⟩ (sendingLab { sender .sending with send := x })
       (s.line 1).send.buf0 ≠ some b ∧ (s.line 1).send.buf1 = some b ∧
        ((s.line 1).send.buf0.map fun b₀ => b₀.want - b₀.got.length) = some 0) ∧
      (let t : Transfer := ⟨⟨.print, 2, .read ⟨0, 5⟩ 1⟩, 1, false⟩
       let reading (ring : List DotLine) : State :=
         portBusy t (onPage { printing .fine ring false with
           decoder := { Decoder.reset with asked := 2, delivered := 1, decoded := 256 } })
       let after (ring : List DotLine) (o : Byte) : Engine :=
         let e := (reading ring).engine
         decodeOn 300 { e with decoder := { e.decoder with
           delivered := 2, stream := ((readWhole [(0, o)]).take 256) } }
       (reading []).engine.page = some ⟨0, 5⟩ ∧ (reading []).engine.stopped = false ∧
        (reading []).page ⟨0, 5⟩ = some ((reading []).entry 0) ∧ ((reading []).entry 0).byteLen = 300 ∧
        ((after [lineX] 0xCF).decoder.ended = true ∧ (after [lineX] 0xCF).ring ≠ []) ∧
        ((after [] 0xCF).decoder.ended = true ∧ (after [] 0xCF).ring = [])) ∧
      (let t : Transfer := ⟨⟨.hostXfer, 0, .read ⟨0, 5⟩ 0⟩, 0, true⟩
       (portBusy t lab).store.port = some t ∧ (portBusy t lab).link.job = none) := by decide +kernel

theorem test_witness_tariff_values :
    takesIt ⟨0x4A, 1, 3 :: (e8 0 ++ [])⟩ lab = true ∧ 3 ≤ (3 : Byte).toNat ∧
      takesIt ⟨0x4B, 1, [0, 0, 0, 0, 0, 3, 1]⟩ lab = true ∧
      takesIt ⟨0x4C, 1, [15, 1, 25, 2, 29]⟩ lab = true ∧ (dateOf 25 2 29).valid = false := by decide +kernel

/-- R34: at 255 repeats the token of a full repeat leaves first, and the line counts as coded when its last octet has a
place. -/
theorem test_repeat_255 :
    let u := { Scan.reset with previous := some lineX, repeats := 255, coded := 256, filling := octets 255 }
    let v := (codeLine lineX u).place
    v.repeats = 1 ∧ v.coded = 256 ∧ v.filling = octets 255 ++ [0xC2] ∧ v.backlog = [0xFF] := by decide +kernel

/-- R13: a close on a page at 4095 references leaves the count. -/
theorem test_references_full : (PageEntry.referenced { PageEntry.freeWith 0 with refs := 4095 }).refs = 4095 := by decide

/-- A hold with no command waiting, and one with the supplies off. -/
theorem test_witness_idle_hold :
    (let s := onScan { scanning .held with holdTime := 300 } lab
     s.pending = [] ∧ s.power = true ∧ s.scan.state = .held ∧ s.scan.holdTime = 300) ∧
      lab.pending = [] ∧ lab.scan.state ≠ .held := by decide +kernel

/-- R40: the hold time counts without the timekeeper, whose crystal has stopped. -/
theorem test_hold_own_count :
    ({ onScan (scanning .held) lab with
        tk := { lab.tk with crystalRuns := false, source := .crystal } } : State).idled.scan.holdTime = 1 := by
  decide +kernel

/-- A new link rate with a frame in receipt, without and with an 0xA5 among its octets. -/
def rateComes (more : List Byte) : State :=
  let s := talking (.sendingReply [0xA5]) [okReply (some .b230400)] []
  { s with link := { s.link with candidate := 0xA5 :: more } }

theorem test_witness_rate_change :
    (rateComes [0, 1]).link.candidate = 0xA5 :: [0, 1] ∧ (0xA5 : Byte) ∉ [(0 : Byte), 1] ∧
      (rateComes [0, 1]).link.replies = okReply (some .b230400) :: [] ∧ HostRate.b230400 ≠ (rateComes []).link.rate ∧
      (rateComes [0xA5, 9]).link.candidate = 0xA5 :: [0xA5, 9] := by decide +kernel

/-- Document 2 with its call on line 1 before connect, alone or with a second destination in `other`. -/
def cancelling (state : CallState) (other : DestState) : State :=
  onLine 1 (calling state) ((lab.setDoc 2 (aDoc .active [⟨0, 5⟩] [2, 0])).setDest 0 (some (aDest other)))

theorem test_witness_cancel_hangs_up :
    (let s := cancelling .dialling .retryWait
     takesIt ⟨0x2C, 1, [2, 7]⟩ s = true ∧ s.doc (docOf 2 7) = some (s.docs.docs.get 2) ∧ s.scan.state ≠ .held ∧
      (s.docs.docs.get 2).dests.Nodup ∧ (s.docs.docs.get 2).releasePages = false ∧
      (s.line 1).attempt.map Attempt.doc = some (docOf 2 7) ∧ anOut.doc = docOf 2 7 ∧
      (s.dest 2).map (·.state) = some .onLine ∧ (aDest .onLine).confirmed < (s.docs.docs.get 2).pages.length ∧
      ∀ k, k ≠ 1 → (s.line k).attempt = none) ∧
      ((cancelling .seized .onLine).dest 0).map (·.state) = some .onLine := by decide +kernel

/-- A document whose only page has no other hold, in a given state. -/
def lastHolder (state : DocState) : State := lab.setDoc 1 { aDoc state [⟨2, 63⟩] [1] with releasePages := true }

theorem test_witness_document_releases :
    let s := lastHolder .queued
    takesIt ⟨0x2C, 1, [1, 7]⟩ s = true ∧ s.doc (docOf 1 7) = some (s.docs.docs.get 1) ∧
      (s.docs.docs.get 1).pagesHeld = true ∧ s.page ⟨2, 63⟩ = some (s.entry 2) ∧ (s.entry 2).state = .closed ∧
      (s.entry 2).refs = 1 ∧ (s.entry 2).pins = 0 ∧ s.store.chained = lab.store.chained ∧ s.store.pool = lab.store.pool ∧
      takesIt ⟨0x2F, 1, [1, 7]⟩ (lastHolder .done) = true := by decide +kernel

theorem test_witness_reception_cut :
    let s := receivingLab (receiver .receiving)
    (s.line 0).call = some (aCall none (some ⟨1, 4⟩)) ∧ s.inDoc ⟨1, 4⟩ = some (s.recept.docs.get 1) ∧
      (s.recept.docs.get 1).inPage = some ⟨5, 3⟩ ∧ s.page ⟨5, 3⟩ = some (s.entry 5) ∧ (s.entry 5).state = .opened ∧
      (s.recept.docs.get 1).pages ≠ [] ∧ s.engine.entry = none ∧ (s.line 0).listening = true ∧
      (s.line 0).role = some .receiver ∧ (s.line 0).proc.awaitQuit = none ∧ s.link.mask = 0 := by decide +kernel

/-- The engine in WAIT_PAGE, or IDLE without an entry, for inbound document 0 or 1. -/
def waitingPage (entry : Option Nat) (doc : InHandle) (paperOut : Bool) : State :=
  onEngine { Engine.reset with entry, paperOut } (queued [⟨9, .document doc, false, true⟩] 10 lab)

theorem test_witness_stop_without_page :
    (let s := waitingPage (some 9) ⟨1, 4⟩ false
     s.engine.page = none ∧ s.engine.paperOut = false ∧ s.engine.jamLatched = false ∧ s.engine.stopped = false ∧
      takesIt ⟨0x3E, 1, []⟩ s = true) ∧
      (let s := waitingPage (some 9) ⟨1, 4⟩ true
       s.recept.entryNumbered 9 = some ⟨9, .document ⟨1, 4⟩, false, true⟩ ∧ (s.recept.docs.get 1).pages[0]? = none ∧
        (s.recept.docs.get 1).state = .receiving ∧ s.engine.paperOut = true ∧ s.engine.hostPause = false) ∧
      (let s := waitingPage (some 9) ⟨0, 4⟩ true
       (s.recept.docs.get 0).pages[0]? = some ⟨0, 5⟩ ∧ s.page ⟨0, 5⟩ = some (s.entry 0) ∧ (s.entry 0).state = .closed ∧
        0 < (s.entry 0).byteLen ∧ 0 < (s.entry 0).committed) ∧
      (let s := onEngine { Engine.reset with hostPause := true } lab
       s.engine.entry = none ∧ s.engine.page = none ∧ takesIt ⟨0x3F, 1, []⟩ s = true) := by decide +kernel

/-! ### Forms added beside the first ones -/

/-- 4.6, the worked buffer's start: dial tone reported while the first digit plays is present as the W begins, which
completes at once; without it the line waits at the W. -/
theorem test_tone_before_wait :
    let s := onLine 1 { calling .dialling with expander := ⟨[.digit 9, .wait, .digit 0], 0, []⟩ } lab
    ((dialSymbolEnd 1 (dialToneReport 1 s)).line 1).symbol = some (.digit 0) ∧
      ((dialSymbolEnd 1 (dialToneReport 1 s)).line 1).dialTone = false ∧
      ((dialSymbolEnd 1 s).line 1).symbol = some .wait ∧
      ((dialToneReport 1 (dialSymbolEnd 1 s)).line 1).symbol = some (.digit 0) := by decide +kernel

/-- R3: a handle that names no page is answered first, whatever the document. -/
theorem test_witness_pages_resolved_first :
    (takesIt ⟨0x29, 1, [1, 7, 1] ++ ePage ⟨7, 0⟩⟩ lab = true ∧ lab.page ⟨7, 0⟩ = none) ∧
      (takesIt ⟨0x29, 1, [9, 7, 1] ++ ePage ⟨0, 5⟩⟩ lab = true ∧ lab.doc (docOf 9 7) = none ∧
        (lab.page ⟨0, 5⟩).isSome = true) ∧
      (takesIt ⟨0x29, 1, [1, 7, 1] ++ ePage ⟨0, 5⟩⟩ lab = true ∧
        lab.doc (docOf 1 7) = some (lab.docs.docs.get 1) ∧ (lab.docs.docs.get 1).state ≠ .draft) ∧
      (takesIt ⟨0x29, 1, [0, 7, 1] ++ ePage ⟨0, 5⟩⟩ (lab.setEntry 0 { lab.entry 0 with refs := 4095 }) = true ∧
        lab.doc (docOf 0 7) = some (lab.docs.docs.get 0) ∧ (lab.docs.docs.get 0).state = .draft ∧
        4095 < 4095 + [(⟨0, 5⟩ : PageHandle)].count ⟨0, 5⟩) := by decide +kernel

/-- A line out of service with a burst of rings due. -/
def ringsDue (dir : Direction) : State :=
  onLine 3 { Line.reset with
    state := .outOfService, burst := true, ringCount := 2, config := { LineConfig.reset with direction := dir } } lab

theorem test_witness_release_rings :
    (4 ≤ (4 : Byte).toNat ∧ takesIt ⟨0x32, 1, [4]⟩ lab = true ∧ takesIt ⟨0x33, 1, [4]⟩ lab = true) ∧
      (let s := ringsDue .outOnly
       takesIt ⟨0x33, 1, [3]⟩ s = true ∧ (s.line 3).ringDue = true ∧ (s.line 3).config.direction = .outOnly) ∧
      (let s := { ringsDue .both with cfg := { lab.cfg with receptionReserve := 8187 } }
       s.freeCount < s.cfg.receptionReserve ∧ (s.line 3).attempt = none) ∧
      (let s := ringsDue .both
       let t := { s with recept := { s.recept with docs := ⟨.freeWith 0, (List.range 32).map fun k => (k, anIn .part .held [])⟩ } }
       t.freeInSlots = 0 ∧ t.cfg.receptionReserve ≤ t.freeCount) ∧
      (let s := ringsDue .both
       let r : LogRecord := ⟨0, 0, none, [], none, timeZero, none, timeZero, 0, 0, none, 0, 0, .normal, 0, .none⟩
       ({ s with log := { s.log with records := List.replicate 256 r } } : State).logHasRoom = false) ∧
      (let s := ringsDue .both
       (s.recept.docs.get 3).state = .free ∧ (∀ k, k < 3 → (s.recept.docs.get k).state ≠ .free) ∧ s.freeInSlots ≠ 0 ∧
        s.cfg.receptionReserve ≤ s.freeCount ∧ s.logHasRoom = true ∧ s.log.records.length + s.log.reserved < 256) := by
  decide +kernel

/-- Both code buffers in use and octets waiting behind them. -/
def backedUp (filling waiting : Nat) : Scan :=
  { scanning .scanning with
    full := some (octets 256), filling := octets filling, backlog := octets waiting, lineWaits := true, step := 4 }

theorem test_witness_buffers_full :
    (let s := completing .scan ⟨4, 2⟩ none false (onScan (backedUp 256 256) lab)
     s.scan.page = some ⟨4, 2⟩ ∧ s.page ⟨4, 2⟩ = some (s.entry 4) ∧ s.scan.filling.length ≤ 256 ∧
      (s.scan.filling ++ s.scan.backlog).length = 512 ∧ s.scan.ending = none ∧ s.scan.lineWaits = true ∧
      (s.entry 4).committed + 1 < 16 * (s.entry 4).chain.length) ∧
      ((backedUp 250 5).filling ++ (backedUp 250 5).backlog).length < 256 ∧
      (let s := completing .scan ⟨4, 2⟩ none false
        (lastSegment (onScan (backedUp 256 1) (lab.setEntry 4 { lab.entry 4 with committed := 15 })))
       256 ≤ (s.scan.filling ++ s.scan.backlog).length ∧ 16 * (s.entry 4).chain.length ≤ (s.entry 4).committed + 1 ∧
        (s.entry 4).chain.length < 2048 ∧ s.freeCount ≤ s.cfg.receptionReserve) ∧
      ((onScan (backedUp 256 1) lab).scan.backlog ≠ [] ∧ (onScan (backedUp 256 1) lab).scan.state ≠ .held) ∧
      (let u := { backedUp 256 0 with lineWaits := false }
       u.backlog = [] ∧ u.lineWaits = false ∧ u.filling.length ≤ 256 ∧ u.full ≠ none ∧
        u.step % captureStride u.settings.cls = 0) := by decide +kernel

/-- The lab's reception with its page to close: the first one or a later one, its reference count, and the queue's length. -/
def closing (pages : List PageHandle) (refs entries : Nat) : State :=
  let s := receivingLab { receiver .receiving with recv := { ReceiveSide.reset with finalDone := true } }
  let s := s.setEntry 5 { s.entry 5 with refs }
  let s := s.setInDoc 1 { s.recept.docs.get 1 with pages }
  { s with recept := { s.recept with
    queue := (List.range entries).map fun k => anEntry k false (k == 0), entryCounter := 48, waitList := [⟨2, 4⟩] } }

/-- R124, R128: a first page with room in the queue, one that meets 48 entries, and one whose count is full. -/
theorem test_witness_first_page :
    (let s := closing [] 4094 47
     s.inDoc ⟨1, 4⟩ = some (s.recept.docs.get 1) ∧ (s.recept.docs.get 1).pages = [] ∧ s.cfg.autoPrint = true ∧
      s.page ⟨5, 3⟩ = some (s.entry 5) ∧ (s.entry 5).refs < 4095 ∧ s.recept.queue.length < 48 ∧
      s.recept.entryCounter < 65536 ∧ s.engine.state ≠ .waitPage ∧ (s.line 0).listening = true) ∧
      48 ≤ (closing [] 0 48).recept.queue.length ∧ ¬((closing [] 4095 0).entry 5).refs < 4095 ∧
      ((closing [] 0 47).recept.docs.get 1).pages = [] ∧ ((closing [⟨0, 5⟩] 0 0).recept.docs.get 1).pages ≠ [] := by
  decide +kernel

/-- R67: a page whose count is full joins no list as it closes, and one reference less makes it join. -/
theorem test_full_count_not_listed :
    ((takePageEnd 0 1 none (closing [⟨0, 5⟩] 4095 0)).recept.docs.get 1).pages = [⟨0, 5⟩] ∧
      ((takePageEnd 0 1 none (closing [⟨0, 5⟩] 4094 0)).recept.docs.get 1).pages = [⟨0, 5⟩, ⟨5, 3⟩] ∧
      (onScan { scanning .scanning with target := some ⟨0, 7⟩ }
        (lab.setEntry 4 { lab.entry 4 with refs := 4095 })).scanTaker ⟨4, 2⟩ = none := by decide +kernel

/-- R128: with 48 entries the document waits, by its close order, before one closed later. -/
theorem test_first_page_waits :
    let s := closing [] 0 48
    let s := { s with recept := { s.recept with closeCounter := 5 } }
    let t := takePageEnd 0 1 none (s.setInDoc 2 { s.recept.docs.get 2 with firstClose := some 6 })
    t.recept.waitList = [⟨1, 4⟩, ⟨2, 4⟩] ∧ (t.recept.docs.get 1).printState = .queueWait ∧
      (t.recept.docs.get 1).firstClose = some 5 ∧ t.recept.closeCounter = 6 := by decide +kernel

/-- The engine at the last head line of the first page of a document in print. -/
def pageOver (pages : List PageHandle) (state : InState) : State :=
  let s := onEngine (printing .fine [lineX] true) (queued [⟨9, .document ⟨1, 4⟩, false, true⟩] 10 lab)
  s.setInDoc 1 { s.recept.docs.get 1 with pages, state, printState := .printing }

theorem test_witness_next_page :
    (let s := pageOver [⟨0, 5⟩, ⟨2, 63⟩] .complete
     s.engine.entry = some 9 ∧ s.engine.page = some ⟨0, 5⟩ ∧ s.engine.decoder.ended = true ∧
      s.engine.ring[0]? = some lineX ∧ 1 = s.engine.ring.length ∧ s.engine.cutFeed = false ∧
      s.recept.entryNumbered 9 = some ⟨9, .document ⟨1, 4⟩, false, true⟩ ∧ s.page ⟨0, 5⟩ = some (s.entry 0) ∧
      (s.recept.docs.get 1).pages[1]? = some ⟨2, 63⟩ ∧ s.page ⟨2, 63⟩ = some (s.entry 2) ∧
      (s.entry 2).state = .closed ∧ 0 < (s.entry 2).byteLen ∧ 0 < (s.entry 2).committed) ∧
      (let s := pageOver [⟨0, 5⟩] .receiving
       (s.recept.docs.get 1).pages[1]? = none ∧ (s.recept.docs.get 1).state = .receiving) := by decide +kernel

/-- The engine waits for the page that line 0 receives. -/
theorem test_witness_page_awaited :
    let s := onEngine { Engine.reset with entry := some 9, index := 1 }
      (queued [⟨9, .document ⟨1, 4⟩, false, true⟩] 10 (closing [⟨0, 5⟩] 0 0))
    s.engine.state = .waitPage ∧ (s.recept.docs.get 1).pages.length = s.engine.index ∧
      s.recept.entryNumbered 9 = some ⟨9, .document ⟨1, 4⟩, false, true⟩ ∧ s.inDoc ⟨1, 4⟩ = some (s.recept.docs.get 1) ∧
      (s.recept.docs.get 1).inPage = some ⟨5, 3⟩ ∧ s.page ⟨5, 3⟩ = some (s.entry 5) ∧ (s.entry 5).refs < 4095 ∧
      0 < (s.entry 5).byteLen ∧ 0 < (s.entry 5).committed ∧ (s.line 0).recv.short = [] ∧
      (s.line 0).recv.finalDone = true ∧ (s.line 0).state = .receiving := by decide +kernel

/-- PAGE_FAILED in place of a RESEND, and the wait for the first OFFER: three expiries counted, or fewer. -/
theorem test_witness_failed_and_offer_waits :
    (let x : Line := { sender .sending with
        proc := { Procedure.reset with lastOut := some (.msg (.blockEnd 0 0 1 2 none)), timer := true } }
     x.listening = true ∧ x.awaitsResend = true ∧ x.role = some .sender) ∧
      ∀ n : Fin 4, let x : Line := { receiver .negotiating with
          proc := { Procedure.reset with timer := true, waits := n.val } }
        x.listening = true ∧ x.proc.timer = true ∧ x.proc.incoming = false ∧ x.proc.awaitQuit = none ∧
          x.proc.lastOut = none ∧ x.role = some .receiver ∧ (x.proc.waits < 3 ∨ x.proc.waits = 3) ∧
          x.state ≠ .releasing := by decide +kernel

/-- R35: the lines of the final block are committed with it; an empty feeder leaves the count readable. -/
theorem test_final_block_lines :
    let u := { scanning .scanning with ending := some .trailingEdge, committed := 30, marks := [(260, 2), (265, 3)] }
    let s := closeCommitted .scan ⟨4, 2⟩ ⟨9, 35, false, .scanTarget⟩
      (onScan u (lab.setEntry 4 { lab.entry 4 with byteLen := 265 }))
    s.scan.committed = 35 ∧ s.scan.state = .idle := by decide +kernel

/-- A page with 2048 full segments. -/
def atLimit (h : Nat) (s : State) : State :=
  s.setEntry h { s.entry h with committed := 32768, chain := List.replicate 2048 h }

theorem test_witness_limit_at_grant :
    (let s := waits [⟨.scan, 1, .write ⟨4, 2⟩ (octets 256) none⟩] (atLimit 4 (onScan (scanning .scanning) lab))
     s.store.port = none ∧ s.store.pick = some ⟨.scan, 1, .write ⟨4, 2⟩ (octets 256) none⟩ ∧
      2048 ≤ (s.entry 4).chain.length ∧ 16 * (s.entry 4).chain.length ≤ (s.entry 4).committed ∧
      s.scan.page = some ⟨4, 2⟩ ∧ s.page ⟨4, 2⟩ = some (s.entry 4) ∧ s.scanTaker ⟨4, 2⟩ = none) ∧
      (let s := waits [⟨.scan, 1, .write ⟨4, 2⟩ (octets 256) (some (finalReq .scanTarget))⟩]
        (lastSegment (onScan { scanning .scanning with ending := some .length }
          (lab.setEntry 4 { lab.entry 4 with committed := 16 })))
       s.store.pick = some ⟨.scan, 1, .write ⟨4, 2⟩ (octets 256) (some (finalReq .scanTarget))⟩ ∧
        s.scan.ending = some .length ∧ (finalReq .scanTarget).hold = .scanTarget ∧ s.freeCount ≤ s.cfg.receptionReserve ∧
        s.scanTaker ⟨4, 2⟩ = none ∧ (s.entry 6).state = .free ∧ ∀ k, k < 6 → (s.entry k).state ≠ .free) ∧
      (let s := waits [⟨.lc 0, 3, .write ⟨5, 3⟩ (octets 256) (some (finalReq .reference))⟩]
        (atLimit 5 (receivingLab (receiver .postPage)))
       s.store.pick = some ⟨.lc 0, 3, .write ⟨5, 3⟩ (octets 256) (some (finalReq .reference))⟩ ∧
        2048 ≤ (s.entry 5).chain.length ∧ 16 * (s.entry 5).chain.length ≤ (s.entry 5).committed ∧
        (s.line 0).call = some (aCall none (some ⟨1, 4⟩)) ∧ s.inDoc ⟨1, 4⟩ = some (s.recept.docs.get 1) ∧
        (s.recept.docs.get 1).inPage = some ⟨5, 3⟩ ∧ s.page ⟨5, 3⟩ = some (s.entry 5) ∧
        s.engine.state ≠ .waitPage ∧ s.recept.entryCounter < 65536) := by decide +kernel

/-- No page of the lab but page 4 has the scan unit for its writer. -/
theorem test_witness_one_scan_page : ∀ k, k ≠ 4 → (lab.entry k).writer ≠ some .scan := by
  intro k hk
  rcases k with _ | _ | _ | _ | _ | _ | k
  all_goals first
    | exact absurd rfl hk
    | decide +kernel
    | simp [lab, State.entry, Table.get, cellGet, PageEntry.freeWith]

/-- The last page of a document struck with auto-discard on; and lines struck before the decode has ended. -/
theorem test_witness_discard_and_decode :
    (let s := { pageOver [⟨2, 63⟩, ⟨0, 5⟩] .complete with cfg := { lab.cfg with autoDiscard := true } }
     let s := onEngine { s.engine with index := 1 } s
     s.engine.entry = some 9 ∧ s.recept.entryNumbered 9 = some ⟨9, .document ⟨1, 4⟩, false, true⟩ ∧
      s.recept.waitList = [] ∧ s.page ⟨0, 5⟩ = some (s.entry 0) ∧ (s.recept.docs.get 1).pages.length = s.engine.index + 1 ∧
      (s.recept.docs.get 1).state ≠ .receiving ∧ s.engine.ring.length = 1 ∧
      1 < (s.entry 0).refs) ∧
      (let e := { printing .fine (List.replicate 16 lineX) false with
        decoder := { Decoder.reset with asked := 1, delivered := 1, stream := [0xC3] } }
       e.entry = some 9 ∧ e.page = some ⟨0, 5⟩ ∧ e.stopped = false ∧ e.cutFeed = false ∧ e.decoder.ended = false ∧
        e.ring[0]? = some lineX ∧ (decodeOn 300 { e with ring := e.ring.drop 1 }).decoder.ended = false) ∧
      (let e := { printing .extra (List.replicate 16 lineX) false with
        decoder := { Decoder.reset with asked := 3, delivered := 3, stream := [0xCF], decoded := 600 } }
       (decodeOn 700 { e with ring := e.ring.drop 2 }).decoder.ended = true ∧
        (decodeOn 700 { e with ring := e.ring.drop 2 }).ring ≠ []) ∧
      (printing .extra [lineX] false).ring = [lineX] := by decide +kernel

/-- Line 0 of the lab as its last block write completes while a repeat of the BLOCK_END arrives. -/
def repeatArrives (detector : Detector) : State :=
  let x := { receiver .receiving with
    recv := { ReceiveSide.reset with toWrite := [octets 256] }
    proc := { Procedure.reset with storing := true, incoming := true } }
  completing (.lc 0) ⟨5, 3⟩ none false
    (receivingLab { x with params := { x.params with detector, trained := true } })

/-- R96, R116: the RESEND waits for the repeat's end, by its closing sequence or by a carrier lost with the detector
DISARMED, and the detector goes on watching until then. -/
theorem test_answer_waits_for_repeat :
    let step (i : Instr) (s : State) : State := match exec i s with | .next t => t | _ => s
    let s := step (.blockWriteCommit false) (repeatArrives .armed)
    let y := (step (.carrierAbsent 0) s).line 0
    let z := (step (.blockEndReceived 0 0 0 0 1 none) (step (.carrierReturn 0) (step (.carrierAbsent 0) s))).line 0
    (s.line 0).params.detector = .armed ∧ (s.line 0).proc.incoming = true ∧ (s.line 0).proc.tx = .quiet ∧
      (s.line 0).params.block = 1 ∧ y.params.detector = .counting ∧ y.proc.tx = .quiet ∧
      z.proc.tx = .ready (.msg (.resend (marksOctets []))) ∧ z.params.detector = .disarmed ∧ z.proc.storing = false ∧
      ((step (.carrierLossExpiry 0) (step (.carrierAbsent 0) s)).line 0).lastCause = some .lineDrop ∧
      ((step (.carrierAbsent 0) (step (.blockWriteCommit false) (repeatArrives .disarmed))).line 0).proc.tx =
        .ready (.msg (.resend (marksOctets []))) := by decide +kernel

theorem test_witness_answer_held :
    let s := repeatArrives .armed
    (s.line 0).recv.toWrite = octets 256 :: [] ∧ (s.line 0).proc.incoming = true ∧ (s.line 0).listening = true ∧
      s.page ⟨5, 3⟩ = some (s.entry 5) ∧ (s.entry 5).state = .opened := by decide +kernel

/-- The lab with the deadlines of documents 1 and 2 reached by a CLOCK-SET to the end of 2099. -/
def clockPasses (releasePages : Bool) : State :=
  let ends (d : Doc) : Doc := { d with deadline := some ⟨2025, 1, 1, 0, 0, 0, 0⟩, releasePages }
  (lab.setDoc 1 (ends (aDoc .queued [⟨0, 5⟩] [1]))).setDoc 2 (ends (aDoc .active [⟨0, 5⟩] [2, 0]))

/-- R196: document 1, waiting, and document 2, one destination ON_LINE, are the ones due; no record stands in both lists. -/
theorem test_witness_clock_passes_deadlines :
    let s := clockPasses false
    takesIt ⟨0x58, 1, [99, 12, 31, 23, 59, 59, 9]⟩ s = true ∧ s.scan.state ≠ .held ∧
      (⟨2025, 1, 1, 0, 0, 0, 0⟩ : DateTime).tenths ≤ (timeOf 99 12 31 23 59 59 9).tenths ∧
      (∀ k, k < 64 → ((s.docs.docs.get k).state = .queued ∨ (s.docs.docs.get k).state = .active) → k = 1 ∨ k = 2) ∧
      (s.docs.docs.get 1).dests = [1] ∧ (s.docs.docs.get 2).dests = [2, 0] ∧ (s.docs.docs.get 1).releasePages = false ∧
      (s.docs.docs.get 2).deadline = some ⟨2025, 1, 1, 0, 0, 0, 0⟩ ∧
      s.countDests (s.docs.docs.get 2) (fun st => decide (st = .onLine)) ≠ 0 ∧
      s.countDests (s.docs.docs.get 1) (fun st => decide (st = .onLine)) = 0 ∧ 3 ∉ (s.docs.docs.get 2).dests ∧
      ((clockPasses true).docs.docs.get 1).releasePages = true := by decide +kernel

/-- R63, R196: the waiting destination expires and its document is DONE; the one ON_LINE and its document go on. -/
theorem test_clock_passes_deadlines :
    let t := match exec (.clockSet 1 [99, 12, 31, 23, 59, 59, 9]) (asked ⟨0x58, 1, [99, 12, 31, 23, 59, 59, 9]⟩ (clockPasses false)) with
      | .next t => t
      | _ => lab
    (t.dest 1).map (·.state) = some .expired ∧ (t.docs.docs.get 1).state = .done ∧ (t.docs.docs.get 1).expired = 1 ∧
      (t.dest 2).map (·.state) = some .onLine ∧ (t.docs.docs.get 2).state = .active := by decide +kernel

/-- A print decoder before these octets, of a page of `left` more, with a line begun and a previous line or none. -/
def decodingAt (code : List Byte) (line : Option (DotLine × Bool)) (previous : Option DotLine) (lines : Nat) : Engine :=
  { Engine.reset with decoder := { Decoder.reset with stream := code, decoded := 10, line, previous, lines } }

/-- Each kind of token that the statement of R141 speaks of, the page's octets ending at 10, 11 or 12. -/
theorem test_witness_tokens :
    let begun := some (List.replicate 1700 false, true)
    ((decodingAt [] begun none 6911).decoder.ended = false ∧ (decodingAt [] begun none 6911).decoder.owed = none ∧
        (decodingAt [] begun none 6911).decoder.lines < 6912) ∧
      (10 - (decodingAt [] begun none 0).decoder.decoded = 0 ∧ 1 ≤ 11 - (decodingAt [0xCF] none none 0).decoder.decoded ∧
        2 ≤ 12 - (decodingAt [0xC2, 5] none none 0).decoder.decoded) ∧
      ((27 : Byte) < 0x80 ∧ 1700 + 27 < 1728 ∧ 1700 + 28 = 1728 ∧ 1728 < 1700 + 29 ∧ (0x80 : Byte) ≤ 0x86 ∧
        (0x86 : Byte) < 0xC0 ∧ ((0x86 : Byte).toNat - 128) * 256 + (0xC0 : Byte).toNat = 1728) ∧
      ((decodingAt [] begun none 0).decoder.line.isSome = true ∧ (decodingAt [] none none 0).decoder.line.isSome = false ∧
        (5 : Byte) ≠ 0 ∧ (decodingAt [0xC1] none (some whiteLine) 0).decoder.previous = some whiteLine ∧
        (decodingAt [0xC1] none none 0).decoder.previous = none) ∧
      ((0xC4 : Byte) ≤ 0xCE ∧ (0xD0 : Byte) ≤ 0xFF ∧ (0x80 : Byte) ≤ 0xBF ∧ (0xBF : Byte) < 0xC0) := by decide +kernel

/-- R54: with line 3 alone able to answer line 2 is free for a reserve of 1 and not of 2, and of 255 records with one call in
progress not at all. -/
theorem test_line_free :
    let r : LogRecord := ⟨0, 0, none, [], none, timeZero, none, timeZero, 0, 0, none, 0, 0, .normal, 0, .none⟩
    ({ oneFree with cfg := { oneFree.cfg with inboundReserve := 1 } } : State).freeForOutbound 2 = true ∧
      ({ oneFree with log := { oneFree.log with records := List.replicate 255 r } } : State).freeForOutbound 2 = false ∧
      ({ oneFree with cfg := { oneFree.cfg with inboundReserve := 2 } } : State).freeForOutbound 2 = false := by decide +kernel

/-- The lab receiving the first block of a page: the pages that its document lists, and the block's parts. -/
def firstBlock (pages : List PageHandle) (parts : List (Nat × Nat × List Byte)) : State :=
  onLine 0 { receiver .receiving with recv := { ReceiveSide.reset with parts } }
    ((lab.setInDoc 1 (anIn .receiving .notQueued pages)).setEntry 5 (aPage .closed 3 none [5] 256 1 0))

/-- R108, R109, R124: a page to open in slot 6, a block of frames or of the short last frame alone, a directory taken, and
255 pages listed. -/
theorem test_witness_first_block :
    (let s := firstBlock [⟨0, 5⟩] wholeFrame
     s.power = true ∧ s.scan.state ≠ .held ∧ (s.line 0).listening = true ∧ (s.line 0).state = .receiving ∧
      (s.line 0).recv.finalDone = false ∧ (s.line 0).recv.nextRound = 0 ∧ (s.line 0).recv.holds 0 3 = true ∧
      (s.line 0).call = some (aCall none (some ⟨1, 4⟩)) ∧ s.inDoc ⟨1, 4⟩ = some (s.recept.docs.get 1) ∧
      (s.recept.docs.get 1).inPage = none ∧ (s.recept.docs.get 1).pages.length < 255 ∧
      Client.holdsOpen s (.lc 0) = false ∧ (s.entry 6).state = .free ∧ (∀ k, k < 6 → (s.entry k).state ≠ .free) ∧
      s.freeCount ≠ 0) ∧
      ((firstBlock [] wholeFrame).inDoc ⟨1, 4⟩).map InDoc.inPage = some none ∧
      255 ≤ ((firstBlock (List.replicate 255 ⟨0, 5⟩) wholeFrame).recept.docs.get 1).pages.length ∧
      (let s := firstBlock [] wholeFrame
       let full := { s with store := { s.store with dir := .all (aPage .closed 0 none [] 0 1 0) } }
       full.inDoc ⟨1, 4⟩ = some (full.recept.docs.get 1) ∧ ∀ k, k < 1024 → (full.entry k).state ≠ .free) := by
  refine ⟨by decide +kernel, by decide +kernel, by decide +kernel, by decide +kernel, fun k _ => ?_⟩
  show (cellGet (aPage .closed 0 none [] 0 1 0) [] k).state ≠ .free
  simp [cellGet, aPage]

/-- R108, R109: a block of a frame and the short last one opens page 6, asks for its one write and keeps the rest aside; the
short last frame alone is answered at once; with the pool empty the page opened is closed TRUNCATED and listed; with 255
pages listed none is opened. -/
theorem test_first_block :
    let run (count n : Nat) (s : State) : State := match exec (.blockEndReceived 0 0 0 0 count (some n)) s with
      | .next t => t
      | _ => lab
    let two := wholeFrame ++ (List.range 4).map fun p => (1, p, octets 64)
    let t := run 2 100 (firstBlock [] two)
    let u := run 1 100 (firstBlock [] wholeFrame)
    let s := firstBlock [] two
    let v := run 2 100 { s with store := { s.store with pool := ⟨8192, []⟩ } }
    let w := run 2 100 (firstBlock (List.replicate 255 ⟨0, 5⟩) two)
    (t.entry 6).state = .opened ∧ t.store.waiting.length = 1 ∧ (t.line 0).recv.short.length = 100 ∧
      (t.line 0).proc.storing = true ∧ (u.entry 6).state = .opened ∧ u.store.waiting = [] ∧
      (u.line 0).proc.tx = .ready (.msg (.resend (marksOctets []))) ∧
      (v.entry 6).state = .closed ∧ (v.entry 6).truncated = true ∧ (v.recept.docs.get 1).pages = [⟨6, 0⟩] ∧
      (v.line 0).call.map CallRec.cause = some (some (.storeFull .segments)) ∧
      (w.entry 6).state = .free ∧ (w.line 0).call.map CallRec.cause = some (some (.storeFull .pages)) := by decide +kernel

/-- The receiver of the lab after its RESEND for round 0, its BLOCK_END the message last acted on. -/
def answered : Line :=
  { receiver .receiving with
    recv := { ReceiveSide.reset with answered := some 0 }
    proc := { Procedure.reset with
      lastIn := some (.msg (.blockEnd 0 0 0 1 none)), lastOut := some (.msg (.resend (marksOctets [0]))) } }

/-- R95, R97: a BLOCK_END heard again; a message of the wrong side or state, out of range, while an answer waits, or a QUIT
before anything was sent; a burst at a sender. -/
theorem test_witness_repeats :
    (answered.listening = true ∧ ¬answered.awaits (.blockEnd 0 0 0 1 none) ∧ answered.proc.storing = false ∧
        Msg.blockEnd 0 0 0 1 none ≠ .quit ∧ answered.proc.lastIn = some (.msg (.blockEnd 0 0 0 1 none)) ∧
        answered.proc.lastOut = some (.msg (.resend (marksOctets [0])))) ∧
      (¬answered.awaits .pageGood ∧ answered.proc.lastIn ≠ some (.msg .pageGood) ∧ Msg.inRange (.resend [1]) = false) ∧
      (sender .negotiating).proc.lastOut = none ∧ ¬(sender .negotiating).awaits .quit ∧
      (sender .sending).listening = true ∧ (sender .sending).role ≠ some .receiver ∧
      ({ answered with proc := { answered.proc with storing := true } } : Line).proc.storing = true ∧
      Line.reset.listening = false := by
  refine ⟨⟨by decide, fun h => absurd h.2.2.2.1 (by decide), by decide⟩, ⟨fun h => absurd h.1 (by decide), by decide⟩,
    by decide, fun h => absurd (h (by decide)) (by decide), by decide⟩

end Sys2Proof.Tests
end

section
/-! SUPPORT. From samples to dots (R28 to R31): the sample a dot takes, the rounding of its density value, the carry along
a HALFTONE line, and the statement on a whole line. -/

namespace Sys2Proof.Machine

/-! ### The density values of a line (R28, R29) -/

theorem roundDensity_floor_spec (p : Int) :
    64 * roundDensity .floor p ≤ p ∧ p < 64 * roundDensity .floor p + 64 := by
  simp only [roundDensity]; omega

theorem roundDensity_nearestEven_spec (p : Int) :
    let q := roundDensity .nearestEven p
    p - 32 ≤ 64 * q ∧ 64 * q ≤ p + 32 ∧ (64 * q = p - 32 ∨ 64 * q = p + 32 → q % 2 = 0) := by
  simp only [roundDensity]
  split_ifs with below above even <;> omega

/-- The density value of dot `j` before its clamp, by the settings (R28, R29). -/
def rawDensityAt (c : ScanSettings) (samples : List Byte) (j : Nat) : Int :=
  rawDensity c (samples.getD (32 * j / 27) 0).toNat

theorem clips_iff (c : ScanSettings) (g : Nat) : clips c g = true ↔ rawDensity c g < 0 ∨ 255 < rawDensity c g := by
  simp [clips]

theorem greyValues_eq (samples : List Byte) :
    greyValues samples = (List.range 1728).map fun j => (samples.getD (32 * j / 27) 0).toNat := by
  simp only [greyValues, sampleOf, Nat.mul_comm, List.getD_eq_getElem?_getD]

/-- The clamped density values of the dots of a line (R29). -/
def densities (c : ScanSettings) (samples : List Byte) : List Int := (greyValues samples).map (density c)

@[simp] theorem densities_length (c : ScanSettings) (samples : List Byte) : (densities c samples).length = 1728 := by
  rw [densities, greyValues, List.length_map, List.length_map, List.length_range]

theorem densities_getElem (c : ScanSettings) (samples : List Byte) {j : Nat} (hj : j < (densities c samples).length) :
    (densities c samples)[j] = max 0 (min 255 (rawDensityAt c samples j)) := by
  simp only [densities, greyValues_eq, List.getElem_map, List.getElem_range, density, rawDensityAt]

/-- Only the samples that dots take can make a line clip (R28, R29). -/
theorem lineClips_iff (c : ScanSettings) (samples : List Byte) :
    lineClips c samples = true ↔ ∃ j, j < 1728 ∧ (rawDensityAt c samples j < 0 ∨ 255 < rawDensityAt c samples j) := by
  simp only [lineClips, greyValues_eq, List.any_map, List.any_eq_true, List.mem_range, Function.comp_apply, clips_iff,
    rawDensityAt]

/-! ### The carry along a HALFTONE line (R31) -/

/-- The carry that a dot of sum `w` hands to the next one. -/
def carryOf (w : Int) : Int := max (-255) (min 255 (if w < 128 then w else w - 255))

/-- The carry after the dots of density values `vs`, from the carry `e`. -/
def carryAfter (e : Int) (vs : List Int) : Int := vs.foldl (fun e v => carryOf (v + e)) e

theorem carryAfter_take_succ (e : Int) (vs : List Int) {j : Nat} (hj : j < vs.length) :
    carryAfter e (vs.take (j + 1)) = carryOf (vs[j] + carryAfter e (vs.take j)) := by
  rw [List.take_succ_eq_append_getElem hj, carryAfter, List.foldl_append]; rfl

theorem halftoneDots_cons (e v : Int) (vs : List Int) :
    halftoneDots e (v :: vs) = decide (v + e < 128) :: halftoneDots (carryOf (v + e)) vs := by
  by_cases black : v + e < 128 <;> simp [halftoneDots, carryOf, black]

@[simp] theorem halftoneDots_length (e : Int) (vs : List Int) : (halftoneDots e vs).length = vs.length := by
  induction vs generalizing e with
  | nil => rfl
  | cons v vs ih => simp [halftoneDots_cons, ih]

/-- Each dot of a HALFTONE line is decided by its density value and the carry of the dots before it. -/
theorem halftoneDots_getElem? (e : Int) (vs : List Int) {j : Nat} (hj : j < vs.length) :
    (halftoneDots e vs)[j]? = some (decide (vs[j] + carryAfter e (vs.take j) < 128)) := by
  induction vs generalizing e j with
  | nil => simp at hj
  | cons v vs ih =>
    rw [halftoneDots_cons]
    cases j with
    | zero => rfl
    | succ j => exact ih (carryOf (v + e)) (Nat.lt_of_succ_lt_succ hj)

/-! ### The dots of a line (R30, R31) -/

theorem reduceLine_text {c : ScanSettings} (h : c.mode = .text) (samples : List Byte) :
    reduceLine c samples = textDots c.threshold (densities c samples) := by
  simp only [reduceLine, h, densities]

theorem reduceLine_halftone {c : ScanSettings} (h : c.mode = .halftone) (samples : List Byte) :
    reduceLine c samples = halftoneDots 0 (densities c samples) := by
  simp only [reduceLine, h, densities]

theorem reduceLine_length (c : ScanSettings) (samples : List Byte) : (reduceLine c samples).length = 1728 := by
  cases h : c.mode with
  | text => rw [reduceLine_text h, textDots, List.length_map, densities_length]
  | halftone => rw [reduceLine_halftone h, halftoneDots_length, densities_length]

/-- Settles O24: `v` is the density value before its clamp, `e` the carry of the dots before. -/
theorem dotsFromSamples : Obligations.DotsFromSamples := by
  intro c samples _
  refine ⟨rawDensityAt c samples, fun j => carryAfter 0 ((densities c samples).take j), fun j _ => ⟨?_, ?_⟩,
    lineClips_iff c samples, reduceLine_length c samples, fun text j hj => ?_, fun halftone => ⟨rfl, fun j hj => ?_⟩⟩
  · intro rounding
    rw [rawDensityAt, rawDensity, rounding]
    exact roundDensity_floor_spec _
  · intro rounding
    rw [rawDensityAt, rawDensity, rounding]
    exact roundDensity_nearestEven_spec _
  · have inLine : j < (densities c samples).length := by rwa [densities_length]
    rw [reduceLine_text text, textDots, List.getElem?_map, List.getElem?_eq_getElem inLine, densities_getElem]; rfl
  · have inLine : j < (densities c samples).length := by rwa [densities_length]
    rw [reduceLine_halftone halftone, ← densities_getElem c samples inLine]
    exact ⟨halftoneDots_getElem? 0 _ inLine, carryAfter_take_succ 0 _ inLine⟩

end Sys2Proof.Machine
end

section
/-! SUPPORT. The charge of a connected OUT call (R165, R167 to R172): its duration, the cut points and the pieces between
them, the rounding, the cap of the units, and the statement on the figures as a whole. -/

namespace Sys2Proof.Machine

/-! ### The duration (R167) -/

theorem callDuration_fst (connect release : DateTime) :
    (callDuration connect release).1 =
      if release.tenths < connect.tenths then 0 else min 864000 (release.tenths - connect.tenths) := by
  simp only [callDuration]
  split_ifs with back long
  · rfl
  · exact (min_eq_left long.le).symm
  · exact (min_eq_right (not_lt.mp long)).symm

theorem callDuration_fst_le (connect release : DateTime) : (callDuration connect release).1 ≤ 864000 := by
  rw [callDuration_fst]
  split_ifs
  · exact Nat.zero_le _
  · exact min_le_left _ _

theorem callDuration_snd (connect release : DateTime) :
    (callDuration connect release).2 = { LogFlags.none with
      clockStep := decide (release.tenths < connect.tenths),
      long := decide (connect.tenths + 864000 < release.tenths) } := by
  simp only [callDuration]
  split_ifs with back long
  · simp [back, LogFlags.none]; omega
  · simp [back, LogFlags.none]; omega
  · simp [back, LogFlags.none]; omega

/-! ### The cut points (R168) -/

@[simp] theorem mem_insertOnce {a x : Nat} {l : List Nat} : a ∈ insertOnce x l ↔ a = x ∨ a ∈ l := by
  induction l with
  | nil => simp [insertOnce]
  | cons y ys ih =>
    simp only [insertOnce]
    split_ifs with same before
    · simp [same]
    · simp
    · simp only [List.mem_cons, ih]; tauto

theorem insertOnce_pairwise {x : Nat} {l : List Nat} (sorted : l.Pairwise (· < ·)) :
    (insertOnce x l).Pairwise (· < ·) := by
  induction l with
  | nil => simp [insertOnce]
  | cons y ys ih =>
    obtain ⟨above, rest⟩ := List.pairwise_cons.mp sorted
    simp only [insertOnce]
    split_ifs with same before
    · exact sorted
    · refine List.pairwise_cons.mpr ⟨fun b hb => ?_, sorted⟩
      rcases List.mem_cons.mp hb with rfl | later
      · exact before
      · exact before.trans (above b later)
    · refine List.pairwise_cons.mpr ⟨fun b hb => ?_, ih rest⟩
      rcases mem_insertOnce.mp hb with rfl | later
      · omega
      · exact above b later

theorem mem_foldr_insertOnce {a : Nat} {l : List Nat} : a ∈ l.foldr insertOnce [] ↔ a ∈ l := by
  induction l with
  | nil => rfl
  | cons x xs ih => rw [List.foldr_cons, mem_insertOnce, ih, List.mem_cons]

theorem foldr_insertOnce_pairwise (l : List Nat) : (l.foldr insertOnce []).Pairwise (· < ·) := by
  induction l with
  | nil => exact .nil
  | cons x xs ih => exact insertOnce_pairwise ih

/-- An instant at which connected time is cut: a midnight, or a band start of its date (R168). -/
def IsCutInstant (c : Charging) (x : Nat) : Prop :=
  x % 864000 = 0 ∨ ∃ st ∈ c.schedule (dayType c (dateOfDays (x / 864000))), x % 864000 = 600 * st.1

/-- With every start inside its day (R160), the instants of a day are its cut instants. -/
theorem mem_dayInstants {c : Charging} (inDay : ∀ day, ∀ st ∈ c.schedule day, st.1 ≤ 1439) {x day : Nat} :
    x ∈ dayInstants c day ↔ x / 864000 = day ∧ IsCutInstant c x := by
  simp only [dayInstants, List.mem_cons, List.mem_map, IsCutInstant]
  constructor
  · rintro (rfl | ⟨st, hst, rfl⟩)
    · exact ⟨by omega, .inl (by omega)⟩
    · have early := inDay _ st hst
      have sameDay : (day * 864000 + st.1 * 600) / 864000 = day := by omega
      exact ⟨sameDay, .inr ⟨st, by rwa [sameDay], by omega⟩⟩
  · rintro ⟨rfl, midnight | ⟨st, hst, start⟩⟩
    · exact .inl (by omega)
    · exact .inr ⟨st, hst, by omega⟩

/-- An interval of at most 24 hours reaches no day past the next, so its cut points are all the cut instants strictly
inside it. -/
theorem mem_cutPoints {c : Charging} (inDay : ∀ day, ∀ st ∈ c.schedule day, st.1 ≤ 1439) {start stop x : Nat}
    (oneDay : stop ≤ start + 864000) :
    x ∈ cutPoints c start stop ↔ start < x ∧ x < stop ∧ IsCutInstant c x := by
  simp only [cutPoints, mem_foldr_insertOnce, List.mem_filter, List.mem_append, mem_dayInstants inDay,
    Bool.and_eq_true, decide_eq_true_eq]
  constructor
  · rintro ⟨⟨-, cut⟩ | ⟨-, cut⟩, after, before⟩ <;> exact ⟨after, before, cut⟩
  · rintro ⟨after, before, cut⟩
    have day : x / 864000 = start / 864000 ∨ x / 864000 = start / 864000 + 1 := by omega
    exact ⟨day.imp (⟨·, cut⟩) (⟨·, cut⟩), after, before⟩

theorem cutPoints_pairwise (c : Charging) (start stop : Nat) : (cutPoints c start stop).Pairwise (· < ·) :=
  foldr_insertOnce_pairwise _

theorem cutPoints_self (c : Charging) (start : Nat) : cutPoints c start start = [] := by
  refine List.eq_nil_iff_forall_not_mem.mpr fun x hx => ?_
  simp only [cutPoints, mem_foldr_insertOnce, List.mem_filter, Bool.and_eq_true, decide_eq_true_eq] at hx
  omega

/-! ### The pieces and their charge (R168, R169) -/

theorem piecesFrom_eq_zipWith (start stop : Nat) (cuts : List Nat) :
    piecesFrom start cuts stop = List.zipWith (fun a b => (a, b - a)) (start :: cuts) (cuts ++ [stop]) := by
  induction cuts generalizing start with
  | nil => rfl
  | cons x xs ih => rw [piecesFrom, ih]; rfl

/-- A call of duration 0 has no piece (R168), and one piece of 0 tenths would charge the same. -/
theorem piecesCharge_callPieces (c : Charging) (rates : List Rate) (connect : DateTime) (duration : Nat) :
    piecesCharge c rates (callPieces c connect duration) =
      piecesCharge c rates (piecesFrom connect.tenths
        (cutPoints c connect.tenths (connect.tenths + duration)) (connect.tenths + duration)) := by
  by_cases zero : duration = 0
  · subst zero
    rw [Nat.add_zero, cutPoints_self]
    simp [callPieces, piecesFrom, piecesCharge, pieceCharge]
  · rw [callPieces, if_neg zero]

/-! ### The units (R170 to R172) -/

theorem roundUnits_up_spec (sum : Nat) :
    sum ≤ 256 * roundUnits .up sum ∧ 256 * roundUnits .up sum < sum + 256 := by
  simp only [roundUnits]
  split_ifs <;> omega

theorem roundUnits_nearestEven_spec (sum : Nat) :
    let units := roundUnits .nearestEven sum
    sum ≤ 256 * units + 128 ∧ 256 * units ≤ sum + 128 ∧ (sum % 256 = 128 → units % 2 = 0) := by
  simp only [roundUnits]
  split_ifs with below above even <;> omega

theorem computedUnits_eq (ch : ChargeState) (setup rounded : Nat) :
    computedUnits ch setup rounded =
      (min 65535 (max ch.minimum (setup + rounded)), decide (65535 < max ch.minimum (setup + rounded))) := by
  simp only [computedUnits]
  split_ifs with above
  · rw [min_eq_left above.le, decide_eq_true above]
  · rw [min_eq_right (not_lt.mp above), decide_eq_false above]

theorem unitsMismatch_iff (metered computed tolerance : Nat) :
    unitsMismatch metered computed tolerance = true ↔
      tolerance + computed < metered ∨ tolerance + metered < computed := by
  simp only [unitsMismatch, Bool.or_eq_true, decide_eq_true_eq]
  omega

/-! ### The figures (R167 to R173) -/

/-- The rounded units of a connected call (R170). -/
def roundedUnits (c : Charging) (ch : ChargeState) (connect release : DateTime) : Nat :=
  roundUnits ch.rounding (piecesCharge c ch.rates (callPieces c connect (callDuration connect release).1))

/-- The units of a connected call before the cap of 65535: the setup units of the band at connect and the rounded units,
raised to the minimum (R171). -/
def uncappedUnits (c : Charging) (ch : ChargeState) (connect release : DateTime) : Nat :=
  max ch.minimum ((rateAt ch.rates (bandAt c connect)).setup + roundedUnits c ch connect release)

section
variable (c : Charging) (tolerance : Nat) {ch : ChargeState} (connect release : DateTime)

theorem outFigures_unmetered (h : ch.metered = false) :
    outFigures c tolerance ch connect release =
      { duration := (callDuration connect release).1,
        computed := min 65535 (uncappedUnits c ch connect release), metered := none,
        units := min 65535 (uncappedUnits c ch connect release),
        cost := min 65535 (uncappedUnits c ch connect release) * ch.price,
        flags := { (callDuration connect release).2 with
          unitsSat := decide (65535 < uncappedUnits c ch connect release) } } := by
  simp only [outFigures, computedUnits_eq, h, Bool.false_eq_true, if_false]; rfl

theorem outFigures_metered (h : ch.metered = true) :
    let n := if ch.saturated then 65535 else ch.pulses
    outFigures c tolerance ch connect release =
      { duration := (callDuration connect release).1,
        computed := min 65535 (uncappedUnits c ch connect release), metered := some n, units := n,
        cost := n * ch.price,
        flags := { (callDuration connect release).2 with
          mismatch := unitsMismatch n (min 65535 (uncappedUnits c ch connect release)) tolerance,
          unitsSat := decide (65535 < uncappedUnits c ch connect release) || ch.saturated } } := by
  simp only [outFigures, computedUnits_eq, h, if_true]; rfl

/-- What is the same on a metered line and on one without metering. -/
theorem outFigures_common :
    let f := outFigures c tolerance ch connect release
    f.duration = (callDuration connect release).1 ∧ f.computed = min 65535 (uncappedUnits c ch connect release) ∧
      f.flags.clockStep = (callDuration connect release).2.clockStep ∧
      f.flags.long = (callDuration connect release).2.long := by
  cases h : ch.metered with
  | false => rw [outFigures_unmetered c tolerance connect release h]; exact ⟨rfl, rfl, rfl, rfl⟩
  | true => rw [outFigures_metered c tolerance connect release h]; exact ⟨rfl, rfl, rfl, rfl⟩

end

/-! ### Metering pulses (R165) -/

theorem ChargeState.pulse_ignored {c : ChargeState} (h : c.captured = false ∨ c.metered = false) : c.pulse = c := by
  rcases h with h | h <;> simp [ChargeState.pulse, h]

theorem ChargeState.pulse_counted {c : ChargeState} (captured : c.captured = true) (metered : c.metered = true) :
    c.pulse = { c with
      pulses := if c.pulses < 65535 then c.pulses + 1 else c.pulses,
      saturated := c.saturated || decide (65535 ≤ c.pulses) } := by
  by_cases room : c.pulses < 65535
  · simp [ChargeState.pulse, captured, metered, room, not_le.mpr room]
  · simp [ChargeState.pulse, captured, metered, room, not_lt.mp room]

theorem exec_meteringPulse (l : LineNo) {s : State} (on : s.power = true) :
    exec (.meteringPulse l) s =
      .next (s.setLine l { s.line l with charging := (s.line l).charging.pulse }) := by
  have charged : exec (.meteringPulse l) s = .next (whenOn (fun s => s.modLine l fun x =>
      { x with charging := x.charging.pulse }) s) := rfl
  rw [charged, whenOn_on on]; rfl

/-- Settles O56: the cuts are the model's cut points, the units its rounded units. -/
theorem connectedCallCharged : Obligations.ConnectedCallCharged := by
  refine ⟨fun c tolerance ch connect release inDay => ?_, fun l s on => ⟨fun ignored => ?_, fun captured metered => ?_⟩⟩
  · intro D stop f setup
    have duration : (callDuration connect release).1 = D := callDuration_fst connect release
    have oneDay : stop ≤ connect.tenths + 864000 :=
      Nat.add_le_add_left (duration ▸ callDuration_fst_le connect release) _
    obtain ⟨fDuration, fComputed, fStep, fLong⟩ := outFigures_common c tolerance (ch := ch) connect release
    refine ⟨cutPoints c connect.tenths stop, roundedUnits c ch connect release, cutPoints_pairwise c _ _,
      fun x => mem_cutPoints inDay oneDay, ?rounding, fDuration.trans duration, fComputed, ?clockStep, ?long,
      fun unmetered => ?unmetered, fun metered counted => ?counted, fun metered saturated => ?saturated⟩
    case rounding =>
      intro pieces sum
      have rounded : roundedUnits c ch connect release = roundUnits ch.rounding sum := by
        rw [roundedUnits, duration, piecesCharge_callPieces, piecesFrom_eq_zipWith]; rfl
      rw [rounded]
      exact ⟨fun up => up ▸ roundUnits_up_spec sum, fun even => even ▸ roundUnits_nearestEven_spec sum⟩
    case clockStep => rw [fStep, callDuration_snd, decide_eq_true_iff]
    case long => rw [fLong, callDuration_snd, decide_eq_true_iff]
    case unmetered =>
      rw [show f = _ from outFigures_unmetered c tolerance connect release unmetered, callDuration_snd]
      exact ⟨rfl, rfl, rfl, rfl, decide_eq_true_iff⟩
    case counted =>
      rw [show f = _ from outFigures_metered c tolerance connect release metered, counted]
      exact ⟨rfl, rfl, rfl, unitsMismatch_iff _ _ _⟩
    case saturated =>
      rw [show f = _ from outFigures_metered c tolerance connect release metered, saturated]
      exact ⟨rfl, rfl, Bool.or_true _⟩
  · rw [exec_meteringPulse l on, ChargeState.pulse_ignored ignored]
  · rw [exec_meteringPulse l on, ChargeState.pulse_counted captured metered]

end Sys2Proof.Machine
end

section
/-! SUPPORT. The notice queue (R209) and the three commands of the host link itself (R202, R207, R211): the rate codes,
what each command makes of its body, and the statement on them all. -/

namespace Sys2Proof.Machine

/-! ### Notices (R209) -/

/-- The three fates of a notice, by its level and by the room in the queue. -/
theorem raise_eq (kind : NoticeKind) (fields : List Byte) (s : State) :
    raise kind fields s =
      if kind.level < s.link.mask then s
      else if s.link.notices.length < 32 then
        { s with link := { s.link with
          notices := s.link.notices ++ [{ kind, time := s.tk.time, suspect := s.tk.suspect, fields }] } }
      else { s with link := { s.link with lost := min 255 (s.link.lost + 1) } } := by
  split_ifs with masked room
  · exact raise_masked masked
  · exact raise_room (not_lt.mp masked) room
  · exact raise_full (not_lt.mp masked) (not_lt.mp room)

/-! ### A kind that is no command kind (R207) -/

theorem exec_unknownKindCommand {kind tag : Byte} {body : List Byte} {s s₁ : State}
    (taken : s.takes ⟨kind, tag, body⟩ = some s₁) (unknown : isCommandKind kind = false) :
    exec (.unknownKindCommand kind tag body) s = .next (refuse 0xFE tag .unknownKind s₁) := by
  have row : exec (.unknownKindCommand kind tag body) s =
      .next (if isCommandKind kind then s else hostCommand kind tag body (refuse 0xFE tag .unknownKind) s) := rfl
  rw [row, unknown, if_neg Bool.false_ne_true, hostCommand_of_takes _ taken]

/-! ### NOTICE-MASK (R211) -/

theorem noticeMask_octet (m : Byte) (s : State) :
    noticeMask [m] s = .ok (s.modLink fun k => { k with mask := min 3 m.toNat },
      [oct (min 3 m.toNat), oct s.link.notices.length, oct s.link.lost]) := by
  have clamped : clamp 0 3 m.toNat = min 3 m.toNat := Nat.zero_max _
  simp [noticeMask, clamped, e8]

theorem noticeMask_badLength {body : List Byte} (other : body.length ≠ 1) (s : State) :
    noticeMask body s = .error .badLength := by
  match body, other with
  | [], _ | _ :: _ :: _, _ => rfl
  | [_], other => exact absurd rfl other

theorem exec_noticeMask_ok {tag : Byte} {body fields : List Byte} {s s₁ t : State}
    (taken : s.takes ⟨0x03, tag, body⟩ = some s₁) (done : noticeMask body s₁ = .ok (t, fields)) :
    exec (.noticeMask tag body) s = .next (reply 0x03 tag .ok fields t) :=
  congrArg Host.Outcome.next (command_ok taken done)

theorem exec_noticeMask_error {tag : Byte} {body : List Byte} {status : Status} {s s₁ : State}
    (taken : s.takes ⟨0x03, tag, body⟩ = some s₁) (refused : noticeMask body s₁ = .error status) :
    exec (.noticeMask tag body) s = .next (refuse 0x03 tag status s₁) :=
  congrArg Host.Outcome.next (command_error taken refused)

/-! ### LINK-RATE (R202) -/

theorem HostRate.code_lt (rate : HostRate) : rate.code.toNat < 4 := by cases rate <;> decide

theorem HostRate.exists_code {c : Byte} (named : c.toNat < 4) : ∃ rate : HostRate, rate.code = c := by
  obtain h | h | h | h : c.toNat = 0 ∨ c.toNat = 1 ∨ c.toNat = 2 ∨ c.toNat = 3 := by omega
  exacts [⟨.b115200, BitVec.eq_of_toNat_eq h.symm⟩, ⟨.b230400, BitVec.eq_of_toNat_eq h.symm⟩,
    ⟨.b460800, BitVec.eq_of_toNat_eq h.symm⟩, ⟨.b921600, BitVec.eq_of_toNat_eq h.symm⟩]

theorem hostRateOf_code (rate : HostRate) : hostRateOf rate.code = some rate := by cases rate <;> rfl

/-- An octet is read as a rate only where it is that rate's code. -/
theorem code_of_hostRateOf {c : Byte} {rate : HostRate} (read : hostRateOf c = some rate) : rate.code = c := by
  unfold hostRateOf at read
  split_ifs at read with h0 h1 h2 h3 <;> cases read <;> simp [HostRate.code, *]

theorem hostRateOf_unnamed {c : Byte} (unnamed : 4 ≤ c.toNat) : hostRateOf c = none := by
  refine Option.eq_none_iff_forall_ne_some.mpr fun rate read => ?_
  have named := rate.code_lt
  rw [code_of_hostRateOf read] at named
  omega

theorem linkRate_code (tag : Byte) (rate : HostRate) (s : State) :
    linkRate tag [rate.code] s = s.modLink fun k => { k with
      replies := k.replies ++ [{ frame := ⟨0x82, tag, [0, rate.code]⟩, newRate := some rate }] } := by
  simp only [linkRate, hostRateOf_code]; rfl

theorem linkRate_badField {c : Byte} (unnamed : 4 ≤ c.toNat) (tag : Byte) (s : State) :
    linkRate tag [c] s = refuse 0x02 tag .badField s := by
  simp only [linkRate, hostRateOf_unnamed unnamed]

theorem linkRate_badLength {body : List Byte} (other : body.length ≠ 1) (tag : Byte) (s : State) :
    linkRate tag body s = refuse 0x02 tag .badLength s := by
  match body, other with
  | [], _ | _ :: _ :: _, _ => rfl
  | [_], other => exact absurd rfl other

theorem exec_linkRate {tag : Byte} {body : List Byte} {s s₁ : State} (taken : s.takes ⟨0x02, tag, body⟩ = some s₁) :
    exec (.linkRate tag body) s = .next (linkRate tag body s₁) :=
  congrArg Host.Outcome.next (hostCommand_of_takes _ taken)

/-- Settles O10: each clause is what the command makes of its body, on the state that has taken it. -/
theorem noticesAndLinkCommands : Obligations.NoticesAndLinkCommands := by
  refine ⟨raise_eq, fun kind tag c body s s₁ => ⟨?unknownKind, ?mask, ?rate, ?unnamed, ?rateLength, ?maskLength⟩⟩
  case unknownKind => exact fun taken unknown => exec_unknownKindCommand taken unknown
  case mask => exact fun taken => exec_noticeMask_ok taken (noticeMask_octet c s₁)
  case rate =>
    intro taken named
    obtain ⟨rate, rfl⟩ := HostRate.exists_code named
    refine ⟨rate, rfl, ?_⟩
    rw [exec_linkRate taken, linkRate_code]; rfl
  case unnamed => exact fun taken unnamed => by rw [exec_linkRate taken, linkRate_badField unnamed]
  case rateLength => exact fun taken other => by rw [exec_linkRate taken, linkRate_badLength other]
  case maskLength => exact fun taken other => exec_noticeMask_error taken (noticeMask_badLength other s₁)

end Sys2Proof.Machine
end

section
/-! SUPPORT. The calendar of 2000-2099 (R191): a date and its day count, a time and its tenths, stand for each other; and what
a tick does. -/

namespace Sys2Proof.Machine

/-! ### Months and days of the year -/

theorem Date.valid_iff (d : Date) : d.valid = true ↔
    (2000 ≤ d.year ∧ d.year ≤ 2099) ∧ (1 ≤ d.month ∧ d.month ≤ 12) ∧ 1 ≤ d.day ∧ d.day ≤ monthDays d.year d.month := by
  simp only [Date.valid, Bool.and_eq_true, decide_eq_true_eq]; tauto

theorem DateTime.valid_iff (t : DateTime) : t.valid = true ↔
    t.date.valid = true ∧ t.hour ≤ 23 ∧ t.minute ≤ 59 ∧ t.second ≤ 59 ∧ t.tenth ≤ 9 := by
  simp only [DateTime.valid, Bool.and_eq_true, decide_eq_true_eq]; tauto

theorem daysBefore_succ (year : Nat) {m : Nat} (h : 1 ≤ m) :
    daysBefore year (m + 1) = daysBefore year m + monthDays year m := by
  obtain ⟨k, rfl⟩ : ∃ k, m = k + 1 := ⟨m - 1, by omega⟩
  rfl

theorem monthDays_pos (year month : Nat) : 28 ≤ monthDays year month := by
  unfold monthDays; split_ifs <;> omega

theorem daysBefore_le_succ (year m : Nat) : daysBefore year m ≤ daysBefore year (m + 1) := by
  match m with
  | 0 => exact Nat.le_refl 0
  | m + 1 => exact daysBefore_succ year (Nat.succ_pos m) ▸ Nat.le_add_right ..

theorem daysBefore_mono (year : Nat) : Monotone (daysBefore year) := monotone_nat_of_le_succ (daysBefore_le_succ year)

/-- The days of a year. -/
theorem daysBefore_13 (year : Nat) : daysBefore year 13 = if year % 4 = 0 then 366 else 365 := by
  by_cases h : year % 4 = 0 <;> simp [daysBefore, monthDays, leap, h]

/-- A day's month and day are found by taking the months off one after another. -/
theorem monthOf_spec (year : Nat) : ∀ fuel m d, 1 ≤ m → m + fuel = 12 → daysBefore year m + d < daysBefore year 13 →
    let r := monthOf year fuel m d
    (1 ≤ r.1 ∧ r.1 ≤ 12) ∧ (1 ≤ r.2 ∧ r.2 ≤ monthDays year r.1) ∧ daysBefore year r.1 + (r.2 - 1) = daysBefore year m + d
  | 0, m, d, low, full, inYear => by
    obtain rfl : m = 12 := by omega
    rw [daysBefore_succ year low] at inYear
    exact ⟨⟨low, by simp [monthOf]⟩, ⟨by simp [monthOf], by simp only [monthOf]; omega⟩, by simp [monthOf]⟩
  | fuel + 1, m, d, low, full, inYear => by
    simp only [monthOf]
    split_ifs with here
    · exact ⟨⟨low, by omega⟩, ⟨by omega, show d + 1 ≤ monthDays year m by omega⟩, rfl⟩
    · have next := daysBefore_succ year low
      obtain ⟨month, day, count⟩ := monthOf_spec year fuel (m + 1) (d - monthDays year m) (by omega) (by omega) (by omega)
      exact ⟨month, day, by omega⟩

/-- A valid date's day of the year, counted from 0, lies in the year. -/
theorem Date.dayOfYear_lt {d : Date} (valid : d.valid = true) :
    daysBefore d.year d.month + (d.day - 1) < if d.year % 4 = 0 then 366 else 365 := by
  obtain ⟨-, ⟨low, high⟩, first, last⟩ := d.valid_iff.mp valid
  have next := daysBefore_succ d.year low
  have top := daysBefore_mono d.year (show d.month + 1 ≤ 13 by omega)
  rw [daysBefore_13] at top
  omega

/-! ### A date and its day count -/

theorem Date.dayCount_lt {d : Date} (valid : d.valid = true) : d.dayCount < 36525 := by
  have inYear := Date.dayOfYear_lt valid
  obtain ⟨⟨early, late⟩, -, -⟩ := d.valid_iff.mp valid
  simp only [Date.dayCount]
  split_ifs at inYear <;> omega

theorem dateOfDays_spec {n : Nat} (h : n < 36525) : (dateOfDays n).valid = true ∧ (dateOfDays n).dayCount = n := by
  simp only [Date.valid_iff, Date.dayCount, dateOfDays]
  generalize hr : n % 1461 = rest
  generalize hy : (if rest < 366 then 0 else 1 + (rest - 366) / 365) = inCycle
  generalize hd : (if rest < 366 then rest else (rest - 366) % 365) = day
  have inYear : daysBefore (2000 + 4 * (n / 1461) + inCycle) 1 + day <
      daysBefore (2000 + 4 * (n / 1461) + inCycle) 13 := by
    rw [daysBefore_13]
    simp only [daysBefore]
    split_ifs at hy hd ⊢ <;> omega
  obtain ⟨month, dayIn, count⟩ := monthOf_spec _ 11 1 day (le_refl 1) rfl inYear
  refine ⟨⟨⟨by omega, by split_ifs at hy <;> omega⟩, month, dayIn⟩, ?_⟩
  rw [Nat.add_assoc, count]
  simp only [daysBefore]
  split_ifs at hy hd <;> omega

/-- Two valid dates of one day count are one date. -/
theorem Date.eq_of_dayCount {d e : Date} (hd : d.valid = true) (he : e.valid = true) (same : d.dayCount = e.dayCount) :
    d = e := by
  have dIn := Date.dayOfYear_lt hd
  have eIn := Date.dayOfYear_lt he
  obtain ⟨⟨dEarly, -⟩, ⟨dLow, -⟩, dFirst, dLast⟩ := d.valid_iff.mp hd
  obtain ⟨⟨eEarly, -⟩, ⟨eLow, -⟩, eFirst, eLast⟩ := e.valid_iff.mp he
  simp only [Date.dayCount] at same
  have year : d.year = e.year := by split_ifs at dIn eIn <;> omega
  obtain ⟨y, m, a⟩ := d
  obtain ⟨y', m', a'⟩ := e
  obtain rfl : y = y' := year
  simp only at *
  have dNext := daysBefore_succ y dLow
  have eNext := daysBefore_succ y eLow
  have month : m = m' := by
    rcases Nat.lt_trichotomy m m' with before | same | after
    · have := daysBefore_mono y (show m + 1 ≤ m' by omega); omega
    · exact same
    · have := daysBefore_mono y (show m' + 1 ≤ m by omega); omega
  subst month
  obtain rfl : a = a' := by omega
  rfl

theorem dateOfDays_dayCount {d : Date} (valid : d.valid = true) : dateOfDays d.dayCount = d := by
  obtain ⟨valid', count⟩ := dateOfDays_spec (Date.dayCount_lt valid)
  exact Date.eq_of_dayCount valid' valid count

/-! ### A time and its tenths -/

theorem timeOfTenths_date (n : Nat) : (timeOfTenths n).date = dateOfDays (n / 864000) := rfl

theorem timeOfTenths_spec {n : Nat} (h : n < 31557600000) :
    (timeOfTenths n).valid = true ∧ (timeOfTenths n).tenths = n := by
  obtain ⟨valid, count⟩ := dateOfDays_spec (n := n / 864000) (by omega)
  rw [DateTime.valid_iff, DateTime.tenths, timeOfTenths_date, count]
  refine ⟨⟨valid, ?_⟩, ?_⟩ <;> simp only [timeOfTenths] <;> omega

theorem DateTime.tenths_lt {t : DateTime} (valid : t.valid = true) : t.tenths < 31557600000 := by
  obtain ⟨date, hour, minute, second, tenth⟩ := t.valid_iff.mp valid
  have := Date.dayCount_lt date
  simp only [DateTime.tenths]; omega

theorem timeOfTenths_tenths {t : DateTime} (valid : t.valid = true) : timeOfTenths t.tenths = t := by
  obtain ⟨date, hour, minute, second, tenth⟩ := t.valid_iff.mp valid
  have days : t.tenths / 864000 = t.date.dayCount := by simp only [DateTime.tenths]; omega
  have same := dateOfDays_dayCount date
  obtain ⟨y, mo, d, h, mi, sec, te⟩ := t
  simp only [DateTime.date] at same hour minute second tenth days
  simp only [timeOfTenths, days, same, DateTime.mk.injEq, true_and]
  simp only [DateTime.tenths] at *
  omega

/-- Settles O15, by the months of a year taken off one after another and the day count's injectivity. -/
theorem calendarRoundTrip : Obligations.CalendarRoundTrip :=
  ⟨fun _ => dateOfDays_spec, fun _ => timeOfTenths_spec, fun _ valid => ⟨DateTime.tenths_lt valid, timeOfTenths_tenths valid⟩,
    by decide, by decide, by decide⟩

/-! ### A tick (R191) -/

/-- Short of the range's end a tick is one tenth on. -/
theorem DateTime.tick_spec {t : DateTime} (valid : t.valid = true) (short : t ≠ ⟨2099, 12, 31, 23, 59, 59, 9⟩) :
    t.tick.2 = false ∧ t.tick.1.valid = true ∧ t.tick.1.tenths = t.tenths + 1 := by
  obtain ⟨date, hour, minute, second, tenth⟩ := t.valid_iff.mp valid
  obtain ⟨⟨early, late⟩, ⟨low, high⟩, first, last⟩ := t.date.valid_iff.mp date
  obtain ⟨y, mo, d, h, mi, sec, te⟩ := t
  simp only [DateTime.date] at *
  have month := monthDays_pos y (mo + 1)
  have january := monthDays_pos (y + 1) 1
  have next := daysBefore_succ y low
  simp only [DateTime.tick]
  split_ifs with c1 c2 c3 c4 c5 c6 c7 <;>
    simp only [DateTime.valid_iff, Date.valid_iff, DateTime.date, DateTime.tenths, Date.dayCount, true_and]
  iterate 6 exact ⟨by omega, by omega⟩
  · obtain rfl : mo = 12 := by omega
    have none : daysBefore (y + 1) 1 = 0 := rfl
    have december : monthDays y 12 = 31 := by simp [monthDays]
    have length : daysBefore y (12 + 1) = if y % 4 = 0 then 366 else 365 := daysBefore_13 y
    refine ⟨by omega, ?_⟩
    split_ifs at length <;> omega
  · obtain rfl : mo = 12 := by omega
    have december : monthDays y 12 = 31 := by simp [monthDays]
    exact absurd (by simp only [DateTime.mk.injEq, true_and]; omega) short

theorem DateTime.tick_valid {t : DateTime} (valid : t.valid = true) : t.tick.1.valid = true := by
  by_cases short : t = ⟨2099, 12, 31, 23, 59, 59, 9⟩
  · subst short; decide
  · exact (DateTime.tick_spec valid short).2.1

end Sys2Proof.Machine
end

section
/-! SUPPORT. What every operation keeps of the host link's queues and of the segments (R1, R207 to R211): one relation, and one
lemma per operation. -/

namespace Sys2Proof.Machine

set_option Elab.async false
set_option linter.unusedTactic false
set_option linter.unreachableTactic false

/-! ### The segments of the chains -/

theorem cellSet_perm_chains {d : PageEntry} (hd : d.chain = []) (k : Nat) (e : PageEntry) {c : List (Nat × PageEntry)}
    (sorted : c.Pairwise fun a b => a.1 < b.1) :
    ((cellSet c k e).flatMap (fun x => x.2.chain) ++ (cellGet d c k).chain).Perm
      (c.flatMap (fun x => x.2.chain) ++ e.chain) := by
  induction c with
  | nil => simp [cellSet, cellGet, hd]
  | cons x r ih =>
    obtain ⟨j, w⟩ := x
    obtain ⟨above, rest⟩ := List.pairwise_cons.mp sorted
    have absent (hk : k < j) : ∀ c : List (Nat × PageEntry), (∀ b ∈ c, j < b.1) → cellGet d c k = d := by
      intro c hc
      induction c with
      | nil => rfl
      | cons y ys ihy =>
        have := hc y (by simp)
        rw [cellGet, if_neg (by omega), ihy fun b hb => hc b (by simp [hb])]
    unfold cellSet cellGet
    split_ifs with h1 h2 h3
    · omega
    · rw [absent h1 r above, hd, List.append_nil]
      exact List.perm_append_comm
    · simp only [List.flatMap_cons, List.perm_iff_count, List.count_append]
      intro x; omega
    · simp only [List.flatMap_cons, List.append_assoc]
      exact .append_left _ (ih rest)

theorem cellSet_mem {α : Type} {c : List (Nat × α)} {k : Nat} {v : α} {x : Nat × α} (h : x ∈ cellSet c k v) :
    x = (k, v) ∨ x ∈ c := by
  induction c with
  | nil => simpa [cellSet] using h
  | cons y r ih =>
    unfold cellSet at h
    split_ifs at h <;> grind

theorem cellSet_sorted {α : Type} {c : List (Nat × α)} (k : Nat) (v : α) (sorted : c.Pairwise fun a b => a.1 < b.1) :
    (cellSet c k v).Pairwise fun a b => a.1 < b.1 := by
  induction c with
  | nil => simp [cellSet]
  | cons y r ih =>
    obtain ⟨above, rest⟩ := List.pairwise_cons.mp sorted
    unfold cellSet
    split_ifs with before same
    · refine List.pairwise_cons.mpr ⟨fun b hb => ?_, sorted⟩
      rcases List.mem_cons.mp hb with rfl | hb
      · exact before
      · exact before.trans (above b hb)
    · exact List.pairwise_cons.mpr ⟨fun b hb => same ▸ above b hb, rest⟩
    · refine List.pairwise_cons.mpr ⟨fun b hb => ?_, ih rest⟩
      rcases cellSet_mem hb with rfl | hb
      · simp only; omega
      · exact above b hb

theorem cellGet_mem {α : Type} (d : α) (c : List (Nat × α)) (k : Nat) : cellGet d c k = d ∨ (k, cellGet d c k) ∈ c := by
  induction c with
  | nil => exact .inl rfl
  | cons y r ih =>
    unfold cellGet
    split_ifs with same
    · exact .inr (by simp [← same])
    · exact ih.imp_right (List.mem_cons_of_mem _)

theorem Store.accounted_free {t : Store} (h : t.accounted) {k : Nat} (free : (t.dir.get k).state = .free) :
    (t.dir.get k).chain = [] := by
  obtain ⟨-, -, rest, cells, -⟩ := h
  rcases cellGet_mem t.dir.rest t.dir.cells k with same | listed
  · exact (congrArg PageEntry.chain same).trans rest
  · exact cells _ listed free

/-- An entry and the pool change together: what leaves one joins the other. -/
theorem Store.accounted_set {t u : Store} (h : t.accounted) {k : Nat} {e : PageEntry} (hu : u.dir = t.dir.set k e)
    (free : e.state = .free → e.chain = [])
    (moved : (u.pool.toList ++ e.chain).Perm (t.pool.toList ++ (t.dir.get k).chain)) : u.accounted := by
  obtain ⟨sorted, restFree, rest, cells, all⟩ := h
  have swap : (u.chained ++ (t.dir.get k).chain).Perm (t.chained ++ e.chain) := by
    unfold Store.chained; rw [hu]; exact cellSet_perm_chains rest k e sorted
  refine ⟨by rw [hu]; exact cellSet_sorted k e sorted, by rw [hu]; exact restFree, by rw [hu]; exact rest,
    fun c hc hf => ?_, ?_⟩
  · rw [hu] at hc
    rcases cellSet_mem hc with rfl | hc
    · exact free hf
    · exact cells c hc hf
  · refine List.Perm.trans ?_ all
    have step : ((u.pool.toList ++ u.chained) ++ (e.chain ++ (t.dir.get k).chain)).Perm
        ((t.pool.toList ++ t.chained) ++ (e.chain ++ (t.dir.get k).chain)) := by
      have a := moved.append swap
      simp only [List.perm_iff_count, List.count_append] at a ⊢
      intro x; have := a x; omega
    exact (List.perm_append_right_iff _).mp step

theorem Store.accounted_congr {t u : Store} (h : t.accounted) (hp : u.pool = t.pool) (hd : u.dir = t.dir) :
    u.accounted := by
  unfold Store.accounted Store.chained at *
  rwa [hp, hd]

/-- What a search for the lowest entry finds is such an entry. -/
theorem Table.searchFrom_spec {α : Type} {t : Table α} {p : α → Bool} {fuel k i : Nat}
    (found : t.searchFrom p fuel k = some i) : p (t.get i) = true := by
  induction fuel generalizing k with
  | zero => cases found
  | succ n ih =>
    unfold Table.searchFrom at found
    split_ifs at found with here
    · cases found; exact here
    · exact ih found

theorem Table.lowest_spec {α : Type} {t : Table α} {n i : Nat} {p : α → Bool} (found : t.lowest n p = some i) :
    p (t.get i) = true := Table.searchFrom_spec found

/-! ### The relation -/

/-- The notice queue and the lost count within their ranges (R209). -/
def Link.noticesInRange (k : Link) : Prop := k.notices.length ≤ 32 ∧ k.lost ≤ 255

/-- The replies formed, and the one that waits on store transfers (R207, R208). -/
def Link.owed (k : Link) : Nat := k.replies.length + if k.job.isSome then 1 else 0

/-- From `s` to `t` notices stay within their ranges, each reply owed is owed or formed, and each segment is in the pool or in
one page's chain (R1, R207, R209). -/
structure Upkeep (s t : State) : Prop where
  notices : s.link.noticesInRange → t.link.noticesInRange
  owed : t.link.owed = s.link.owed
  segments : s.store.accounted → t.store.accounted

theorem Upkeep.refl (s : State) : Upkeep s s := ⟨id, rfl, id⟩

theorem Upkeep.trans {s t u : State} (h : Upkeep s t) (g : Upkeep t u) : Upkeep s u :=
  ⟨g.notices ∘ h.notices, g.owed.trans h.owed, g.segments ∘ h.segments⟩

/-- A change outside link, pool and directory. -/
theorem Upkeep.elsewhere {s t u : State} (h : Upkeep s t) (hl : u.link = t.link) (hp : u.store.pool = t.store.pool)
    (hd : u.store.dir = t.store.dir) : Upkeep s u :=
  h.trans ⟨fun x => hl ▸ x, congrArg _ hl, fun x => Store.accounted_congr x hp hd⟩

theorem Upkeep.mk_blocks {a t : State} {pending power tk cfg mem scan docs macros lines recept engine charge desks log draws}
    (h : Upkeep a t) : Upkeep a (State.mk pending power tk t.link cfg t.store mem scan docs macros lines recept engine
      charge desks log draws) := h.elsewhere rfl rfl rfl

theorem Upkeep.mk_port {a t : State} {pending power tk cfg mem scan docs macros lines recept engine charge desks log draws}
    {checks waiting port winners low} (h : Upkeep a t) :
    Upkeep a (State.mk pending power tk t.link cfg ⟨t.store.pool, t.store.dir, checks, waiting, port, winners, low⟩ mem
      scan docs macros lines recept engine charge desks log draws) := h.elsewhere rfl rfl rfl

theorem Upkeep.of_fst {α : Type} {s t : State} {p : State × α} {r : α} (e : p = (t, r)) (h : Upkeep s p.1) :
    Upkeep s t := by subst e; exact h

theorem foldl_upkeep {α : Type} {f : State → α → State} (step : ∀ a s x, Upkeep a s → Upkeep a (f s x)) (l : List α)
    {a s : State} (h : Upkeep a s) : Upkeep a (l.foldl f s) := by
  induction l generalizing s with
  | nil => exact h
  | cons x xs ih => exact ih (step a s x h)

/-- The link's queues alone change, and no reply is gained or lost. -/
theorem Upkeep.onLink {s t u : State} (h : Upkeep s t) (hp : u.store.pool = t.store.pool)
    (hd : u.store.dir = t.store.dir) (hn : t.link.noticesInRange → u.link.noticesInRange)
    (ho : u.link.owed = t.link.owed) : Upkeep s u :=
  h.trans ⟨hn, ho, fun x => Store.accounted_congr x hp hd⟩

/-- An entry changes but for its chain; none becomes FREE. -/
theorem State.setEntry_upkeep {a s : State} {n : Nat} {e : PageEntry} (hc : e.chain = (s.entry n).chain)
    (hf : e.state = .free → (s.entry n).state = .free) (h : Upkeep a s) : Upkeep a (s.setEntry n e) :=
  h.trans ⟨id, rfl, fun x => Store.accounted_set (k := n) (e := e) x rfl
    (fun free => hc.trans (Store.accounted_free x (hf free))) (by rw [hc]; rfl)⟩

/-- A page that a handle names keeps its chain and its state. -/
theorem setEntry_page_upkeep {a s : State} {p : PageHandle} {e e' : PageEntry} (he : s.page p = some e)
    (hc : e'.chain = e.chain) (hf : e'.state = e.state) (h : Upkeep a s) : Upkeep a (s.setEntry p.slot e') := by
  obtain ⟨-, rfl, -, -⟩ := State.page_some he
  exact State.setEntry_upkeep hc (fun x => hf ▸ x) h

theorem raise_upkeep {a s : State} (kind : NoticeKind) (fields : List Byte) (h : Upkeep a s) :
    Upkeep a (raise kind fields s) := by
  refine h.trans ⟨fun ⟨hn, hl⟩ => ⟨raise_bound kind fields s hn, ?_⟩, ?_, ?_⟩
  · unfold raise; split_ifs
    · exact hl
    · exact min_le_left _ _
    · exact hl
  · unfold raise; split_ifs <;> rfl
  · unfold raise; split_ifs <;> exact id

/-- A reply is formed where one was owed. -/
theorem reply_setJob_upkeep {a s : State} {kind tag : Byte} {status : Status} {fields : List Byte}
    (job : s.link.job.isSome) (h : Upkeep a s) : Upkeep a (reply kind tag status fields (s.setJob none)) :=
  h.onLink rfl rfl id (by simp [Link.owed, reply, State.setJob, job])

theorem setJob_upkeep {a s : State} (j : HostJob) (job : s.link.job.isSome) (h : Upkeep a s) :
    Upkeep a (s.setJob (some j)) :=
  h.onLink rfl rfl id (by simp [Link.owed, State.setJob, job])

theorem withdrawReads_upkeep {a s : State} (p : PageHandle) (h : Upkeep a s) : Upkeep a (withdrawReads p s) := by
  unfold withdrawReads
  dsimp only
  split
  · rename_i hj
    split
    · exact h.onLink rfl rfl id (by simp [Link.owed, reply, hj])
    · exact h.elsewhere rfl rfl rfl
  · exact h.elsewhere rfl rfl rfl

end Sys2Proof.Machine
end

section
/-! SUPPORT. `Upkeep`, operation by operation: each leaves the notices in their bounds, the reply owed, and every segment
accounted for (R1, R207 to R211). -/

namespace Sys2Proof.Machine
set_option Elab.async false
set_option linter.unusedTactic false
set_option linter.unreachableTactic false
set_option maxErrors 1000

theorem State.setLine_upkeep (s : State) (l : LineNo) (x : Line) {a : State} (k : Upkeep a s) :
    Upkeep a (State.setLine s l x) := k.elsewhere rfl rfl rfl

theorem State.modLine_upkeep (s : State) (l : LineNo) (f : Line → Line) {a : State} (k : Upkeep a s) :
    Upkeep a (State.modLine s l f) := k.elsewhere rfl rfl rfl

theorem raiseUnless_upkeep (quiet : Bool) (kind : NoticeKind) (fields : List Byte) (s : State) {a : State} (k : Upkeep a s) :
    Upkeep a (raiseUnless quiet kind fields s) := by
  unfold raiseUnless
  try dsimp only
  (repeat' split) <;> repeat with_reducible first | exact k | apply raise_upkeep

theorem lowTest_upkeep (s : State) {a : State} (k : Upkeep a s) :
    Upkeep a (lowTest s) := by
  unfold lowTest
  try dsimp only
  (repeat' split) <;> repeat with_reducible first | exact k | apply raise_upkeep | apply Upkeep.mk_blocks | apply Upkeep.mk_port

theorem queueRequest_upkeep (r : Request) (s : State) {a : State} (k : Upkeep a s) :
    Upkeep a (queueRequest r s) := k.elsewhere rfl rfl rfl

theorem withdraw_upkeep (c : Client) (s : State) {a : State} (k : Upkeep a s) :
    Upkeep a (withdraw c s) := k.elsewhere rfl rfl rfl

theorem askWrite_upkeep (c : Client) (h : PageHandle) (data : List Byte) (close : Option CloseReq) (s : State) {a : State} (k : Upkeep a s) :
    Upkeep a (askWrite c h data close s).1 := by
  unfold askWrite
  try dsimp only
  (repeat' split) <;> repeat with_reducible first | exact k | apply queueRequest_upkeep

theorem askRead_upkeep (c : Client) (h : PageHandle) (block : Nat) (s : State) {a : State} (k : Upkeep a s) :
    Upkeep a (askRead c h block s) := by
  unfold askRead
  try dsimp only
  (repeat' split) <;> repeat with_reducible first | exact k | apply queueRequest_upkeep

theorem openPage_upkeep (c : Client) (origin : Origin) (cls : ResClass) (s : State) {a t : State} {x} (k : Upkeep a s)
    (done : openPage c origin cls s = .ok (t, x)) : Upkeep a t := by
  unfold openPage at done
  split at done
  · cases done
  split at done
  · cases done
  split at done
  · cases done
  · rename_i slot found
    simp only [Except.ok.injEq, Prod.mk.injEq] at done
    obtain ⟨rfl, -⟩ := done
    have free : (s.entry slot).state = .free := by simpa [State.entry] using Table.lowest_spec found
    refine k.trans ⟨id, rfl, fun x => Store.accounted_set (k := slot) x rfl (fun _ => rfl) ?_⟩
    rw [Store.accounted_free x free]; rfl

/-- A page's chain goes back to the pool (R2, R15). -/
theorem freePage_upkeep (h : PageHandle) (s : State) {a : State} (k : Upkeep a s) : Upkeep a (freePage h s) := by
  unfold freePage
  dsimp only
  refine lowTest_upkeep _ (withdrawReads_upkeep _ (k.trans ⟨id, rfl, fun x =>
    Store.accounted_set (k := h.slot) x rfl (fun _ => rfl) ?_⟩))
  rw [SegPool.give_eq]; exact .of_eq (List.append_nil _)

theorem releaseTest_upkeep (h : PageHandle) (s : State) {a : State} (k : Upkeep a s) :
    Upkeep a (releaseTest h s) := by
  unfold releaseTest
  try dsimp only
  (repeat' split) <;> repeat with_reducible first | exact k | apply freePage_upkeep

theorem lowerRef_upkeep (h : PageHandle) (s : State) {a : State} (k : Upkeep a s) : Upkeep a (lowerRef h s) := by
  unfold lowerRef
  split
  · rename_i named
    exact releaseTest_upkeep _ _ (setEntry_page_upkeep named rfl rfl k)
  · exact k

theorem lowerRefs_upkeep (hs : List PageHandle) (s : State) {a : State} (k : Upkeep a s) :
    Upkeep a (lowerRefs hs s) := by
  unfold lowerRefs; exact foldl_upkeep (fun a s x k => by repeat with_reducible first | exact k | apply lowerRef_upkeep) _ k

theorem raiseRef_upkeep (p : PageHandle) (s : State) {a t : State} (k : Upkeep a s) (done : raiseRef p s = .ok t) :
    Upkeep a t := by
  unfold raiseRef at done
  split at done
  · cases done
  split at done
  · rename_i named _
    cases done
    exact setEntry_page_upkeep named rfl rfl k
  · cases done

theorem raiseRefs_upkeep (ps : List PageHandle) (s : State) {a t : State} (k : Upkeep a s)
    (done : raiseRefs ps s = .ok t) : Upkeep a t := by
  induction ps generalizing s with
  | nil => cases done; exact k
  | cons x xs ih =>
    unfold raiseRefs at done
    split at done
    · cases done
    · exact ih _ (raiseRef_upkeep _ _ k ‹_›) done

theorem discardPage_upkeep (h : PageHandle) (s : State) {a : State} (k : Upkeep a s) :
    Upkeep a (discardPage h s) := by
  unfold discardPage
  try dsimp only
  repeat with_reducible first | exact k | apply freePage_upkeep | apply raise_upkeep | apply Upkeep.mk_blocks | apply Upkeep.mk_port

theorem modEntry_same_upkeep (s : State) (n : Nat) (f : PageEntry → PageEntry) {a : State}
    (hc : ∀ e, (f e).chain = e.chain) (hf : ∀ e, (f e).state = .free → e.state = .free) (k : Upkeep a s) :
    Upkeep a (s.modEntry n f) := State.setEntry_upkeep (hc _) (hf _) k

theorem applyHold_upkeep (hold : Hold) (h : PageHandle) (s : State) {a : State} (k : Upkeep a s) :
    Upkeep a (applyHold hold h s) := by
  have pinned := modEntry_same_upkeep s h.slot PageEntry.pinned (fun _ => rfl) (fun _ => id) k
  have referenced := modEntry_same_upkeep s h.slot PageEntry.referenced (fun _ => rfl) (fun _ => id) k
  unfold applyHold
  (repeat' split) <;> apply_rules [Upkeep.mk_blocks]

theorem finishClose_upkeep (quiet : Bool) (h : PageHandle) (c : CloseReq) (s : State) {a : State} (k : Upkeep a s) :
    Upkeep a (finishClose quiet h c s) := by
  unfold finishClose
  apply_rules [releaseTest_upkeep, raiseUnless_upkeep, applyHold_upkeep, modEntry_same_upkeep]
  exact nofun

theorem startClose_upkeep (c : Client) (h : PageHandle) (code : List Byte) (req : CloseReq) (s : State) {a : State} (k : Upkeep a s) :
    Upkeep a (startClose c h code req s).1 := by
  unfold startClose
  try dsimp only
  (repeat' split) <;> repeat with_reducible first | exact k | apply finishClose_upkeep | apply askWrite_upkeep | refine Upkeep.of_fst ‹_ = (_, _)› ?_

theorem State.setDoc_upkeep (s : State) (slot : Nat) (d : Doc) {a : State} (k : Upkeep a s) :
    Upkeep a (State.setDoc s slot d) := k.elsewhere rfl rfl rfl

theorem State.setDest_upkeep (s : State) (record : Nat) (d : Option Dest) {a : State} (k : Upkeep a s) :
    Upkeep a (State.setDest s record d) := k.elsewhere rfl rfl rfl

theorem askPass_upkeep (s : State) {a : State} (k : Upkeep a s) :
    Upkeep a (askPass s) := k.elsewhere rfl rfl rfl

theorem releaseDocPages_upkeep (slot : Nat) (s : State) {a : State} (k : Upkeep a s) :
    Upkeep a (releaseDocPages slot s) := by
  unfold releaseDocPages
  try dsimp only
  (repeat' split) <;> repeat with_reducible first | exact k | apply State.setDoc_upkeep | apply lowerRefs_upkeep

theorem endDoc_upkeep (quiet : Bool) (slot : Nat) (st : DocState) (s : State) {a : State} (k : Upkeep a s) :
    Upkeep a (endDoc quiet slot st s) := by
  unfold endDoc
  try dsimp only
  repeat with_reducible first | exact k | apply releaseDocPages_upkeep | apply State.setDoc_upkeep | apply raiseUnless_upkeep

theorem completeTest_upkeep (quiet cancelled : Bool) (slot : Nat) (s : State) {a : State} (k : Upkeep a s) :
    Upkeep a (completeTest quiet cancelled slot s) := by
  unfold completeTest
  try dsimp only
  (repeat' split) <;> repeat with_reducible first | exact k | apply endDoc_upkeep

theorem moveAllWaiting_upkeep (st : DestState) (slot : Nat) (s : State) {a : State} (k : Upkeep a s) :
    Upkeep a (moveAllWaiting st slot s).1 := k.elsewhere rfl rfl rfl

theorem expireDoc_upkeep (slot : Nat) (s : State) {a : State} (k : Upkeep a s) :
    Upkeep a (expireDoc slot s) := by
  unfold expireDoc
  try dsimp only
  (repeat' split) <;> repeat with_reducible first | exact k | apply moveAllWaiting_upkeep | apply completeTest_upkeep

theorem expireAll_upkeep (s : State) {a : State} (k : Upkeep a s) :
    Upkeep a (expireAll s) := by
  unfold expireAll; exact foldl_upkeep (fun a s x k => by repeat with_reducible first | exact k | apply expireDoc_upkeep) _ k

theorem outcomeReport_upkeep (quiet : Bool) (h : DocHandle) (index : Nat) (cause : Cause) (release : DateTime) (logged : Option Nat) (s : State) {a : State} (k : Upkeep a s) :
    Upkeep a (outcomeReport quiet h index cause release logged s) := by
  unfold outcomeReport
  try dsimp only
  (repeat' split) <;> repeat with_reducible first | exact k | apply completeTest_upkeep | apply askPass_upkeep | apply State.setDest_upkeep | apply State.setDoc_upkeep | apply raiseUnless_upkeep

theorem withdrawAttempt_upkeep (h : DocHandle) (index : Nat) (s : State) {a : State} (k : Upkeep a s) :
    Upkeep a (withdrawAttempt h index s) := by
  unfold withdrawAttempt
  try dsimp only
  (repeat' split) <;> repeat with_reducible first | exact k | apply completeTest_upkeep | apply askPass_upkeep | apply State.setDest_upkeep | apply State.setDoc_upkeep

theorem confirmPage_upkeep (h : DocHandle) (index : Nat) (s : State) {a : State} (k : Upkeep a s) :
    Upkeep a (confirmPage h index s) := by
  unfold confirmPage
  try dsimp only
  (repeat' split) <;> repeat with_reducible first | exact k | apply State.setDest_upkeep

theorem handOff_upkeep (l : LineNo) (slot index : Nat) (s : State) {a : State} (k : Upkeep a s) :
    Upkeep a (handOff l slot index s) := by
  unfold handOff
  try dsimp only
  (repeat' split) <;> repeat with_reducible first | exact k | apply State.setDest_upkeep | apply State.setDoc_upkeep | apply State.modLine_upkeep

theorem passLine_upkeep (s : State) (l : LineNo) {a : State} (k : Upkeep a s) :
    Upkeep a (passLine s l) := by
  unfold passLine
  try dsimp only
  (repeat' split) <;> repeat with_reducible first | exact k | apply handOff_upkeep

theorem dispatcherPass_upkeep (s : State) {a : State} (k : Upkeep a s) : Upkeep a (dispatcherPass s) :=
  foldl_upkeep (fun _ s l k => passLine_upkeep s l k) _ k.mk_blocks

theorem State.setDesk_upkeep (s : State) (n : Nat) (d : Desk) {a : State} (k : Upkeep a s) :
    Upkeep a (State.setDesk s n d) := k.elsewhere rfl rfl rfl

theorem deskTest_upkeep (n : Nat) (s : State) {a : State} (k : Upkeep a s) :
    Upkeep a (deskTest n s) := by
  unfold deskTest
  try dsimp only
  (repeat' split) <;> repeat with_reducible first | exact k | apply State.setDesk_upkeep | apply askPass_upkeep | apply raise_upkeep

theorem deskAdd_upkeep (n units cost : Nat) (s : State) {a : State} (k : Upkeep a s) :
    Upkeep a (deskAdd n units cost s) := by
  unfold deskAdd
  try dsimp only
  repeat with_reducible first | exact k | apply deskTest_upkeep | apply State.setDesk_upkeep

theorem logReserve_upkeep (s : State) {a t : State} (k : Upkeep a s) (done : logReserve s = some t) : Upkeep a t := by
  unfold logReserve at done
  try dsimp only at done
  (repeat' split at done) <;> first
    | (simp at done; done)
    | (simp only [Option.some.injEq] at done; obtain rfl := done; repeat with_reducible first | exact k | apply Upkeep.mk_blocks | apply Upkeep.mk_port)

theorem logGiveBack_upkeep (s : State) {a : State} (k : Upkeep a s) :
    Upkeep a (logGiveBack s) := k.elsewhere rfl rfl rfl

theorem logFill_upkeep (r : LogRecord) (s : State) {a : State} (k : Upkeep a s) :
    Upkeep a (logFill r s) := by
  unfold logFill
  try dsimp only
  (repeat' split) <;> repeat with_reducible first | exact k | apply raise_upkeep | apply Upkeep.mk_blocks | apply Upkeep.mk_port

theorem chargeAndLog_upkeep (l : LineNo) (call : CallRec) (cause : Cause) (release : DateTime) (s : State) {a : State} (k : Upkeep a s) :
    Upkeep a (chargeAndLog l call cause release s).1 := by
  unfold chargeAndLog
  try dsimp only
  (repeat' split) <;> repeat with_reducible first | exact k | apply logFill_upkeep | apply deskAdd_upkeep | apply State.modLine_upkeep

theorem State.setInDoc_upkeep (s : State) (slot : Nat) (d : InDoc) {a : State} (k : Upkeep a s) :
    Upkeep a (State.setInDoc s slot d) := k.elsewhere rfl rfl rfl

theorem State.modInDoc_upkeep (s : State) (slot : Nat) (f : InDoc → InDoc) {a : State} (k : Upkeep a s) :
    Upkeep a (s.modInDoc slot f) := k.elsewhere rfl rfl rfl

theorem openInbound_upkeep (l : LineNo) (answer : DateTime) (s : State) {a : State} (k : Upkeep a s) :
    Upkeep a (openInbound l answer s).1 := by
  unfold openInbound
  try dsimp only
  (repeat' split) <;> repeat with_reducible first | exact k | apply State.setInDoc_upkeep | apply raise_upkeep

theorem noteSender_upkeep (h : InHandle) (identity : List Byte) (s : State) {a : State} (k : Upkeep a s) :
    Upkeep a (noteSender h identity s) := by
  unfold noteSender
  try dsimp only
  (repeat' split) <;> repeat with_reducible first | exact k | apply State.setInDoc_upkeep

theorem freeInbound_upkeep (slot : Nat) (s : State) {a : State} (k : Upkeep a s) :
    Upkeep a (freeInbound slot s) := by
  unfold freeInbound
  try dsimp only
  repeat with_reducible first | exact k | apply State.setInDoc_upkeep | apply lowerRefs_upkeep

theorem placeEntry_upkeep (job : PrintJob) (urgent : Bool) (s : State) {a : State} (k : Upkeep a s) :
    Upkeep a (placeEntry job urgent s).1 := k.elsewhere rfl rfl rfl

theorem placeDoc_upkeep (h : InHandle) (s : State) {a : State} (k : Upkeep a s) :
    Upkeep a (placeDoc h s).1 := k.elsewhere rfl rfl rfl

theorem offerToPrint_upkeep (h : InHandle) (s : State) {a : State} (k : Upkeep a s) :
    Upkeep a (offerToPrint h s) := by
  unfold offerToPrint
  try dsimp only
  (repeat' split) <;> repeat with_reducible first | exact k | apply placeDoc_upkeep | apply State.modInDoc_upkeep | apply Upkeep.mk_blocks | apply Upkeep.mk_port

theorem listPage_upkeep (h : InHandle) (p : PageHandle) (s : State) {a : State} (k : Upkeep a s) :
    Upkeep a (listPage h p s) := by
  unfold listPage
  try dsimp only
  (repeat' split) <;> repeat with_reducible first | exact k | apply offerToPrint_upkeep | apply State.setInDoc_upkeep | apply Upkeep.mk_blocks | apply Upkeep.mk_port

theorem leaveQueue_upkeep (n : Nat) (s : State) {a : State} (k : Upkeep a s) :
    Upkeep a (leaveQueue n s) := by
  unfold leaveQueue
  try dsimp only
  (repeat' split) <;> repeat with_reducible first | exact k | apply placeDoc_upkeep | apply Upkeep.mk_blocks | apply Upkeep.mk_port

theorem leaveWaiting_upkeep (h : InHandle) (s : State) {a : State} (k : Upkeep a s) :
    Upkeep a (leaveWaiting h s) := k.elsewhere rfl rfl rfl

theorem endInbound_upkeep (quiet : Bool) (h : InHandle) (cause : Cause) (release : DateTime) (lastSent : Bool) (s : State) {a : State} (k : Upkeep a s) :
    Upkeep a (endInbound quiet h cause release lastSent s) := by
  unfold endInbound
  try dsimp only
  (repeat' split) <;> repeat with_reducible first | exact k | apply freeInbound_upkeep | apply State.setInDoc_upkeep | apply raiseUnless_upkeep

theorem State.modEngine_upkeep (s : State) (f : Engine → Engine) {a : State} (k : Upkeep a s) :
    Upkeep a (State.modEngine s f) := k.elsewhere rfl rfl rfl

theorem askBlock_upkeep (s : State) {a : State} (k : Upkeep a s) :
    Upkeep a (askBlock s) := by
  unfold askBlock
  try dsimp only
  (repeat' split) <;> repeat with_reducible first | exact k | apply State.modEngine_upkeep | apply askRead_upkeep

theorem finishEntry_upkeep (q : QueueEntry) (s : State) {a : State} (k : Upkeep a s) :
    Upkeep a (finishEntry q s) := by
  unfold finishEntry
  try dsimp only
  (repeat' split) <;> repeat with_reducible first | exact k | apply State.modEngine_upkeep | apply leaveQueue_upkeep | apply freeInbound_upkeep | apply State.modInDoc_upkeep | apply lowerRef_upkeep | apply raise_upkeep

theorem endPage_upkeep (h : PageHandle) (s : State) {a : State} (k : Upkeep a s) : Upkeep a (endPage h s) := by
  unfold endPage
  dsimp only
  split
  · rename_i named
    exact withdraw_upkeep _ _ (State.modEngine_upkeep _ _ (setEntry_page_upkeep named rfl rfl k))
  · exact withdraw_upkeep _ _ (State.modEngine_upkeep _ _ k)

theorem choosePage_upkeep (fuel : Nat) (s : State) {a : State} (k : Upkeep a s) :
    Upkeep a (choosePage fuel s) := by
  induction fuel generalizing s with
  | zero => exact k
  | succ n ih =>
    unfold choosePage
    dsimp only
    (repeat' split) <;> repeat with_reducible first | exact k | apply endPage_upkeep | apply finishEntry_upkeep | apply askBlock_upkeep | apply State.modEngine_upkeep | apply ih

theorem nextPage_upkeep (s : State) {a : State} (k : Upkeep a s) :
    Upkeep a (nextPage s) := by
  unfold nextPage
  try dsimp only
  repeat with_reducible first | exact k | apply choosePage_upkeep

theorem engineOn_upkeep (s : State) {a : State} (k : Upkeep a s) : Upkeep a (engineOn s) := by
  have decoded (n : Nat) := State.modEngine_upkeep s (decodeOn n) k
  unfold engineOn
  dsimp only
  split
  · exact k
  split
  · exact k
  split
  · split
    · exact nextPage_upkeep _ (endPage_upkeep _ _ (withdraw_upkeep _ _ (decoded _)))
    · exact withdraw_upkeep _ _ (decoded _)
  · exact askBlock_upkeep _ (decoded _)

theorem interruptPage_upkeep (s : State) {a : State} (k : Upkeep a s) :
    Upkeep a (interruptPage s) := by
  unfold interruptPage
  try dsimp only
  (repeat' split) <;> repeat with_reducible first | exact k | apply State.modEngine_upkeep | apply withdraw_upkeep

theorem resume_upkeep (s : State) {a : State} (k : Upkeep a s) :
    Upkeep a (resume s) := by
  unfold resume
  try dsimp only
  (repeat' split) <;> repeat with_reducible first | exact k | apply nextPage_upkeep | apply askBlock_upkeep | apply State.modEngine_upkeep

theorem paperGoesOut_upkeep (s : State) {a : State} (k : Upkeep a s) :
    Upkeep a (paperGoesOut s) := by
  unfold paperGoesOut
  try dsimp only
  (repeat' split) <;> repeat with_reducible first | exact k | apply interruptPage_upkeep | apply State.modEngine_upkeep | apply raise_upkeep

theorem jamIndication_upkeep (s : State) {a : State} (k : Upkeep a s) :
    Upkeep a (jamIndication s) := by
  unfold jamIndication
  try dsimp only
  (repeat' split) <;> repeat with_reducible first | exact k | apply interruptPage_upkeep | apply State.modEngine_upkeep | apply raise_upkeep

theorem cancelCurrent_upkeep (s : State) {a : State} (k : Upkeep a s) :
    Upkeep a (cancelCurrent s) := k.elsewhere rfl rfl rfl

theorem tellEngine_upkeep (h : InHandle) (s : State) {a : State} (k : Upkeep a s) :
    Upkeep a (tellEngine h s) := by
  unfold tellEngine
  try dsimp only
  (repeat' split) <;> repeat with_reducible first | exact k | apply nextPage_upkeep

theorem listAndTell_upkeep (held : Bool) (h : InHandle) (p : PageHandle) (s : State) {a : State} (k : Upkeep a s) :
    Upkeep a (listAndTell held h p s) := by
  unfold listAndTell
  try dsimp only
  (repeat' split) <;> repeat with_reducible first | exact k | apply tellEngine_upkeep | apply listPage_upkeep | apply State.modInDoc_upkeep

theorem endAndTell_upkeep (quiet : Bool) (h : InHandle) (cause : Cause) (release : DateTime) (lastSent : Bool) (s : State) {a : State} (k : Upkeep a s) :
    Upkeep a (endAndTell quiet h cause release lastSent s) := by
  unfold endAndTell
  try dsimp only
  repeat with_reducible first | exact k | apply tellEngine_upkeep | apply endInbound_upkeep

theorem changeState_upkeep (l : LineNo) (new : CallState) (cause : Option Cause) (s : State) {a : State} (k : Upkeep a s) :
    Upkeep a (changeState l new cause s) := by
  unfold changeState
  try dsimp only
  (repeat' split) <;> repeat with_reducible first | exact k | apply State.modLine_upkeep | apply raise_upkeep

theorem reportUnseized_upkeep (l : LineNo) (cause : Cause) (s : State) {a : State} (k : Upkeep a s) :
    Upkeep a (reportUnseized l cause s) := by
  unfold reportUnseized
  try dsimp only
  repeat with_reducible first | exact k | apply raise_upkeep

theorem State.modParams_upkeep (s : State) (l : LineNo) (f : CallParams → CallParams) {a : State} (k : Upkeep a s) :
    Upkeep a (State.modParams s l f) := k.elsewhere rfl rfl rfl

theorem State.modProc_upkeep (s : State) (l : LineNo) (f : Procedure → Procedure) {a : State} (k : Upkeep a s) :
    Upkeep a (State.modProc s l f) := k.elsewhere rfl rfl rfl

theorem State.modSend_upkeep (s : State) (l : LineNo) (f : SendSide → SendSide) {a : State} (k : Upkeep a s) :
    Upkeep a (State.modSend s l f) := k.elsewhere rfl rfl rfl

theorem State.modRecv_upkeep (s : State) (l : LineNo) (f : ReceiveSide → ReceiveSide) {a : State} (k : Upkeep a s) :
    Upkeep a (State.modRecv s l f) := k.elsewhere rfl rfl rfl

theorem State.modCall_upkeep (s : State) (l : LineNo) (f : CallRec → CallRec) {a : State} (k : Upkeep a s) :
    Upkeep a (State.modCall s l f) := k.elsewhere rfl rfl rfl

theorem fetchOn_upkeep (fuel : Nat) (x0 : LineNo) (s : State) {a : State} (k : Upkeep a s) :
    Upkeep a (fetchOn fuel x0 s) := by
  induction fuel generalizing s with
  | zero => exact k
  | succ n ih =>
    unfold fetchOn
    dsimp only
    (repeat' split) <;> repeat with_reducible first | exact k | apply State.modSend_upkeep | apply askRead_upkeep | apply ih

theorem beginSymbol_upkeep (l : LineNo) (s : State) {a : State} (k : Upkeep a s) :
    Upkeep a (beginSymbol l s) := by
  unfold beginSymbol
  try dsimp only
  (repeat' split) <;> repeat with_reducible first | exact k | apply changeState_upkeep | apply State.modLine_upkeep

theorem nextSymbol_upkeep (l : LineNo) (s : State) {a : State} (k : Upkeep a s) :
    Upkeep a (nextSymbol l s) := by
  unfold nextSymbol
  try dsimp only
  repeat with_reducible first | exact k | apply beginSymbol_upkeep | apply State.modLine_upkeep

theorem seize_upkeep (l : LineNo) (at_ : Attempt) (zone : Nat) (s : State) {a : State} (k : Upkeep a s) :
    Upkeep a (seize l at_ zone s) := by
  unfold seize
  apply_rules [beginSymbol_upkeep, fetchOn_upkeep, State.modLine_upkeep, changeState_upkeep]

theorem closeReceived_upkeep (quiet : Bool) (l : LineNo) (s : State) {a : State} (k : Upkeep a s) :
    Upkeep a (closeReceived quiet l s) := by
  unfold closeReceived
  try dsimp only
  (repeat' split) <;> repeat with_reducible first | exact k | apply State.modCall_upkeep | apply listAndTell_upkeep | apply finishClose_upkeep | apply withdraw_upkeep

theorem reportEnd_upkeep (quiet : Bool) (l : LineNo) (call : CallRec) (cause : Cause) (release : DateTime) (logged : Nat) (s : State) {a : State} (k : Upkeep a s) :
    Upkeep a (reportEnd quiet l call cause release logged s) := by
  unfold reportEnd
  try dsimp only
  (repeat' split) <;> repeat with_reducible first | exact k | apply endAndTell_upkeep | apply outcomeReport_upkeep

theorem hangUp_upkeep (quiet : Bool) (l : LineNo) (cause : Cause) (s : State) {a : State} (k : Upkeep a s) :
    Upkeep a (hangUp quiet l cause s) := by
  unfold hangUp
  try dsimp only
  (repeat' split) <;> repeat with_reducible first | exact k | apply reportEnd_upkeep | apply closeReceived_upkeep | apply changeState_upkeep | apply chargeAndLog_upkeep | apply askPass_upkeep | apply withdraw_upkeep | apply State.modLine_upkeep

theorem connectOut_upkeep (l : LineNo) (s : State) {a : State} (k : Upkeep a s) :
    Upkeep a (connectOut l s) := by
  unfold connectOut
  try dsimp only
  repeat with_reducible first | exact k | apply changeState_upkeep | apply State.modLine_upkeep

theorem connectIn_upkeep (l : LineNo) (s : State) {a : State} (k : Upkeep a s) :
    Upkeep a (connectIn l s) := by
  unfold connectIn
  try dsimp only
  (repeat' split) <;> repeat with_reducible first | exact k | apply changeState_upkeep | apply State.modInDoc_upkeep | apply State.modLine_upkeep

theorem refuseRing_upkeep (l : LineNo) (r : RingRefusal) (s : State) {a : State} (k : Upkeep a s) :
    Upkeep a (refuseRing l r s) := by
  unfold refuseRing
  try dsimp only
  (repeat' split) <;> repeat with_reducible first | exact k | apply State.modLine_upkeep | apply raise_upkeep

theorem answer_upkeep (l : LineNo) (passed : Bool) (cause : Option Cause) (s : State) {a : State} (k : Upkeep a s) :
    Upkeep a (answer l passed cause s) := by
  have entered := changeState_upkeep l .answering cause s k
  unfold answer
  refine State.modLine_upkeep _ _ _ (openInbound_upkeep _ _ _ ?_)
  split
  · exact entered
  · cases granted : logReserve (changeState l .answering cause s) with
    | none => exact entered
    | some t => exact logReserve_upkeep _ entered granted

theorem answerDecision_upkeep (resting : Bool) (l : LineNo) (s : State) {a : State} (k : Upkeep a s) :
    Upkeep a (answerDecision resting l s).1 := by
  unfold answerDecision
  try dsimp only
  (repeat' split) <;> repeat with_reducible first | exact k | apply answer_upkeep | apply refuseRing_upkeep

theorem deferredDecision_upkeep (l : LineNo) (s : State) {a : State} (k : Upkeep a s) :
    Upkeep a (deferredDecision l s) := by
  unfold deferredDecision
  try dsimp only
  (repeat' split) <;> repeat with_reducible first | exact k | apply answerDecision_upkeep | apply State.modLine_upkeep

theorem letGo_upkeep (l : LineNo) (s : State) {a : State} (k : Upkeep a s) :
    Upkeep a (letGo l s) := k.elsewhere rfl rfl rfl

theorem glare_upkeep (l : LineNo) (s : State) {a : State} (k : Upkeep a s) :
    Upkeep a (glare l s) := by
  unfold glare
  try dsimp only
  (repeat' split) <;> repeat with_reducible first | exact k | apply answer_upkeep | apply refuseRing_upkeep | apply changeState_upkeep | apply logGiveBack_upkeep | apply withdrawAttempt_upkeep | apply withdraw_upkeep | apply State.modLine_upkeep

theorem ring_upkeep (l : LineNo) (s : State) {a : State} (k : Upkeep a s) :
    Upkeep a (ring l s) := by
  unfold ring
  try dsimp only
  (repeat' split) <;> repeat with_reducible first | exact k | apply glare_upkeep | apply answerDecision_upkeep | apply State.modLine_upkeep

theorem restEnd_upkeep (l : LineNo) (s : State) {a : State} (k : Upkeep a s) :
    Upkeep a (restEnd l s) := by
  unfold restEnd
  try dsimp only
  (repeat' split) <;> repeat with_reducible first | exact k | apply answerDecision_upkeep | apply changeState_upkeep | apply askPass_upkeep | refine Upkeep.of_fst ‹_ = (_, _)› ?_

theorem resetLine_upkeep (quiet : Bool) (s : State) (l : LineNo) {a : State} (k : Upkeep a s) :
    Upkeep a (resetLine quiet s l) := by
  unfold resetLine
  try dsimp only
  (repeat' split) <;> repeat with_reducible first | exact k | apply letGo_upkeep | apply hangUp_upkeep | apply outcomeReport_upkeep | apply State.modLine_upkeep

theorem State.modScan_upkeep (s : State) (f : Scan → Scan) {a : State} (k : Upkeep a s) :
    Upkeep a (State.modScan s f) := k.elsewhere rfl rfl rfl

theorem openSheet_upkeep (s : State) {a : State} (k : Upkeep a s) : Upkeep a (openSheet s) := by
  unfold openSheet
  split
  · exact State.modScan_upkeep _ _ (openPage_upkeep _ _ _ _ k ‹_›)
  · exact raise_upkeep _ _ (State.modScan_upkeep _ _ k)

theorem nextSheetOrEnd_upkeep (s : State) {a : State} (k : Upkeep a s) :
    Upkeep a (nextSheetOrEnd s) := by
  unfold nextSheetOrEnd
  try dsimp only
  (repeat' split) <;> repeat with_reducible first | exact k | apply openSheet_upkeep | apply State.modScan_upkeep

theorem pageDone_upkeep (e : PageEnding) (s : State) {a : State} (k : Upkeep a s) :
    Upkeep a (pageDone e s) := by
  unfold pageDone
  try dsimp only
  (repeat' split) <;> repeat with_reducible first | exact k | apply nextSheetOrEnd_upkeep | apply State.modScan_upkeep

theorem limitPage_upkeep (s : State) {a : State} (k : Upkeep a s) :
    Upkeep a (limitPage s) := by
  unfold limitPage
  try dsimp only
  (repeat' split) <;> repeat with_reducible first | exact k | apply pageDone_upkeep | apply State.modScan_upkeep | apply finishClose_upkeep

theorem scanRefused_upkeep (r : Allocation) (s : State) {a : State} (k : Upkeep a s) : Upkeep a (scanRefused r s) := by
  unfold scanRefused
  dsimp only
  (repeat' split) <;> apply_rules [limitPage_upkeep, raise_upkeep, State.modScan_upkeep]

theorem presentBlock_upkeep (s : State) {a : State} (k : Upkeep a s) : Upkeep a (presentBlock s) := by
  unfold presentBlock
  split
  · exact scanRefused_upkeep _ _ (askWrite_upkeep _ _ _ _ _ k)
  · exact k

theorem pump_upkeep (fuel : Nat) (s : State) {a : State} (k : Upkeep a s) :
    Upkeep a (pump fuel s) := by
  induction fuel generalizing s with
  | zero => exact k
  | succ n ih =>
    unfold pump
    dsimp only
    (repeat' split) <;> repeat with_reducible first | exact k | apply presentBlock_upkeep | apply State.modScan_upkeep | apply ih

theorem tryEnd_upkeep (s : State) {a : State} (k : Upkeep a s) :
    Upkeep a (tryEnd s) := by
  unfold tryEnd
  try dsimp only
  (repeat' split) <;> repeat with_reducible first | exact k | apply limitPage_upkeep | apply pageDone_upkeep | apply State.modScan_upkeep | apply startClose_upkeep | refine Upkeep.of_fst ‹_ = (_, _)› ?_

theorem endSheetPage_upkeep (e : PageEnding) (s : State) {a : State} (k : Upkeep a s) :
    Upkeep a (endSheetPage e s) := by
  unfold endSheetPage
  try dsimp only
  repeat with_reducible first | exact k | apply tryEnd_upkeep | apply pump_upkeep | apply State.modScan_upkeep

theorem scanCommitted_upkeep (byteLen : Nat) (s : State) {a : State} (k : Upkeep a s) :
    Upkeep a (scanCommitted byteLen s) := by
  unfold scanCommitted
  try dsimp only
  repeat with_reducible first | exact k | apply tryEnd_upkeep | apply pump_upkeep | apply State.modScan_upkeep

theorem scanRetry_upkeep (s : State) {a : State} (k : Upkeep a s) :
    Upkeep a (scanRetry s) := by
  unfold scanRetry
  try dsimp only
  (repeat' split) <;> repeat with_reducible first | exact k | apply presentBlock_upkeep

theorem abandonSheet_upkeep (cause : ScanEnd) (s : State) {a : State} (k : Upkeep a s) :
    Upkeep a (abandonSheet cause s) := by
  unfold abandonSheet
  try dsimp only
  (repeat' split) <;> repeat with_reducible first | exact k | apply State.modScan_upkeep | apply discardPage_upkeep | apply withdraw_upkeep

theorem captureLine_upkeep (samples : List Byte) (s : State) {a : State} (k : Upkeep a s) :
    Upkeep a (captureLine samples s) := by
  unfold captureLine
  dsimp only
  split
  · exact k
  · refine pump_upkeep _ _ (State.modScan_upkeep _ _ ?_)
    split
    · exact modEntry_same_upkeep _ _ _ (fun _ => rfl) (fun _ => id) k
    · exact k

theorem scanSet_upkeep (body : List Byte) (s : State) {a t : State} {x} (k : Upkeep a s) (done : scanSet body s = .ok (t, x)) : Upkeep a t := by
  unfold scanSet at done
  try dsimp only at done
  (repeat' split at done) <;> first
    | (simp at done; done)
    | (simp only [Except.ok.injEq, Prod.mk.injEq] at done; obtain ⟨rfl, -⟩ := done; repeat with_reducible first | exact k | apply State.modScan_upkeep)

theorem scanStart_upkeep (body : List Byte) (s : State) {a t : State} {x} (k : Upkeep a s) (done : scanStart body s = .ok (t, x)) : Upkeep a t := by
  unfold scanStart at done
  try dsimp only at done
  (repeat' split at done) <;> first
    | (simp at done; done)
    | (simp only [Except.ok.injEq, Prod.mk.injEq] at done; obtain ⟨rfl, -⟩ := done; repeat with_reducible first | exact k | apply openSheet_upkeep | apply State.modScan_upkeep)

theorem scanStop_upkeep (body : List Byte) (s : State) {a t : State} {x} (k : Upkeep a s) (done : scanStop body s = .ok (t, x)) : Upkeep a t := by
  unfold scanStop at done
  try dsimp only at done
  (repeat' split at done) <;> first
    | (simp at done; done)
    | (simp only [Except.ok.injEq, Prod.mk.injEq] at done; obtain ⟨rfl, -⟩ := done; repeat with_reducible first | exact k | apply abandonSheet_upkeep | apply State.modScan_upkeep)

theorem scanStatus_upkeep (body : List Byte) (s : State) {a t : State} {x} (k : Upkeep a s) (done : scanStatus body s = .ok (t, x)) : Upkeep a t := by
  unfold scanStatus at done
  try dsimp only at done
  (repeat' split at done) <;> first
    | (simp at done; done)
    | (simp only [Except.ok.injEq, Prod.mk.injEq] at done; obtain ⟨rfl, -⟩ := done; repeat with_reducible first | exact k)

theorem sensePaper_upkeep (paper : Bool) (s : State) {a : State} (k : Upkeep a s) :
    Upkeep a (sensePaper paper s) := k.elsewhere rfl rfl rfl

theorem feederStep_upkeep (samples : List Byte) (s : State) {a : State} (k : Upkeep a s) :
    Upkeep a (feederStep samples s) := by
  unfold feederStep
  try dsimp only
  (repeat' split) <;> repeat with_reducible first | exact k | apply captureLine_upkeep | apply endSheetPage_upkeep | apply State.modScan_upkeep

theorem sheetEnd_upkeep (s : State) {a : State} (k : Upkeep a s) :
    Upkeep a (sheetEnd s) := by
  unfold sheetEnd
  try dsimp only
  (repeat' split) <;> repeat with_reducible first | exact k | apply State.modScan_upkeep

theorem scanHoldTimeout_upkeep (s : State) {a : State} (k : Upkeep a s) :
    Upkeep a (scanHoldTimeout s) := by
  unfold scanHoldTimeout
  try dsimp only
  (repeat' split) <;> repeat with_reducible first | exact k | apply abandonSheet_upkeep | apply raise_upkeep

theorem ejectionComplete_upkeep (s : State) {a : State} (k : Upkeep a s) :
    Upkeep a (ejectionComplete s) := by
  unfold ejectionComplete
  try dsimp only
  (repeat' split) <;> repeat with_reducible first | exact k | apply nextSheetOrEnd_upkeep | apply State.modScan_upkeep

theorem inboundStatus_upkeep (body : List Byte) (s : State) {a t : State} {x} (k : Upkeep a s) (done : inboundStatus body s = .ok (t, x)) : Upkeep a t := by
  unfold inboundStatus at done
  try dsimp only at done
  (repeat' split at done) <;> first
    | (simp at done; done)
    | (simp only [Except.ok.injEq, Prod.mk.injEq] at done; obtain ⟨rfl, -⟩ := done; repeat with_reducible first | exact k)

theorem inboundSummary_upkeep (body : List Byte) (s : State) {a t : State} {x} (k : Upkeep a s) (done : inboundSummary body s = .ok (t, x)) : Upkeep a t := by
  unfold inboundSummary at done
  try dsimp only at done
  (repeat' split at done) <;> first
    | (simp at done; done)
    | (simp only [Except.ok.injEq, Prod.mk.injEq] at done; obtain ⟨rfl, -⟩ := done; repeat with_reducible first | exact k)

theorem inboundDelete_upkeep (body : List Byte) (s : State) {a t : State} {x} (k : Upkeep a s) (done : inboundDelete body s = .ok (t, x)) : Upkeep a t := by
  unfold inboundDelete at done
  try dsimp only at done
  (repeat' split at done) <;> first
    | (simp at done; done)
    | (simp only [Except.ok.injEq, Prod.mk.injEq] at done; obtain ⟨rfl, -⟩ := done; repeat with_reducible first | exact k | apply scanRetry_upkeep | apply leaveWaiting_upkeep | apply freeInbound_upkeep)

theorem urgentSet_upkeep (body : List Byte) (s : State) {a t : State} {x} (k : Upkeep a s) (done : urgentSet body s = .ok (t, x)) : Upkeep a t := by
  unfold urgentSet at done
  try dsimp only at done
  (repeat' split at done) <;> first
    | (simp at done; done)
    | (simp only [Except.ok.injEq, Prod.mk.injEq] at done; obtain ⟨rfl, -⟩ := done; repeat with_reducible first | exact k | apply Upkeep.mk_blocks | apply Upkeep.mk_port)

theorem printDoc_upkeep (body : List Byte) (s : State) {a t : State} {x} (k : Upkeep a s) (done : printDoc body s = .ok (t, x)) : Upkeep a t := by
  unfold printDoc at done
  try dsimp only at done
  (repeat' split at done) <;> first
    | (simp at done; done)
    | (simp only [Except.ok.injEq, Prod.mk.injEq] at done; obtain ⟨rfl, -⟩ := done; repeat with_reducible first | exact k | apply placeDoc_upkeep)

theorem printPage_upkeep (body : List Byte) (s : State) {a t : State} {x} (k : Upkeep a s)
    (done : printPage body s = .ok (t, x)) : Upkeep a t := by
  unfold printPage at done
  dsimp only at done
  (repeat' split at done) <;> cases done
  exact placeEntry_upkeep _ _ _ (raiseRef_upkeep _ _ k ‹_›)

theorem removeEntry_upkeep (q : QueueEntry) (s : State) {a : State} (k : Upkeep a s) :
    Upkeep a (removeEntry q s) := by
  unfold removeEntry
  try dsimp only
  (repeat' split) <;> repeat with_reducible first | exact k | apply cancelCurrent_upkeep | apply leaveQueue_upkeep | apply State.modInDoc_upkeep | apply lowerRef_upkeep

theorem printCancelEntry_upkeep (body : List Byte) (s : State) {a t : State} {x} (k : Upkeep a s) (done : printCancelEntry body s = .ok (t, x)) : Upkeep a t := by
  unfold printCancelEntry at done
  try dsimp only at done
  (repeat' split at done) <;> first
    | (simp at done; done)
    | (simp only [Except.ok.injEq, Prod.mk.injEq] at done; obtain ⟨rfl, -⟩ := done; repeat with_reducible first | exact k | apply removeEntry_upkeep | apply scanRetry_upkeep)

theorem printCancelDoc_upkeep (body : List Byte) (s : State) {a t : State} {x} (k : Upkeep a s) (done : printCancelDoc body s = .ok (t, x)) : Upkeep a t := by
  unfold printCancelDoc at done
  try dsimp only at done
  (repeat' split at done) <;> first
    | (simp at done; done)
    | (simp only [Except.ok.injEq, Prod.mk.injEq] at done; obtain ⟨rfl, -⟩ := done; repeat with_reducible first | exact k | apply removeEntry_upkeep | apply scanRetry_upkeep | apply leaveWaiting_upkeep | apply State.setInDoc_upkeep)

theorem printPause_upkeep (body : List Byte) (s : State) {a t : State} {x} (k : Upkeep a s) (done : printPause body s = .ok (t, x)) : Upkeep a t := by
  unfold printPause at done
  try dsimp only at done
  (repeat' split at done) <;> first
    | (simp at done; done)
    | (simp only [Except.ok.injEq, Prod.mk.injEq] at done; obtain ⟨rfl, -⟩ := done; repeat with_reducible first | exact k | apply interruptPage_upkeep | apply State.modEngine_upkeep)

theorem printResume_upkeep (body : List Byte) (s : State) {a t : State} {x} (k : Upkeep a s) (done : printResume body s = .ok (t, x)) : Upkeep a t := by
  unfold printResume at done
  try dsimp only at done
  (repeat' split at done) <;> first
    | (simp at done; done)
    | (simp only [Except.ok.injEq, Prod.mk.injEq] at done; obtain ⟨rfl, -⟩ := done; repeat with_reducible first | exact k | apply scanRetry_upkeep | apply resume_upkeep | apply State.modEngine_upkeep)

theorem printStatus_upkeep (body : List Byte) (s : State) {a t : State} {x} (k : Upkeep a s) (done : printStatus body s = .ok (t, x)) : Upkeep a t := by
  unfold printStatus at done
  try dsimp only at done
  (repeat' split at done) <;> first
    | (simp at done; done)
    | (simp only [Except.ok.injEq, Prod.mk.injEq] at done; obtain ⟨rfl, -⟩ := done; repeat with_reducible first | exact k)

theorem entryBegin_upkeep (s : State) {a : State} (k : Upkeep a s) :
    Upkeep a (entryBegin s) := by
  unfold entryBegin
  try dsimp only
  (repeat' split) <;> repeat with_reducible first | exact k | apply nextPage_upkeep | apply State.modEngine_upkeep | apply State.modInDoc_upkeep | apply Upkeep.mk_blocks | apply Upkeep.mk_port

theorem headLineStruck_upkeep (s : State) {a : State} (k : Upkeep a s) :
    Upkeep a (headLineStruck s) := by
  unfold headLineStruck
  try dsimp only
  (repeat' split) <;> repeat with_reducible first | exact k | apply engineOn_upkeep | apply State.modEngine_upkeep

theorem cutFeedDone_upkeep (s : State) {a : State} (k : Upkeep a s) :
    Upkeep a (cutFeedDone s) := by
  unfold cutFeedDone
  try dsimp only
  (repeat' split) <;> repeat with_reducible first | exact k | apply State.modEngine_upkeep

theorem paperRestored_upkeep (s : State) {a : State} (k : Upkeep a s) :
    Upkeep a (paperRestored s) := by
  unfold paperRestored
  try dsimp only
  (repeat' split) <;> repeat with_reducible first | exact k | apply resume_upkeep | apply State.modEngine_upkeep

theorem docCreate_upkeep (body : List Byte) (s : State) {a t : State} {x} (k : Upkeep a s) (done : docCreate body s = .ok (t, x)) : Upkeep a t := by
  unfold docCreate at done
  try dsimp only at done
  (repeat' split at done) <;> first
    | (simp at done; done)
    | (simp only [Except.ok.injEq, Prod.mk.injEq] at done; obtain ⟨rfl, -⟩ := done; repeat with_reducible first | exact k | apply State.setDoc_upkeep)

theorem docAddPages_upkeep (body : List Byte) (s : State) {a t : State} {x} (k : Upkeep a s)
    (done : docAddPages body s = .ok (t, x)) : Upkeep a t := by
  unfold docAddPages at done
  dsimp only at done
  (repeat' split at done) <;> cases done
  exact State.setDoc_upkeep _ _ _ (raiseRefs_upkeep _ _ k ‹_›)

theorem docAddDests_upkeep (body : List Byte) (s : State) {a t : State} {x} (k : Upkeep a s) (done : docAddDests body s = .ok (t, x)) : Upkeep a t := by
  unfold docAddDests at done
  try dsimp only at done
  (repeat' split at done) <;> first
    | (simp at done; done)
    | (simp only [Except.ok.injEq, Prod.mk.injEq] at done; obtain ⟨rfl, -⟩ := done; repeat with_reducible first | exact k | apply Upkeep.mk_blocks | apply Upkeep.mk_port)

theorem docSubmit_upkeep (body : List Byte) (s : State) {a t : State} {x} (k : Upkeep a s) (done : docSubmit body s = .ok (t, x)) : Upkeep a t := by
  unfold docSubmit at done
  try dsimp only at done
  (repeat' split at done) <;> first
    | (simp at done; done)
    | (simp only [Except.ok.injEq, Prod.mk.injEq] at done; obtain ⟨rfl, -⟩ := done; repeat with_reducible first | exact k | apply scanRetry_upkeep | apply expireDoc_upkeep | apply askPass_upkeep | apply State.setDoc_upkeep | apply Upkeep.mk_blocks | apply Upkeep.mk_port)

theorem docDelete_upkeep (body : List Byte) (s : State) {a t : State} {x} (k : Upkeep a s) (done : docDelete body s = .ok (t, x)) : Upkeep a t := by
  unfold docDelete at done
  try dsimp only at done
  (repeat' split at done) <;> first
    | (simp at done; done)
    | (simp only [Except.ok.injEq, Prod.mk.injEq] at done; obtain ⟨rfl, -⟩ := done; repeat with_reducible first | exact k | apply scanRetry_upkeep | apply lowerRefs_upkeep | apply Upkeep.mk_blocks | apply Upkeep.mk_port)

theorem docStatus_upkeep (body : List Byte) (s : State) {a t : State} {x} (k : Upkeep a s) (done : docStatus body s = .ok (t, x)) : Upkeep a t := by
  unfold docStatus at done
  try dsimp only at done
  (repeat' split at done) <;> first
    | (simp at done; done)
    | (simp only [Except.ok.injEq, Prod.mk.injEq] at done; obtain ⟨rfl, -⟩ := done; repeat with_reducible first | exact k)

theorem docDestStatus_upkeep (body : List Byte) (s : State) {a t : State} {x} (k : Upkeep a s) (done : docDestStatus body s = .ok (t, x)) : Upkeep a t := by
  unfold docDestStatus at done
  try dsimp only at done
  (repeat' split at done) <;> first
    | (simp at done; done)
    | (simp only [Except.ok.injEq, Prod.mk.injEq] at done; obtain ⟨rfl, -⟩ := done; repeat with_reducible first | exact k)

theorem retryEligible_upkeep (record : Nat) (s : State) {a : State} (k : Upkeep a s) :
    Upkeep a (retryEligible record s) := by
  unfold retryEligible
  try dsimp only
  (repeat' split) <;> repeat with_reducible first | exact k | apply askPass_upkeep

theorem lineConfigure_upkeep (body : List Byte) (s : State) {a t : State} {x} (k : Upkeep a s) (done : lineConfigure body s = .ok (t, x)) : Upkeep a t := by
  unfold lineConfigure at done
  try dsimp only at done
  (repeat' split at done) <;> first
    | (simp at done; done)
    | (simp only [Except.ok.injEq, Prod.mk.injEq] at done; obtain ⟨rfl, -⟩ := done; repeat with_reducible first | exact k | apply askPass_upkeep | apply State.modLine_upkeep)

theorem lineStatusOf_upkeep (body : List Byte) (s : State) {a t : State} {x} (k : Upkeep a s) (done : lineStatusOf body s = .ok (t, x)) : Upkeep a t := by
  unfold lineStatusOf at done
  try dsimp only at done
  (repeat' split at done) <;> first
    | (simp at done; done)
    | (simp only [Except.ok.injEq, Prod.mk.injEq] at done; obtain ⟨rfl, -⟩ := done; repeat with_reducible first | exact k)

theorem lineHoldOf_upkeep (body : List Byte) (s : State) {a t : State} {x} (k : Upkeep a s) (done : lineHoldOf body s = .ok (t, x)) : Upkeep a t := by
  unfold lineHoldOf at done
  try dsimp only at done
  (repeat' split at done) <;> first
    | (simp at done; done)
    | (simp only [Except.ok.injEq, Prod.mk.injEq] at done; obtain ⟨rfl, -⟩ := done; repeat with_reducible first | exact k | apply ring_upkeep | apply changeState_upkeep)

theorem lineReleaseOf_upkeep (body : List Byte) (s : State) {a t : State} {x} (k : Upkeep a s) (done : lineReleaseOf body s = .ok (t, x)) : Upkeep a t := by
  unfold lineReleaseOf at done
  try dsimp only at done
  (repeat' split at done) <;> first
    | (simp at done; done)
    | (simp only [Except.ok.injEq, Prod.mk.injEq] at done; obtain ⟨rfl, -⟩ := done; repeat with_reducible first | exact k | apply answerDecision_upkeep | apply changeState_upkeep | apply askPass_upkeep)

theorem macroGet_upkeep (body : List Byte) (s : State) {a t : State} {x} (k : Upkeep a s) (done : macroGet body s = .ok (t, x)) : Upkeep a t := by
  unfold macroGet at done
  try dsimp only at done
  (repeat' split at done) <;> first
    | (simp at done; done)
    | (simp only [Except.ok.injEq, Prod.mk.injEq] at done; obtain ⟨rfl, -⟩ := done; repeat with_reducible first | exact k)

theorem cancelOnLine_upkeep (h : DocHandle) (s : State) (l : LineNo) {a : State} (k : Upkeep a s) :
    Upkeep a (cancelOnLine h s l) := by
  unfold cancelOnLine
  try dsimp only
  (repeat' split) <;> repeat with_reducible first | exact k | apply hangUp_upkeep | apply State.modCall_upkeep | apply State.modProc_upkeep

theorem cancelDraft_upkeep (slot : Nat) (s : State) {a : State} (k : Upkeep a s) :
    Upkeep a (cancelDraft slot s).1 := by
  unfold cancelDraft
  try dsimp only
  repeat with_reducible first | exact k | apply moveAllWaiting_upkeep | apply endDoc_upkeep

theorem cancelRunning_upkeep (h : DocHandle) (s : State) {a : State} (k : Upkeep a s) :
    Upkeep a (cancelRunning h s).1 := by
  have moved := moveAllWaiting_upkeep .cancelled h.slot s k
  unfold cancelRunning
  dsimp only
  split
  · exact completeTest_upkeep _ _ _ _ moved
  · exact foldl_upkeep (fun _ s l k => cancelOnLine_upkeep h s l k) _ (State.setDoc_upkeep _ _ _ moved)

theorem docCancel_upkeep (body : List Byte) (s : State) {a t : State} {x} (k : Upkeep a s) (done : docCancel body s = .ok (t, x)) : Upkeep a t := by
  unfold docCancel at done
  try dsimp only at done
  (repeat' split at done) <;> first
    | (simp at done; done)
    | (simp only [Except.ok.injEq, Prod.mk.injEq] at done; obtain ⟨rfl, -⟩ := done; repeat with_reducible first | exact k | apply cancelRunning_upkeep | apply cancelDraft_upkeep | apply scanRetry_upkeep)

theorem endUnseized_upkeep (l : LineNo) (at_ : Attempt) (cause : Cause) (s : State) {a : State} (k : Upkeep a s) :
    Upkeep a (endUnseized l at_ cause s) := by
  unfold endUnseized
  apply_rules [deferredDecision_upkeep, reportUnseized_upkeep, letGo_upkeep, outcomeReport_upkeep]

theorem dialExpansion_upkeep (l : LineNo) (s : State) {a : State} (k : Upkeep a s) :
    Upkeep a (dialExpansion l s) := by
  unfold dialExpansion
  try dsimp only
  (repeat' split) <;> repeat with_reducible first | exact k | apply endUnseized_upkeep | apply State.modLine_upkeep

theorem zoneLookup_upkeep (l : LineNo) (s : State) {a : State} (k : Upkeep a s) : Upkeep a (zoneLookup l s) := by
  have withdrawn (d : DocHandle) (n : Nat) : Upkeep a (deferredDecision l (letGo l (withdrawAttempt d n s))) :=
    deferredDecision_upkeep _ _ (letGo_upkeep _ _ (withdrawAttempt_upkeep _ _ _ k))
  unfold zoneLookup
  split
  · exact k
  split
  · exact k
  split
  · exact endUnseized_upkeep _ _ _ _ k
  split
  · split
    · exact seize_upkeep _ _ _ _ (logReserve_upkeep _ k ‹_›)
    · exact withdrawn _ _
  · exact withdrawn _ _

theorem dialSymbolEnd_upkeep (l : LineNo) (s : State) {a : State} (k : Upkeep a s) :
    Upkeep a (dialSymbolEnd l s) := by
  unfold dialSymbolEnd
  try dsimp only
  (repeat' split) <;> repeat with_reducible first | exact k | apply nextSymbol_upkeep

theorem dialToneReport_upkeep (l : LineNo) (s : State) {a : State} (k : Upkeep a s) :
    Upkeep a (dialToneReport l s) := by
  unfold dialToneReport
  try dsimp only
  (repeat' split) <;> repeat with_reducible first | exact k | apply beginSymbol_upkeep | apply State.modLine_upkeep

theorem dialToneTimeout_upkeep (l : LineNo) (s : State) {a : State} (k : Upkeep a s) :
    Upkeep a (dialToneTimeout l s) := by
  unfold dialToneTimeout
  try dsimp only
  (repeat' split) <;> repeat with_reducible first | exact k | apply hangUp_upkeep

theorem busyTone_upkeep (l : LineNo) (s : State) {a : State} (k : Upkeep a s) :
    Upkeep a (busyTone l s) := by
  unfold busyTone
  try dsimp only
  (repeat' split) <;> repeat with_reducible first | exact k | apply hangUp_upkeep

theorem answerIndication_upkeep (l : LineNo) (s : State) {a : State} (k : Upkeep a s) :
    Upkeep a (answerIndication l s) := by
  unfold answerIndication
  try dsimp only
  (repeat' split) <;> repeat with_reducible first | exact k | apply connectOut_upkeep

theorem answerTimeout_upkeep (l : LineNo) (s : State) {a : State} (k : Upkeep a s) :
    Upkeep a (answerTimeout l s) := by
  unfold answerTimeout
  try dsimp only
  (repeat' split) <;> repeat with_reducible first | exact k | apply hangUp_upkeep

theorem ringBurstEnd_upkeep (l : LineNo) (s : State) {a : State} (k : Upkeep a s) :
    Upkeep a (ringBurstEnd l s) := by
  unfold ringBurstEnd
  try dsimp only
  (repeat' split) <;> repeat with_reducible first | exact k | apply State.modLine_upkeep

theorem answerToneEnd_upkeep (l : LineNo) (s : State) {a : State} (k : Upkeep a s) :
    Upkeep a (answerToneEnd l s) := by
  unfold answerToneEnd
  try dsimp only
  (repeat' split) <;> repeat with_reducible first | exact k | apply connectIn_upkeep

theorem holdReady_upkeep (l : LineNo) (what : Sending) (s : State) {a : State} (k : Upkeep a s) :
    Upkeep a (holdReady l what s) := k.elsewhere rfl rfl rfl

theorem beginSending_upkeep (l : LineNo) (what : Sending) (s : State) {a : State} (k : Upkeep a s) :
    Upkeep a (beginSending l what s) := k.elsewhere rfl rfl rfl

theorem heard_upkeep (l : LineNo) (h : Heard) (s : State) {a : State} (k : Upkeep a s) :
    Upkeep a (heard l h s) := k.elsewhere rfl rfl rfl

theorem unheard_upkeep (l : LineNo) (s : State) {a : State} (k : Upkeep a s) :
    Upkeep a (unheard l s) := by
  unfold unheard
  try dsimp only
  (repeat' split) <;> repeat with_reducible first | exact k | apply holdReady_upkeep | apply answer_upkeep | apply State.modProc_upkeep | apply State.modParams_upkeep

theorem answerStored_upkeep (l : LineNo) (what : Sending) (s : State) {a : State} (k : Upkeep a s) :
    Upkeep a (answerStored l what s) := by
  unfold answerStored
  try dsimp only
  (repeat' split) <;> repeat with_reducible first | exact k | apply holdReady_upkeep | apply State.modProc_upkeep

theorem repeatOrDiscard_upkeep (l : LineNo) (h : Heard) (s : State) {a : State} (k : Upkeep a s) :
    Upkeep a (repeatOrDiscard l h s) := by
  unfold repeatOrDiscard
  try dsimp only
  (repeat' split) <;> repeat with_reducible first | exact k | apply unheard_upkeep | apply holdReady_upkeep

theorem releaseLater_upkeep (l : LineNo) (cause : Cause) (s : State) {a : State} (k : Upkeep a s) :
    Upkeep a (releaseLater l cause s) := by
  unfold releaseLater
  try dsimp only
  repeat with_reducible first | exact k | apply holdReady_upkeep | apply State.modCall_upkeep | apply changeState_upkeep

theorem releaseNow_upkeep (l : LineNo) (cause : Cause) (s : State) {a : State} (k : Upkeep a s) :
    Upkeep a (releaseNow l cause s) := by
  unfold releaseNow
  try dsimp only
  repeat with_reducible first | exact k | apply beginSending_upkeep | apply State.modCall_upkeep | apply changeState_upkeep

theorem nextFrame_upkeep (l : LineNo) (s : State) {a : State} (k : Upkeep a s) :
    Upkeep a (nextFrame l s) := by
  unfold nextFrame
  try dsimp only
  (repeat' split) <;> repeat with_reducible first | exact k | apply beginSending_upkeep | apply State.modLine_upkeep

theorem beginFrames_upkeep (l : LineNo) (s : State) {a : State} (k : Upkeep a s) :
    Upkeep a (beginFrames l s) := by
  unfold beginFrames
  try dsimp only
  repeat with_reducible first | exact k | apply nextFrame_upkeep | apply State.modProc_upkeep | apply State.modParams_upkeep

theorem queueFrames_upkeep (l : LineNo) (round : Nat) (frames : List Nat) (s : State) {a : State} (k : Upkeep a s) :
    Upkeep a (queueFrames l round frames s) := k.elsewhere rfl rfl rfl

theorem queueBlock_upkeep (l : LineNo) (s : State) {a : State} (k : Upkeep a s) :
    Upkeep a (queueBlock l s) := k.elsewhere rfl rfl rfl

theorem turnaroundExpiry_upkeep (l : LineNo) (s : State) {a : State} (k : Upkeep a s) :
    Upkeep a (turnaroundExpiry l s) := by
  unfold turnaroundExpiry
  try dsimp only
  (repeat' split) <;> repeat with_reducible first | exact k | apply beginFrames_upkeep | apply releaseNow_upkeep | apply beginSending_upkeep

theorem frameSent_upkeep (l : LineNo) (s : State) {a : State} (k : Upkeep a s) :
    Upkeep a (frameSent l s) := by
  unfold frameSent
  try dsimp only
  (repeat' split) <;> repeat with_reducible first | exact k | apply nextFrame_upkeep | apply releaseNow_upkeep | apply State.modLine_upkeep

theorem afterPageGood_upkeep (l : LineNo) (s : State) {a : State} (k : Upkeep a s) :
    Upkeep a (afterPageGood l s) := by
  unfold afterPageGood
  try dsimp only
  (repeat' split) <;> repeat with_reducible first | exact k | apply answer_upkeep | apply State.modCall_upkeep | apply State.modProc_upkeep | apply changeState_upkeep | apply State.modLine_upkeep

theorem transmissionSent_upkeep (l : LineNo) (s : State) {a : State} (k : Upkeep a s) :
    Upkeep a (transmissionSent l s) := by
  unfold transmissionSent
  try dsimp only
  (repeat' split) <;> repeat with_reducible first | exact k | apply afterPageGood_upkeep | apply beginSending_upkeep | apply State.modProc_upkeep

theorem quitSent_upkeep (l : LineNo) (s : State) {a : State} (k : Upkeep a s) :
    Upkeep a (quitSent l s) := by
  unfold quitSent
  try dsimp only
  (repeat' split) <;> repeat with_reducible first | exact k | apply answer_upkeep | apply hangUp_upkeep

theorem answerWaitExpiry_upkeep (l : LineNo) (s : State) {a : State} (k : Upkeep a s) :
    Upkeep a (answerWaitExpiry l s) := by
  unfold answerWaitExpiry
  try dsimp only
  (repeat' split) <;> repeat with_reducible first | exact k | apply releaseNow_upkeep | apply beginSending_upkeep | apply answer_upkeep | apply hangUp_upkeep | apply State.modProc_upkeep | apply State.modParams_upkeep

theorem remoteToneEnd_upkeep (l : LineNo) (s : State) {a : State} (k : Upkeep a s) :
    Upkeep a (remoteToneEnd l s) := by
  unfold remoteToneEnd
  try dsimp only
  (repeat' split) <;> repeat with_reducible first | exact k | apply holdReady_upkeep

theorem handIdentity_upkeep (l : LineNo) (identity : List Byte) (s : State) {a : State} (k : Upkeep a s) :
    Upkeep a (handIdentity l identity s) := by
  unfold handIdentity
  try dsimp only
  (repeat' split) <;> repeat with_reducible first | exact k | apply State.modProc_upkeep | apply noteSender_upkeep

theorem takeOffer_upkeep (l : LineNo) (identity : List Byte) (rates orders : Byte) (chop : Bool) (cls : ResClass) (s : State) {a : State} (k : Upkeep a s) :
    Upkeep a (takeOffer l identity rates orders chop cls s) := by
  unfold takeOffer
  try dsimp only
  (repeat' split) <;> repeat with_reducible first | exact k | apply handIdentity_upkeep | apply releaseLater_upkeep | apply unheard_upkeep | apply heard_upkeep | apply holdReady_upkeep | apply State.modProc_upkeep | apply changeState_upkeep | apply State.modLine_upkeep

theorem offerReceived_upkeep (l : LineNo) (identity : List Byte) (rates orders : Byte) (chop : Bool) (cls : ResClass) (s : State) {a : State} (k : Upkeep a s) :
    Upkeep a (offerReceived l identity rates orders chop cls s) := by
  unfold offerReceived
  try dsimp only
  (repeat' split) <;> repeat with_reducible first | exact k | apply takeOffer_upkeep | apply repeatOrDiscard_upkeep

theorem takeChoose_upkeep (l : LineNo) (identity : List Byte) (rate : LineRate) (order : BitOrder) (chop : Bool) (classes : Byte) (s : State) {a : State} (k : Upkeep a s) :
    Upkeep a (takeChoose l identity rate order chop classes s) := by
  unfold takeChoose
  try dsimp only
  (repeat' split) <;> repeat with_reducible first | exact k | apply releaseLater_upkeep | apply heard_upkeep | apply holdReady_upkeep | apply State.modParams_upkeep | apply changeState_upkeep

theorem chooseReceived_upkeep (l : LineNo) (identity : List Byte) (rate : LineRate) (order : BitOrder) (chop : Bool) (classes : Byte) (s : State) {a : State} (k : Upkeep a s) :
    Upkeep a (chooseReceived l identity rate order chop classes s) := by
  unfold chooseReceived
  try dsimp only
  (repeat' split) <;> repeat with_reducible first | exact k | apply takeChoose_upkeep | apply repeatOrDiscard_upkeep

theorem stepDownLine_upkeep (l : LineNo) (s : State) {a : State} (k : Upkeep a s) : Upkeep a (stepDownLine l s).1 := by
  unfold stepDownLine
  (repeat' split) <;> dsimp only
  · exact State.modParams_upkeep _ _ _ k
  · exact k
  · exact k

theorem holdBurst_upkeep (l : LineNo) (s : State) {a : State} (k : Upkeep a s) :
    Upkeep a (holdBurst l s) := by
  unfold holdBurst
  try dsimp only
  (repeat' split) <;> repeat with_reducible first | exact k | apply holdReady_upkeep | apply answer_upkeep

theorem trainGoodReceived_upkeep (l : LineNo) (s : State) {a : State} (k : Upkeep a s) :
    Upkeep a (trainGoodReceived l s) := by
  unfold trainGoodReceived
  try dsimp only
  (repeat' split) <;> repeat with_reducible first | exact k | apply queueBlock_upkeep | apply releaseLater_upkeep | apply repeatOrDiscard_upkeep | apply heard_upkeep | apply State.modParams_upkeep | apply changeState_upkeep

theorem trainBadReceived_upkeep (l : LineNo) (s : State) {a : State} (k : Upkeep a s) :
    Upkeep a (trainBadReceived l s) := by
  unfold trainBadReceived
  try dsimp only
  (repeat' split) <;> repeat with_reducible first | exact k | apply holdBurst_upkeep | apply stepDownLine_upkeep | apply releaseLater_upkeep | apply repeatOrDiscard_upkeep | apply heard_upkeep | refine Upkeep.of_fst ‹_ = (_, _)› ?_

theorem answerBad_upkeep (l : LineNo) (rate : LineRate) (s : State) {a : State} (k : Upkeep a s) :
    Upkeep a (answerBad l rate s) := by
  unfold answerBad
  try dsimp only
  (repeat' split) <;> repeat with_reducible first | exact k | apply stepDownLine_upkeep | apply heard_upkeep | apply holdReady_upkeep | apply State.modProc_upkeep | apply changeState_upkeep | refine Upkeep.of_fst ‹_ = (_, _)› ?_

theorem answerGood_upkeep (l : LineNo) (rate : LineRate) (s : State) {a : State} (k : Upkeep a s) :
    Upkeep a (answerGood l rate s) := by
  unfold answerGood
  try dsimp only
  repeat with_reducible first | exact k | apply heard_upkeep | apply holdReady_upkeep | apply changeState_upkeep | apply State.modLine_upkeep

theorem burstReceived_upkeep (l : LineNo) (rate : LineRate) (goodQuality : Bool) (s : State) {a : State} (k : Upkeep a s) :
    Upkeep a (burstReceived l rate goodQuality s) := by
  unfold burstReceived
  try dsimp only
  (repeat' split) <;> repeat with_reducible first | exact k | apply answerGood_upkeep | apply answerBad_upkeep | apply unheard_upkeep

theorem freeSendBuffer_upkeep (l : LineNo) (s : State) {a : State} (k : Upkeep a s) :
    Upkeep a (freeSendBuffer l s) := by
  unfold freeSendBuffer
  try dsimp only
  repeat with_reducible first | exact k | apply fetchOn_upkeep | apply State.modSend_upkeep

theorem blockAccepted_upkeep (l : LineNo) (s : State) {a : State} (k : Upkeep a s) :
    Upkeep a (blockAccepted l s) := by
  unfold blockAccepted
  try dsimp only
  (repeat' split) <;> repeat with_reducible first | exact k | apply freeSendBuffer_upkeep | apply queueBlock_upkeep | apply holdReady_upkeep | apply changeState_upkeep | apply State.modLine_upkeep

theorem resendRound_upkeep (l : LineNo) (marked : List Nat) (s : State) {a : State} (k : Upkeep a s) :
    Upkeep a (resendRound l marked s) := by
  unfold resendRound
  try dsimp only
  (repeat' split) <;> repeat with_reducible first | exact k | apply holdBurst_upkeep | apply stepDownLine_upkeep | apply queueFrames_upkeep | apply releaseLater_upkeep | apply changeState_upkeep | refine Upkeep.of_fst ‹_ = (_, _)› ?_

theorem resendReceived_upkeep (l : LineNo) (marks : List Byte) (s : State) {a : State} (k : Upkeep a s) :
    Upkeep a (resendReceived l marks s) := by
  unfold resendReceived
  try dsimp only
  (repeat' split) <;> repeat with_reducible first | exact k | apply resendRound_upkeep | apply blockAccepted_upkeep | apply releaseLater_upkeep | apply repeatOrDiscard_upkeep | apply heard_upkeep

theorem nextSentPage_upkeep (l : LineNo) (s : State) {a : State} (k : Upkeep a s) :
    Upkeep a (nextSentPage l s) := by
  unfold nextSentPage
  try dsimp only
  repeat with_reducible first | exact k | apply queueBlock_upkeep | apply changeState_upkeep | apply State.modLine_upkeep

theorem pageGoodReceived_upkeep (l : LineNo) (s : State) {a : State} (k : Upkeep a s) :
    Upkeep a (pageGoodReceived l s) := by
  unfold pageGoodReceived
  try dsimp only
  (repeat' split) <;> repeat with_reducible first | exact k | apply nextSentPage_upkeep | apply releaseLater_upkeep | apply repeatOrDiscard_upkeep | apply heard_upkeep | apply State.modCall_upkeep | apply confirmPage_upkeep

theorem pageFailedReceived_upkeep (l : LineNo) (s : State) {a : State} (k : Upkeep a s) :
    Upkeep a (pageFailedReceived l s) := by
  unfold pageFailedReceived
  try dsimp only
  (repeat' split) <;> repeat with_reducible first | exact k | apply repeatOrDiscard_upkeep | apply heard_upkeep | apply answer_upkeep | apply State.modCall_upkeep | apply State.modProc_upkeep | apply changeState_upkeep

theorem quitReceived_upkeep (l : LineNo) (s : State) {a : State} (k : Upkeep a s) :
    Upkeep a (quitReceived l s) := by
  unfold quitReceived
  try dsimp only
  (repeat' split) <;> repeat with_reducible first | exact k | apply unheard_upkeep | apply hangUp_upkeep

theorem frameReceived_upkeep (l : LineNo) (octets : List Byte) (s : State) {a : State} (k : Upkeep a s) :
    Upkeep a (frameReceived l octets s) := by
  unfold frameReceived
  try dsimp only
  (repeat' split) <;> repeat with_reducible first | exact k | apply State.modRecv_upkeep | apply State.modProc_upkeep

theorem storeFails_upkeep (l : LineNo) (sub : StoreSub) (s : State) {a : State} (k : Upkeep a s) :
    Upkeep a (storeFails l sub s) := by
  unfold storeFails
  try dsimp only
  repeat with_reducible first | exact k | apply answerStored_upkeep | apply closeReceived_upkeep | apply State.modCall_upkeep | apply changeState_upkeep | apply withdraw_upkeep | apply State.modLine_upkeep

theorem blockStored_upkeep (l : LineNo) (s : State) {a : State} (k : Upkeep a s) :
    Upkeep a (blockStored l s) := by
  unfold blockStored
  try dsimp only
  repeat with_reducible first | exact k | apply answerStored_upkeep | apply State.modLine_upkeep

theorem writeNext_upkeep (l : LineNo) (s : State) {a : State} (k : Upkeep a s) :
    Upkeep a (writeNext l s) := by
  unfold writeNext
  try dsimp only
  (repeat' split) <;> repeat with_reducible first | exact k | apply blockStored_upkeep | apply storeFails_upkeep | apply State.modProc_upkeep | apply askWrite_upkeep | refine Upkeep.of_fst ‹_ = (_, _)› ?_

theorem openReceived_upkeep (l : LineNo) (s : State) {a t : State} (k : Upkeep a s) (done : openReceived l s = .ok t) :
    Upkeep a t := by
  unfold openReceived at done
  (repeat' split at done) <;> cases done <;> first
    | exact k
    | exact State.modInDoc_upkeep _ _ _ (openPage_upkeep _ _ _ _ k ‹_›)

theorem storeBlock_upkeep (l : LineNo) (count : Nat) (final : Option Nat) (s : State) {a : State} (k : Upkeep a s) :
    Upkeep a (storeBlock l count final s) := by
  unfold storeBlock
  split
  · exact storeFails_upkeep _ _ _ k
  · exact writeNext_upkeep _ _ (State.modRecv_upkeep _ _ _ (openReceived_upkeep _ _ k ‹_›))

theorem answerMarks_upkeep (l : LineNo) (round : Nat) (missing : List Nat) (s : State) {a : State} (k : Upkeep a s) :
    Upkeep a (answerMarks l round missing s) := by
  unfold answerMarks
  try dsimp only
  (repeat' split) <;> repeat with_reducible first | exact k | apply stepDownLine_upkeep | apply holdReady_upkeep | apply State.modRecv_upkeep | apply State.modProc_upkeep | apply changeState_upkeep | apply State.modLine_upkeep | refine Upkeep.of_fst ‹_ = (_, _)› ?_

theorem blockEndReceived_upkeep (l : LineNo) (sequence block round count : Nat) (final : Option Nat) (s : State) {a : State} (k : Upkeep a s) :
    Upkeep a (blockEndReceived l sequence block round count final s) := by
  unfold blockEndReceived
  try dsimp only
  (repeat' split) <;> repeat with_reducible first | exact k | apply answerMarks_upkeep | apply storeBlock_upkeep | apply repeatOrDiscard_upkeep | apply unheard_upkeep | apply heard_upkeep

theorem pageReceived_upkeep (l : LineNo) (held : Bool) (s : State) {a : State} (k : Upkeep a s) :
    Upkeep a (pageReceived l held s) := by
  unfold pageReceived
  try dsimp only
  (repeat' split) <;> repeat with_reducible first | exact k | apply answerStored_upkeep | apply State.modCall_upkeep | apply listAndTell_upkeep | apply State.modLine_upkeep

theorem pageRefused_upkeep (l : LineNo) (held : Bool) (s : State) {a : State} (k : Upkeep a s) :
    Upkeep a (pageRefused l held s) := by
  unfold pageRefused
  try dsimp only
  (repeat' split) <;> repeat with_reducible first | exact k | apply storeFails_upkeep | apply State.modCall_upkeep | apply listAndTell_upkeep

theorem takePageEnd_upkeep (l : LineNo) (lineCount : Nat) (next : Option ResClass) (s : State) {a : State} (k : Upkeep a s) :
    Upkeep a (takePageEnd l lineCount next s) := by
  unfold takePageEnd
  try dsimp only
  (repeat' split) <;> repeat with_reducible first | exact k | apply pageRefused_upkeep | apply pageReceived_upkeep | apply answer_upkeep | apply State.modProc_upkeep | apply changeState_upkeep | apply startClose_upkeep | refine Upkeep.of_fst ‹_ = (_, _)› ?_

theorem pageEndReceived_upkeep (l : LineNo) (sequence lineCount : Nat) (next : Option ResClass) (s : State) {a : State} (k : Upkeep a s) :
    Upkeep a (pageEndReceived l sequence lineCount next s) := by
  unfold pageEndReceived
  try dsimp only
  (repeat' split) <;> repeat with_reducible first | exact k | apply takePageEnd_upkeep | apply repeatOrDiscard_upkeep | apply unheard_upkeep | apply heard_upkeep

theorem carrierBegin_upkeep (l : LineNo) (trainingBurst : Bool) (s : State) {a : State} (k : Upkeep a s) :
    Upkeep a (carrierBegin l trainingBurst s) := by
  unfold carrierBegin
  try dsimp only
  (repeat' split) <;> repeat with_reducible first | exact k | apply State.modProc_upkeep | apply State.modParams_upkeep

theorem carrierAbsent_upkeep (l : LineNo) (s : State) {a : State} (k : Upkeep a s) :
    Upkeep a (carrierAbsent l s) := by
  unfold carrierAbsent
  try dsimp only
  (repeat' split) <;> repeat with_reducible first | exact k | apply unheard_upkeep | apply State.modParams_upkeep

theorem carrierReturn_upkeep (l : LineNo) (s : State) {a : State} (k : Upkeep a s) :
    Upkeep a (carrierReturn l s) := by
  unfold carrierReturn
  try dsimp only
  (repeat' split) <;> repeat with_reducible first | exact k | apply State.modParams_upkeep

theorem carrierLossExpiry_upkeep (l : LineNo) (s : State) {a : State} (k : Upkeep a s) :
    Upkeep a (carrierLossExpiry l s) := by
  unfold carrierLossExpiry
  try dsimp only
  (repeat' split) <;> repeat with_reducible first | exact k | apply hangUp_upkeep | apply changeState_upkeep

theorem invalidTransmission_upkeep (l : LineNo) (s : State) {a : State} (k : Upkeep a s) :
    Upkeep a (invalidTransmission l s) := by
  unfold invalidTransmission
  try dsimp only
  (repeat' split) <;> repeat with_reducible first | exact k | apply unheard_upkeep

theorem pageOpenWrite_upkeep (body : List Byte) (s : State) {a t : State} {x} (k : Upkeep a s)
    (done : pageOpenWrite body s = .ok (t, x)) : Upkeep a t := by
  unfold pageOpenWrite at done
  (repeat' split at done) <;> cases done
  exact openPage_upkeep _ _ _ _ k ‹_›

theorem freePort_upkeep (s : State) {a : State} (k : Upkeep a s) :
    Upkeep a (freePort s) := k.elsewhere rfl rfl rfl

theorem endFill_upkeep (l : LineNo) (s : State) {a : State} (k : Upkeep a s) :
    Upkeep a (endFill l s) := by
  unfold endFill
  try dsimp only
  (repeat' split) <;> repeat with_reducible first | exact k | apply nextFrame_upkeep

theorem prefixRead_upkeep (body : List Byte) (s : State) {a t : State} {x} (k : Upkeep a s) (done : prefixRead body s = .ok (t, x)) : Upkeep a t := by
  unfold prefixRead at done
  try dsimp only at done
  (repeat' split at done) <;> first
    | (simp at done; done)
    | (simp only [Except.ok.injEq, Prod.mk.injEq] at done; obtain ⟨rfl, -⟩ := done; repeat with_reducible first | exact k)

theorem prefixTest_upkeep (body : List Byte) (s : State) {a t : State} {x} (k : Upkeep a s) (done : prefixTest body s = .ok (t, x)) : Upkeep a t := by
  unfold prefixTest at done
  try dsimp only at done
  (repeat' split at done) <;> first
    | (simp at done; done)
    | (simp only [Except.ok.injEq, Prod.mk.injEq] at done; obtain ⟨rfl, -⟩ := done; repeat with_reducible first | exact k)

theorem zoneRead_upkeep (body : List Byte) (s : State) {a t : State} {x} (k : Upkeep a s) (done : zoneRead body s = .ok (t, x)) : Upkeep a t := by
  unfold zoneRead at done
  try dsimp only at done
  (repeat' split at done) <;> first
    | (simp at done; done)
    | (simp only [Except.ok.injEq, Prod.mk.injEq] at done; obtain ⟨rfl, -⟩ := done; repeat with_reducible first | exact k)

theorem bandRead_upkeep (body : List Byte) (s : State) {a t : State} {x} (k : Upkeep a s) (done : bandRead body s = .ok (t, x)) : Upkeep a t := by
  unfold bandRead at done
  try dsimp only at done
  (repeat' split at done) <;> first
    | (simp at done; done)
    | (simp only [Except.ok.injEq, Prod.mk.injEq] at done; obtain ⟨rfl, -⟩ := done; repeat with_reducible first | exact k)

theorem weekdayRead_upkeep (body : List Byte) (s : State) {a t : State} {x} (k : Upkeep a s) (done : weekdayRead body s = .ok (t, x)) : Upkeep a t := by
  unfold weekdayRead at done
  try dsimp only at done
  (repeat' split at done) <;> first
    | (simp at done; done)
    | (simp only [Except.ok.injEq, Prod.mk.injEq] at done; obtain ⟨rfl, -⟩ := done; repeat with_reducible first | exact k)

theorem holidayRead_upkeep (body : List Byte) (s : State) {a t : State} {x} (k : Upkeep a s) (done : holidayRead body s = .ok (t, x)) : Upkeep a t := by
  unfold holidayRead at done
  try dsimp only at done
  (repeat' split at done) <;> first
    | (simp at done; done)
    | (simp only [Except.ok.injEq, Prod.mk.injEq] at done; obtain ⟨rfl, -⟩ := done; repeat with_reducible first | exact k)

theorem priceRead_upkeep (body : List Byte) (s : State) {a t : State} {x} (k : Upkeep a s) (done : priceRead body s = .ok (t, x)) : Upkeep a t := by
  unfold priceRead at done
  try dsimp only at done
  (repeat' split at done) <;> first
    | (simp at done; done)
    | (simp only [Except.ok.injEq, Prod.mk.injEq] at done; obtain ⟨rfl, -⟩ := done; repeat with_reducible first | exact k)

theorem deskSet_upkeep (body : List Byte) (s : State) {a t : State} {x} (k : Upkeep a s) (done : deskSet body s = .ok (t, x)) : Upkeep a t := by
  unfold deskSet at done
  try dsimp only at done
  (repeat' split at done) <;> first
    | (simp at done; done)
    | (simp only [Except.ok.injEq, Prod.mk.injEq] at done; obtain ⟨rfl, -⟩ := done; repeat with_reducible first | exact k | apply deskTest_upkeep | apply State.setDesk_upkeep)

theorem deskClearOne_upkeep (s : State) (n : Nat) {a : State} (k : Upkeep a s) :
    Upkeep a (deskClearOne s n) := by
  unfold deskClearOne
  try dsimp only
  (repeat' split) <;> repeat with_reducible first | exact k | apply State.setDesk_upkeep | apply askPass_upkeep

theorem deskClear_upkeep (body : List Byte) (s : State) {a t : State} {x} (k : Upkeep a s)
    (done : deskClear body s = .ok (t, x)) : Upkeep a t := by
  unfold deskClear at done
  (repeat' split at done) <;> cases done
  exact foldl_upkeep (fun _ s n k => deskClearOne_upkeep s n k) _ k

theorem deskRead_upkeep (body : List Byte) (s : State) {a t : State} {x} (k : Upkeep a s) (done : deskRead body s = .ok (t, x)) : Upkeep a t := by
  unfold deskRead at done
  try dsimp only at done
  (repeat' split at done) <;> first
    | (simp at done; done)
    | (simp only [Except.ok.injEq, Prod.mk.injEq] at done; obtain ⟨rfl, -⟩ := done; repeat with_reducible first | exact k)

theorem logRead_upkeep (body : List Byte) (s : State) {a t : State} {x} (k : Upkeep a s) (done : logRead body s = .ok (t, x)) : Upkeep a t := by
  unfold logRead at done
  try dsimp only at done
  (repeat' split at done) <;> first
    | (simp at done; done)
    | (simp only [Except.ok.injEq, Prod.mk.injEq] at done; obtain ⟨rfl, -⟩ := done; repeat with_reducible first | exact k)

theorem logDiscard_upkeep (body : List Byte) (s : State) {a t : State} {x} (k : Upkeep a s) (done : logDiscard body s = .ok (t, x)) : Upkeep a t := by
  unfold logDiscard at done
  try dsimp only at done
  (repeat' split at done) <;> first
    | (simp at done; done)
    | (simp only [Except.ok.injEq, Prod.mk.injEq] at done; obtain ⟨rfl, -⟩ := done; repeat with_reducible first | exact k | apply askPass_upkeep | apply Upkeep.mk_blocks | apply Upkeep.mk_port)

theorem raiseCheck_upkeep (cause : CheckCause) (candidate : List Byte) (s : State) {a : State} (k : Upkeep a s) :
    Upkeep a (raiseCheck cause candidate s) := by
  unfold raiseCheck
  try dsimp only
  repeat with_reducible first | exact k | apply raise_upkeep

theorem identify_upkeep (body : List Byte) (s : State) {a t : State} {x} (k : Upkeep a s) (done : identify body s = .ok (t, x)) : Upkeep a t := by
  unfold identify at done
  try dsimp only at done
  (repeat' split at done) <;> first
    | (simp at done; done)
    | (simp only [Except.ok.injEq, Prod.mk.injEq] at done; obtain ⟨rfl, -⟩ := done; repeat with_reducible first | exact k)

theorem configGet_upkeep (body : List Byte) (s : State) {a t : State} {x} (k : Upkeep a s) (done : configGet body s = .ok (t, x)) : Upkeep a t := by
  unfold configGet at done
  try dsimp only at done
  (repeat' split at done) <;> first
    | (simp at done; done)
    | (simp only [Except.ok.injEq, Prod.mk.injEq] at done; obtain ⟨rfl, -⟩ := done; repeat with_reducible first | exact k)

theorem raiseSuspect_upkeep (cause : SuspectCause) (already : Bool) (s : State) {a : State} (k : Upkeep a s) :
    Upkeep a (raiseSuspect cause already s) := by
  unfold raiseSuspect
  try dsimp only
  repeat with_reducible first | exact k | apply raise_upkeep

theorem markClockStep_upkeep (s : State) {a : State} (k : Upkeep a s) : Upkeep a (markClockStep s) := by
  refine foldl_upkeep (fun _ s l k => ?_) _ k
  split
  · exact State.modCall_upkeep _ _ _ k
  · exact k

theorem clockRead_upkeep (body : List Byte) (s : State) {a t : State} {x} (k : Upkeep a s) (done : clockRead body s = .ok (t, x)) : Upkeep a t := by
  unfold clockRead at done
  try dsimp only at done
  (repeat' split at done) <;> first
    | (simp at done; done)
    | (simp only [Except.ok.injEq, Prod.mk.injEq] at done; obtain ⟨rfl, -⟩ := done; repeat with_reducible first | exact k)

theorem readPrinterSensors_upkeep (paperAbsent jamReported : Bool) (s : State) {a : State} (k : Upkeep a s) :
    Upkeep a (readPrinterSensors paperAbsent jamReported s) := by
  unfold readPrinterSensors
  try dsimp only
  (repeat' split) <;> repeat with_reducible first | exact k | apply jamIndication_upkeep | apply paperGoesOut_upkeep

theorem resetAllLines_upkeep (quiet : Bool) (s : State) {a : State} (k : Upkeep a s) :
    Upkeep a (resetAllLines quiet s) := by
  unfold resetAllLines; exact foldl_upkeep (fun a s x k => by repeat with_reducible first | exact k | apply resetLine_upkeep) _ k

theorem resetScopeLines_upkeep (body : List Byte) (s : State) {a t : State} {x} (k : Upkeep a s) (done : resetScopeLines body s = .ok (t, x)) : Upkeep a t := by
  unfold resetScopeLines at done
  try dsimp only at done
  (repeat' split at done) <;> first
    | (simp at done; done)
    | (simp only [Except.ok.injEq, Prod.mk.injEq] at done; obtain ⟨rfl, -⟩ := done; repeat with_reducible first | exact k | apply resetAllLines_upkeep | apply scanRetry_upkeep)

end Sys2Proof.Machine
end

section
/-! SUPPORT. `Upkeep` for the commands that leave a reply owed, for the store port's steps and for RESET of the engine
(R7, R17, R207, R214). -/

namespace Sys2Proof.Machine

/-- The part with a reply owed for the command just taken (R207). -/
def State.dueReply (s : State) : State := s.setJob (some (.closePage 0 ⟨0, 0⟩))

theorem Upkeep.dueReply_of_job {a s : State} (job : s.link.job.isSome) (k : Upkeep a s) : Upkeep a s.dueReply :=
  k.onLink rfl rfl id (by simp [Link.owed, State.dueReply, State.setJob, job])

/-- The reply owed waits on the store. -/
theorem Upkeep.due_job {s t : State} (j : HostJob) (link : t.link = s.link)
    (segments : s.store.accounted → t.store.accounted) : Upkeep s.dueReply (t.setJob (some j)) :=
  ⟨fun x => by simpa [State.setJob, link, Link.noticesInRange, State.dueReply] using x,
    by simp [Link.owed, State.dueReply, State.setJob, link], segments⟩

/-- The reply owed is formed. -/
theorem Upkeep.due_reply {s t : State} (kind tag : Byte) (status : Status) (fields : List Byte) (job : s.link.job = none)
    (k : Upkeep s t) : Upkeep s.dueReply (reply kind tag status fields t) :=
  ⟨k.notices, by
    have owed : t.link.replies.length + (if t.link.job.isSome then 1 else 0) = s.link.replies.length + 0 := by
      simpa [Link.owed, job] using k.owed
    change (t.link.replies ++ [_]).length + (if t.link.job.isSome then 1 else 0) = s.link.replies.length + 1
    rw [List.length_append, List.length_singleton]; omega, k.segments⟩

theorem Upkeep.due_refuse {s : State} (kind tag : Byte) (status : Status) (job : s.link.job = none) :
    Upkeep s.dueReply (refuse kind tag status s) := .due_reply _ _ _ _ job (.refl s)

/-- An operation of the rest of the part, the reply being owed. -/
theorem Upkeep.due_trans {s t u : State} (k : Upkeep s.dueReply t) (g : Upkeep t u) : Upkeep s.dueReply u := k.trans g

theorem askWrite_link (c : Client) (h : PageHandle) (data : List Byte) (close : Option CloseReq) (s : State) :
    (askWrite c h data close s).1.link = s.link := by unfold askWrite; split <;> rfl

/-- A reply is formed in place of the job that waited. -/
theorem Upkeep.due_setJob_none {s t : State} (kind tag : Byte) (status : Status) (fields : List Byte)
    (link : t.link = s.link) (k : Upkeep s t) : Upkeep s.dueReply (reply kind tag status fields (t.setJob none)) :=
  Upkeep.due_reply (s := s.setJob none) _ _ _ _ rfl
    ⟨fun x => by simpa [State.setJob, link, Link.noticesInRange] using x, by simp [Link.owed, State.setJob, link],
      k.segments⟩

theorem setPending_upkeep (s : State) (n : Nat) (octets : List Byte) {a : State} (k : Upkeep a s) :
    Upkeep a (s.modEntry n fun e => { e with pending := octets }) :=
  modEntry_same_upkeep _ _ _ (fun _ => rfl) (fun _ => id) k

theorem askWrite_eq_upkeep {c : Client} {h : PageHandle} {data : List Byte} {close : Option CloseReq} {s t : State}
    {r : Allocation} (e : askWrite c h data close s = (t, r)) : t.link = s.link ∧ Upkeep s t := by
  have link := askWrite_link c h data close s
  have k := askWrite_upkeep c h data close s (.refl s)
  rw [e] at link k
  exact ⟨link, k⟩

theorem writeOn_due (tag : Byte) (h : PageHandle) (left : List Byte) (fromPending accepted : Nat) (s : State) :
    Upkeep s.dueReply (writeOn tag h left fromPending accepted s) := by
  unfold writeOn
  split
  · split
    · rename_i asked
      obtain ⟨link, k⟩ := askWrite_eq_upkeep asked
      exact .due_job _ link k.segments
    · rename_i asked
      obtain ⟨link, asked⟩ := askWrite_eq_upkeep asked
      exact .due_setJob_none _ _ _ _ link (setPending_upkeep _ _ _ asked)
  · exact .due_setJob_none _ _ _ _ rfl (setPending_upkeep _ _ _ (.refl s))

theorem writeCommitted_due (tag : Byte) (h : PageHandle) (left : List Byte) (fromPending accepted : Nat) (s : State) :
    Upkeep s.dueReply (writeCommitted tag h left fromPending accepted s) := writeOn_due ..

theorem writeRefused_due (tag : Byte) (h : PageHandle) (left : List Byte) (fromPending accepted : Nat) (s : State) :
    Upkeep s.dueReply (writeRefused tag h left fromPending accepted s) :=
  .due_setJob_none _ _ _ _ rfl (setPending_upkeep _ _ _ (.refl s))

theorem pageWriteData_due (tag : Byte) (body : List Byte) (s : State) (job : s.link.job = none) :
    Upkeep s.dueReply (pageWriteData tag body s) := by
  unfold pageWriteData
  dsimp only
  (repeat' split) <;> first | exact .due_refuse _ _ _ job | exact writeOn_due ..

theorem closeUpload_due (tag : Byte) (h : PageHandle) (req : CloseReq) (s : State) :
    Upkeep s.dueReply (closeUpload tag h req s) :=
  Upkeep.due_reply (s := s.setJob none) _ _ _ _ rfl (finishClose_upkeep _ _ _ _ (.refl _))

theorem pageClose_due (tag : Byte) (body : List Byte) (s : State) (job : s.link.job = none) :
    Upkeep s.dueReply (pageClose tag body s) := by
  unfold pageClose
  dsimp only
  split
  · split
    · exact .due_refuse _ _ _ job
    split
    · exact closeUpload_due ..
    split
    · rename_i asked
      obtain ⟨link, k⟩ := askWrite_eq_upkeep asked
      exact .due_job _ link k.segments
    · rename_i asked
      obtain ⟨link, k⟩ := askWrite_eq_upkeep asked
      exact (Upkeep.due_job _ link k.segments).trans (closeUpload_due ..)
  · exact .due_refuse _ _ _ job

theorem readReply_due (tag : Byte) (offset count : Nat) (got : List Byte) (damaged : Bool) (s : State) :
    Upkeep s.dueReply (readReply tag offset count got damaged s) := .due_setJob_none _ _ _ _ rfl (.refl s)

theorem readOn_due (tag : Byte) (h : PageHandle) (offset count next : Nat) (got : List Byte) (damaged : Bool) (s : State) :
    Upkeep s.dueReply (readOn tag h offset count next got damaged s) := by
  unfold readOn
  split
  · exact askRead_upkeep _ _ _ _ (.due_job _ rfl id)
  · exact readReply_due ..

theorem pageRead_due (tag : Byte) (body : List Byte) (s : State) (job : s.link.job = none) :
    Upkeep s.dueReply (pageRead tag body s) := by
  unfold pageRead
  dsimp only
  (repeat' split) <;> first | exact .due_refuse _ _ _ job | exact readOn_due ..

theorem pageInfo_due (tag : Byte) (body : List Byte) (s : State) (job : s.link.job = none) :
    Upkeep s.dueReply (pageInfo tag body s) := by
  unfold pageInfo
  (repeat' split) <;> exact .due_reply _ _ _ _ job (.refl s)

theorem linkRate_due (tag : Byte) (body : List Byte) (s : State) (job : s.link.job = none) :
    Upkeep s.dueReply (linkRate tag body s) := by
  unfold linkRate
  split
  · split
    · exact .due_refuse _ _ _ job
    · exact ⟨id, by simp [Link.owed, State.dueReply, State.setJob, job], id⟩
  · exact .due_refuse _ _ _ job

theorem pagePin_upkeep (body : List Byte) (s : State) {a t : State} {x} (k : Upkeep a s)
    (done : pagePin body s = .ok (t, x)) : Upkeep a t := by
  unfold pagePin at done
  dsimp only at done
  (repeat' split at done) <;> cases done
  rename_i named _
  exact setEntry_page_upkeep named rfl rfl k

theorem pageUnpin_upkeep (body : List Byte) (s : State) {a t : State} {x} (k : Upkeep a s)
    (done : pageUnpin body s = .ok (t, x)) : Upkeep a t := by
  unfold pageUnpin at done
  dsimp only at done
  (repeat' split at done) <;> cases done
  rename_i named _
  exact scanRetry_upkeep _ (releaseTest_upkeep _ _ (setEntry_page_upkeep named rfl rfl k))

theorem pageDrop_upkeep (body : List Byte) (s : State) {a t : State} {x} (k : Upkeep a s)
    (done : pageDrop body s = .ok (t, x)) : Upkeep a t := by
  unfold pageDrop at done
  dsimp only at done
  split at done
  · split at done
    · cases done
    · rename_i named
      cases done
      refine scanRetry_upkeep _ ?_
      split
      · exact discardPage_upkeep _ _ k
      · exact releaseTest_upkeep _ _ (setEntry_page_upkeep named rfl rfl k)
  · cases done

theorem readPaper_upkeep (s : State) {a : State} (k : Upkeep a s) : Upkeep a (readPaper s) := k.elsewhere rfl rfl rfl

theorem dropRequest_upkeep (r : Request) (s : State) {a : State} (k : Upkeep a s) : Upkeep a (dropRequest r s) :=
  k.elsewhere rfl rfl rfl

theorem grantTo_upkeep (r : Request) (s : State) {a : State} (k : Upkeep a s) : Upkeep a (grantTo r s) :=
  k.elsewhere rfl rfl rfl

theorem closeRefused_upkeep (c : Client) (h : PageHandle) (req : CloseReq) (r : Allocation) (s : State) {a : State}
    (k : Upkeep a s) : Upkeep a (closeRefused c h req r s) := by
  have closed (q : CloseReq) := finishClose_upkeep false h q s k
  unfold closeRefused
  dsimp only
  split
  · split
    · exact k
    split
    · exact limitPage_upkeep _ k
    · refine pageDone_upkeep _ _ ?_
      split
      · exact readPaper_upkeep _ (closed _)
      · exact closed _
  · exact pageRefused_upkeep _ _ _ (closed _)
  · split
    · rename_i job
      exact (k.dueReply_of_job (by rw [job]; rfl)).trans (closeUpload_due ..)
    · exact k
  · exact k

theorem blockRefused_upkeep (c : Client) (r : Allocation) (s : State) {a : State} (k : Upkeep a s) :
    Upkeep a (blockRefused c r s) := by
  unfold blockRefused
  split
  · exact scanRefused_upkeep _ _ k
  · exact storeFails_upkeep _ _ _ k
  · split
    · rename_i job
      exact (k.dueReply_of_job (by rw [job]; rfl)).trans (writeRefused_due ..)
    · exact k
  · exact k

theorem grantStep_upkeep (s : State) {a : State} (k : Upkeep a s) : Upkeep a (grantStep s) := by
  have dropped (r : Request) := dropRequest_upkeep r s k
  unfold grantStep
  dsimp only
  (repeat' split) <;> first
    | exact k
    | exact grantTo_upkeep _ _ (dropped _)
    | exact blockRefused_upkeep _ _ _ (dropped _)
    | exact closeRefused_upkeep _ _ _ _ _ (dropped _)

theorem moveBlock_upkeep (addr : Nat) (data : List Byte) (s : State) {a : State} (k : Upkeep a s) :
    Upkeep a (moveBlock addr data s) := k.elsewhere rfl rfl rfl

/-- A block committed takes the pool's head into its page's chain, where it needs one (R7). -/
theorem commitBlock_upkeep (h : PageHandle) (code : Nat) (s : State) {a : State} (there : s.takesBlock h = true)
    (k : Upkeep a s) : Upkeep a (commitBlock h code s) := by
  obtain ⟨open_, room⟩ : (s.entry h.slot).state = .opened ∧
      ((s.entry h.slot).needsSegment = true → s.store.pool.head ≠ none) := by
    unfold State.takesBlock at there
    split at there
    · rename_i named
      obtain ⟨-, rfl, -, -⟩ := State.page_some named
      simpa [or_iff_not_imp_left, Option.isSome_iff_ne_none] using there
    · cases there
  have free (e : PageEntry) (he : e.state = (s.entry h.slot).state) : e.state = .free → e.chain = [] :=
    fun x => nomatch (he.trans open_).symm.trans x
  unfold commitBlock
  dsimp only
  split
  · rename_i grow
    refine lowTest_upkeep _ (k.trans ⟨id, rfl, fun x => Store.accounted_set (k := h.slot) x rfl (free _ rfl) ?_⟩)
    obtain ⟨n, ns, pool⟩ : ∃ n ns, s.store.pool.toList = n :: ns :=
      List.exists_cons_of_ne_nil (List.head?_eq_none_iff.not.mp (SegPool.head_eq _ ▸ room grow))
    simp only [SegPool.head_eq, SegPool.tail_eq, pool, List.head?_cons, List.tail_cons, Option.toList_some, State.entry]
    simp only [List.perm_iff_count, List.count_append, List.count_cons, List.count_nil]
    intro m; omega
  · refine k.trans ⟨id, rfl, fun x => Store.accounted_set (k := h.slot) x rfl (free _ rfl) ?_⟩
    simp [State.entry]

theorem closeCommitted_upkeep (c : Client) (h : PageHandle) (req : CloseReq) (s : State) {a : State} (k : Upkeep a s) :
    Upkeep a (closeCommitted c h req s) := by
  unfold closeCommitted
  dsimp only
  split
  · have counted := State.modScan_upkeep s (Scan.countLines (s.entry h.slot).byteLen) k
    split
    · exact counted
    · exact pageDone_upkeep _ _ (finishClose_upkeep _ _ _ _ counted)
  · exact pageReceived_upkeep _ _ _ (finishClose_upkeep _ _ _ _ k)
  · split
    · rename_i job
      exact (k.dueReply_of_job (by rw [job]; rfl)).trans (closeUpload_due ..)
    · exact k
  · exact k

theorem blockCommitted_upkeep (c : Client) (h : PageHandle) (s : State) {a : State} (k : Upkeep a s) :
    Upkeep a (blockCommitted c h s) := by
  unfold blockCommitted
  split
  · exact scanCommitted_upkeep _ _ k
  · exact writeNext_upkeep _ _ (State.modRecv_upkeep _ _ _ k)
  · split
    · rename_i job
      exact (k.dueReply_of_job (by rw [job]; rfl)).trans (writeCommitted_due ..)
    · exact k
  · exact k

theorem writeStep_upkeep (s : State) {a : State} (k : Upkeep a s) : Upkeep a (writeStep s) := by
  have moved (addr : Nat) (data : List Byte) := moveBlock_upkeep addr data _ (freePort_upkeep s k)
  unfold writeStep
  dsimp only
  split
  · exact k
  split
  · exact k
  split
  · exact moved _ _
  · rename_i live
    simp only [Bool.or_eq_true, Bool.not_eq_true', not_or, Bool.not_eq_false] at live
    obtain ⟨-, there⟩ := live
    split
    · exact blockCommitted_upkeep _ _ _ (commitBlock_upkeep _ _ _ there (moved _ _))
    · exact closeCommitted_upkeep _ _ _ _ (commitBlock_upkeep _ _ _ there (moved _ _))

theorem checkRead_upkeep (h : PageHandle) (n : Nat) (matched : Bool) (s : State) {a : State} (k : Upkeep a s) :
    Upkeep a (checkRead h n matched s) := by
  unfold checkRead markDamaged
  dsimp only
  (repeat' split) <;> first
    | exact k
    | exact raise_upkeep _ _ (State.setEntry_upkeep rfl id k)

theorem deliver_upkeep (c : Client) (data : List Byte) (matched : Bool) (s : State) {a : State} (k : Upkeep a s) :
    Upkeep a (deliver c data matched s) := by
  unfold deliver
  split
  · exact endFill_upkeep _ _ (fetchOn_upkeep _ _ _ (State.modSend_upkeep _ _ _ k))
  · exact engineOn_upkeep _ (State.modEngine_upkeep _ _ k)
  · split
    · rename_i job
      exact (k.dueReply_of_job (by rw [job]; rfl)).trans (readOn_due ..)
    · exact k
  · exact k

theorem readGone_upkeep (c : Client) (s : State) {a : State} (k : Upkeep a s) : Upkeep a (readGone c s) := by
  unfold readGone
  split
  · rename_i job
    exact reply_setJob_upkeep (by rw [job]; rfl) k
  · exact k

theorem readStep_upkeep (disturbed : List (Nat × Byte)) (s : State) {a : State} (k : Upkeep a s) :
    Upkeep a (readStep disturbed s) := by
  have checked (p : PageHandle) (n : Nat) (m : Bool) := checkRead_upkeep p n m _ (freePort_upkeep s k)
  unfold readStep
  dsimp only
  (repeat' split) <;> first
    | exact k
    | exact readGone_upkeep _ _ (checked _ _ _)
    | exact deliver_upkeep _ _ _ _ (checked _ _ _)

/-- With every page freed and the pool as at the first filling, every segment is in the pool (R24). -/
theorem Store.accounted_scopeReset {t : Store} (h : t.accounted) (u : Store) : (u.scopeReset t.dir).accounted := by
  obtain ⟨sorted, -, -, -, -⟩ := h
  refine ⟨?_, rfl, rfl, ?_, ?_⟩
  · simpa [Store.scopeReset, Table.map, List.pairwise_map] using sorted
  · intro c hc _
    obtain ⟨c', -, rfl⟩ := List.mem_map.mp hc
    rfl
  · have empty : (u.scopeReset t.dir).chained = [] := by
      refine List.flatMap_eq_nil_iff.mpr fun c hc => ?_
      obtain ⟨c', -, rfl⟩ := List.mem_map.mp hc
      rfl
    rw [empty, List.append_nil]
    exact .of_eq (by simp [Store.scopeReset, SegPool.toList, SegPool.reset, List.range_eq_range'])

theorem scopeEngine_upkeep (s : State) {a : State} (k : Upkeep a s) : Upkeep a (scopeEngine s) := by
  have ended := resetAllLines_upkeep true _ (State.modEngine_upkeep s Engine.scopeReset (.refl s))
  have cleared (t : State) (link : t.link = (resetAllLines true (s.modEngine Engine.scopeReset)).link)
      (store : t.store = (resetAllLines true (s.modEngine Engine.scopeReset)).store.scopeReset s.store.dir) : Upkeep a t :=
    k.trans ⟨fun x => link ▸ ended.notices x, link ▸ ended.owed, fun x => store ▸ Store.accounted_scopeReset x _⟩
  unfold scopeEngine
  dsimp only
  split
  · exact jamIndication_upkeep _ (cleared _ rfl rfl)
  · exact cleared _ rfl rfl

theorem resetScopeEngine_upkeep (body : List Byte) (s : State) {a t : State} {x} (k : Upkeep a s)
    (done : resetScopeEngine body s = .ok (t, x)) : Upkeep a t := by
  unfold resetScopeEngine at done
  (repeat' split at done) <;> cases done
  exact scopeEngine_upkeep _ k

end Sys2Proof.Machine
end

section
/-! SUPPORT. Every row completes, leaves the queue of waiting commands alone, and keeps the two invariants: what an
operation must keep besides `Upkeep`, what a command and an event make of it, and one case for each row (1.4.3, R1, R207). -/

namespace Sys2Proof.Machine

/-! ### What an operation keeps -/

/-- From `s` to `t` the queue of waiting commands stands, the receive buffer gains frames within its bound, and mask,
timekeeper and page memory stay within theirs. -/
structure Fit (s t : State) : Prop where
  upkeep : Upkeep s t
  pending : t.pending = s.pending
  taken : t.link.taken = s.link.taken
  gained : s.link.held.length ≤ t.link.held.length
  room : s.link.held.length ≤ 8 → t.link.held.length ≤ 8
  mask : s.link.mask ≤ 3 → t.link.mask ≤ 3
  tk : s.tk.inRange → t.tk.inRange
  mem : Memory.wf s.mem = true → Memory.wf t.mem = true

theorem Fit.trans {s t u : State} (h : Fit s t) (g : Fit t u) : Fit s u :=
  ⟨h.upkeep.trans g.upkeep, g.pending.trans h.pending, g.taken.trans h.taken, h.gained.trans g.gained, g.room ∘ h.room,
    g.mask ∘ h.mask, g.tk ∘ h.tk, g.mem ∘ h.mem⟩

/-- What keeps all but the page memory and the counter of free values (`Keep`). -/
theorem Fit.of_keep {s t : State} {mem : List Host.Cell} {draws : Nat} (k : Upkeep s t)
    (same : t.kept = { s.kept with mem, draws }) (wf : Memory.wf s.mem = true → Memory.wf mem = true) : Fit s t := by
  have held : t.link.held = s.link.held := congrArg Keep.held same
  have mask : t.link.mask = s.link.mask := congrArg Keep.mask same
  have tk : t.tk = s.tk := congrArg Keep.tk same
  have mem : t.mem = mem := congrArg Keep.mem same
  exact ⟨k, congrArg Keep.pending same, congrArg Keep.taken same, (congrArg List.length held).ge, fun x => held ▸ x,
    fun x => mask ▸ x, fun x => tk ▸ x, fun x => mem ▸ wf x⟩

theorem Fit.of_kept {s t : State} (k : Upkeep s t) (same : t.kept = s.kept) : Fit s t := .of_keep k same id

theorem Fit.refl (s : State) : Fit s s := .of_kept (.refl s) rfl

/-- The row leaves the queue of waiting commands and keeps the two invariants. -/
structure Safe (s t : State) : Prop where
  pending : t.pending = s.pending
  sound : s.sound → t.sound
  segments : s.store.accounted → t.store.accounted

theorem Safe.refl (s : State) : Safe s s := ⟨rfl, id, id⟩

theorem Safe.trans {s t u : State} (h : Safe s t) (g : Safe t u) : Safe s u :=
  ⟨g.pending.trans h.pending, g.sound ∘ h.sound, g.segments ∘ h.segments⟩

theorem Fit.safe {s t : State} (h : Fit s t) : Safe s t := by
  refine ⟨h.pending, ?_, h.upkeep.segments⟩
  rintro ⟨⟨mask, held, taken, notices, lost⟩, owed, tk, mem⟩
  obtain ⟨notices, lost⟩ := h.upkeep.notices ⟨notices, lost⟩
  exact ⟨⟨h.mask mask, h.room held, h.taken ▸ taken.trans h.gained, notices, lost⟩,
    h.upkeep.owed.trans (owed.trans h.taken.symm), h.tk tk, h.mem mem⟩

/-! ### Commands (R207) -/

/-- A command taken whose reply is owed, formed, or waits on the store. -/
theorem takes_safe {f : Frame} {s s₁ t : State} (taken : s.takes f = some s₁) (h : Fit s₁.dueReply t) : Safe s t := by
  obtain ⟨-, k, took, rfl⟩ := State.takes_iff.mp taken
  obtain ⟨job, took⟩ := Link.take_cases took
  have counts (sound : s.sound) : k.taken = s.link.taken + 1 ∧ k.replies = s.link.replies ∧ k.mask = s.link.mask ∧
      k.held.length ≤ 8 ∧ k.taken ≤ k.held.length ∧ k.notices = s.link.notices ∧ k.lost = s.link.lost := by
    obtain ⟨⟨-, held, taken, -, -⟩, -, -, -⟩ := sound
    rcases took with ⟨rest, waiting, rfl⟩ | ⟨none, -, room, -, rfl⟩
    · have := congrArg List.length waiting
      simp only [List.length_drop, List.length_cons] at this
      exact ⟨rfl, rfl, rfl, held, Nat.lt_of_sub_eq_succ this, rfl, rfl⟩
    · have := List.drop_eq_nil_iff.mp none
      have grown : (s.link.held ++ [f]).length = s.link.held.length + 1 := List.length_append
      exact ⟨show s.link.held.length + 1 = _ by omega, rfl, rfl, grown.trans_le room, grown.ge, rfl, rfl⟩
  have due (sound : s.sound) : ({ s with link := k } : State).dueReply.sound := by
    obtain ⟨taken', replies, mask', held', within, notices', lost'⟩ := counts sound
    obtain ⟨⟨mask, held, taken, notices, lost⟩, owed, tk, mem⟩ := sound
    refine ⟨⟨mask'.trans_le mask, held', within, ?_, lost'.trans_le lost⟩, ?_, tk, mem⟩
    · exact (congrArg List.length notices').trans_le notices
    · have none : s.link.replies.length + 0 = s.link.taken := by simpa [Link.accounted, job] using owed
      change k.replies.length + 1 = k.taken
      rw [replies, taken']; omega
  exact ⟨h.pending, fun x => h.safe.sound (due x), h.upkeep.segments⟩

theorem hostCommand_safe {kind tag : Byte} {body : List Byte} {act : State → State} (s : State)
    (h : ∀ s₁, s₁.link.job = none → Fit s₁.dueReply (act s₁)) : Safe s (hostCommand kind tag body act s) := by
  cases taken : s.takes ⟨kind, tag, body⟩ with
  | none => rw [hostCommand_not_due _ taken]; exact .refl s
  | some s₁ =>
    rw [hostCommand_of_takes _ taken]
    obtain ⟨-, k, took, rfl⟩ := State.takes_iff.mp taken
    have job : k.job = none := by
      obtain ⟨job, ⟨_, _, rfl⟩ | ⟨_, _, _, _, rfl⟩⟩ := Link.take_cases took <;> exact job
    exact takes_safe taken (h _ job)

/-- A reply joins what an operation left. -/
theorem Fit.due_reply {s t : State} (kind tag : Byte) (status : Status) (fields : List Byte) (job : s.link.job = none)
    (h : Fit s t) : Fit s.dueReply (reply kind tag status fields t) :=
  ⟨h.upkeep.due_reply _ _ _ _ job, h.pending, h.taken, h.gained, h.room, h.mask, h.tk, h.mem⟩

theorem answered_fit {kind tag : Byte} {f : State → Except Status (State × List Byte)} {s : State}
    (job : s.link.job = none) (h : ∀ t x, f s = .ok (t, x) → Fit s t) : Fit s.dueReply (answered kind tag f s) := by
  unfold answered
  split
  · exact (h _ _ ‹_›).due_reply _ _ _ _ job
  · exact (Fit.refl s).due_reply _ _ _ _ job

theorem command_safe {kind tag : Byte} {body : List Byte} {f : State → Except Status (State × List Byte)} (s : State)
    (h : ∀ s₁ t x, f s₁ = .ok (t, x) → Fit s₁ t) : Safe s (command kind tag body f s) :=
  hostCommand_safe s fun s₁ job => answered_fit job (h s₁)

theorem formCommand_safe {mine : Bool} {kind tag : Byte} {body : List Byte}
    {f : State → Except Status (State × List Byte)} (s : State) (h : ∀ s₁ t x, f s₁ = .ok (t, x) → Fit s₁ t) :
    Safe s (formCommand mine kind tag body f s) := by
  unfold formCommand
  split
  · exact command_safe s h
  · exact .refl s

theorem whenOn_safe {act : State → State} (s : State) (h : Safe s (act s)) : Safe s (whenOn act s) := by
  unfold whenOn
  split
  · exact h
  · exact .refl s

/-- What waits on the store keeps all else. -/
theorem Fit.due_of_kept {s t : State} (k : Upkeep s.dueReply t) (same : t.kept = s.kept) : Fit s.dueReply t :=
  .of_kept k same

/-! ### Commands that set one block -/

/-- A block outside link, store, timekeeper and memory takes a new value. -/
theorem Fit.set_block {s t : State} (hl : t.link = s.link) (hs : t.store = s.store) (hp : t.pending = s.pending)
    (ht : t.tk = s.tk) (hm : t.mem = s.mem) : Fit s t :=
  ⟨(Upkeep.refl s).elsewhere hl (congrArg _ hs) (congrArg _ hs), hp, congrArg _ hl, (congrArg (·.held.length) hl).ge,
    fun x => hl ▸ x, fun x => hl ▸ x, fun x => ht ▸ x, fun x => hm ▸ x⟩

theorem noticeMask_fit {body : List Byte} {s t : State} {x : List Byte} (done : noticeMask body s = .ok (t, x)) : Fit s t := by
  unfold noticeMask at done
  split at done
  · cases done
    exact ⟨(Upkeep.refl s).onLink rfl rfl id rfl, rfl, rfl, le_refl _, id, fun _ => by simp [clamp], id, id⟩
  · cases done

theorem configSet_fit {body : List Byte} {s t : State} {x : List Byte} (done : configSet body s = .ok (t, x)) : Fit s t := by
  unfold configSet at done
  dsimp only at done
  (repeat' split at done) <;> cases done
  all_goals
    rename_i cfg _ _
    have set : Fit s { s with cfg } := .set_block rfl rfl rfl rfl rfl
    have tested : Fit { s with cfg } (scanRetry (lowTest { s with cfg })) :=
      .of_kept (scanRetry_upkeep _ (lowTest_upkeep _ (.refl _))) (by simp)
  · exact (set.trans tested).trans (.of_kept (askPass_upkeep _ (.refl _)) (by simp))
  · exact set.trans tested

theorem macroSet_fit {body : List Byte} {s t : State} {x : List Byte} (done : macroSet body s = .ok (t, x)) : Fit s t := by
  have set (n : Nat) (m : Option (List DialSym)) (done : setMacro n m s = .ok (t, x)) : Fit s t := by
    unfold setMacro at done
    split at done <;> cases done
    exact .set_block rfl rfl rfl rfl rfl
  unfold macroSet at done
  (repeat' split at done) <;> first | exact set _ _ done | cases done

/-- The charging tables alone are set. -/
theorem Fit.set_charge (s : State) (c : Charging) : Fit s { s with charge := c } := .set_block rfl rfl rfl rfl rfl

theorem prefixSet_fit {body : List Byte} {s t : State} {x : List Byte} (done : prefixSet body s = .ok (t, x)) : Fit s t := by
  unfold prefixSet at done
  dsimp only at done
  (repeat' split at done) <;> cases done <;> exact .set_charge s _

theorem prefixRemove_fit {body : List Byte} {s t : State} {x : List Byte} (done : prefixRemove body s = .ok (t, x)) :
    Fit s t := by
  unfold prefixRemove at done
  dsimp only at done
  (repeat' split at done) <;> cases done <;> exact .set_charge s _

theorem zoneWrite_fit {body : List Byte} {s t : State} {x : List Byte} (done : zoneWrite body s = .ok (t, x)) : Fit s t := by
  unfold zoneWrite at done
  dsimp only at done
  (repeat' split at done) <;> cases done <;> exact .set_charge s _

theorem rateWrite_fit {body : List Byte} {s t : State} {x : List Byte} (done : rateWrite body s = .ok (t, x)) : Fit s t := by
  unfold rateWrite at done
  dsimp only at done
  (repeat' split at done) <;> cases done <;> exact .set_charge s _

theorem bandWrite_fit {body : List Byte} {s t : State} {x : List Byte} (done : bandWrite body s = .ok (t, x)) : Fit s t := by
  unfold bandWrite at done
  dsimp only at done
  (repeat' split at done) <;> cases done <;> exact .set_charge s _

theorem weekdayWrite_fit {body : List Byte} {s t : State} {x : List Byte} (done : weekdayWrite body s = .ok (t, x)) :
    Fit s t := by
  unfold weekdayWrite at done
  dsimp only at done
  (repeat' split at done) <;> cases done <;> exact .set_charge s _

theorem holidayWrite_fit {body : List Byte} {s t : State} {x : List Byte} (done : holidayWrite body s = .ok (t, x)) :
    Fit s t := by
  unfold holidayWrite at done
  dsimp only at done
  (repeat' split at done) <;> cases done <;> exact .set_charge s _

theorem priceWrite_fit {body : List Byte} {s t : State} {x : List Byte} (done : priceWrite body s = .ok (t, x)) : Fit s t := by
  unfold priceWrite at done
  dsimp only at done
  (repeat' split at done) <;> cases done <;> exact .set_charge s _

/-! ### The timekeeper (chapter 10) -/

/-- The timekeeper alone changes, within its ranges. -/
theorem Fit.set_tk {s : State} {k : Timekeeper} (draws : Nat) (h : s.tk.inRange → k.inRange) :
    Fit s { s with tk := k, draws } :=
  ⟨(Upkeep.refl s).elsewhere rfl rfl rfl, rfl, rfl, le_refl _, id, id, h, id⟩

theorem State.modTk_fit (s : State) (f : Timekeeper → Timekeeper) (h : s.tk.inRange → (f s.tk).inRange) :
    Fit s (s.modTk f) := .set_tk s.draws h

theorem Timekeeper.advance_inRange {k : Timekeeper} (h : k.inRange) : k.advance.1.inRange := by
  obtain ⟨time, stops, set, step⟩ := h
  exact ⟨DateTime.tick_valid time, stops, set, step⟩

theorem raiseSuspect_fit (cause : SuspectCause) (already : Bool) (s : State) : Fit s (raiseSuspect cause already s) :=
  .of_kept (raise_upkeep _ _ (.refl s)) (by simp)

theorem tenthCounted_fit (s : State) :
    Fit s (if s.power then (if s.tk.counts then tenthPowered s else s) else tenthUnpowered s) := by
  have advanced : Fit s { s with tk := s.tk.advance.1 } := .set_tk s.draws Timekeeper.advance_inRange
  unfold tenthPowered tenthUnpowered
  dsimp only
  split
  · split
    · split
      · exact (advanced.trans (raiseSuspect_fit _ _ _)).trans
          (.of_kept (markClockStep_upkeep _ (.refl _)) (by simp))
      · exact advanced
    · exact .refl s
  · split
    · exact advanced
    · exact .refl s

theorem crystalGap_fit (s : State) : Fit s (crystalGap s) := by
  unfold crystalGap
  split
  · refine Fit.trans (s.modTk_fit _ fun ⟨time, stops, set, step⟩ => ?_) (raiseSuspect_fit _ _ _)
    exact ⟨time, min_le_left _ _, set, step⟩
  · exact .refl s

theorem Timekeeper.lose_inRange (n : Nat) (k : Timekeeper) : (k.lose n).inRange := by
  have valid (m : Nat) : (timeOfTenths (m % rangeTenths)).valid = true :=
    (timeOfTenths_spec (Nat.mod_lt m (by decide : 0 < rangeTenths))).1
  refine ⟨valid _, Nat.le_of_lt_succ (Nat.mod_lt _ (by decide)), fun t ht => ?_, fun z hz => ?_⟩
  · simp only [Timekeeper.lose] at ht
    split at ht <;> cases ht
    exact valid _
  · simp only [Timekeeper.lose] at hz
    split at hz <;> cases hz
    have below := Nat.mod_lt (Config.lostItem n 9) (by decide : 0 < 2 * rangeTenths - 1)
    simp only [rangeTenths] at below ⊢
    omega

/-- The new time and its step, before anything is tested against it. -/
theorem setTime_fit (s : State) {time : DateTime} (valid : time.valid = true) : Fit s (s.modTk fun k =>
    { k with time, valid := true, suspect := false, lastSet := some time, lastStep := some (clockStep s.now time) }) := by
  refine s.modTk_fit _ fun ⟨old, stops, set, step⟩ => ⟨valid, stops, fun t ht => Option.some.inj ht ▸ valid, fun z hz => ?_⟩
  rw [← Option.some.inj hz, clockStep]
  have a := DateTime.tenths_lt valid
  have b := DateTime.tenths_lt old
  simp only [State.now]
  omega

theorem setClock_fit (s : State) {time : DateTime} (valid : time.valid = true) : Fit s (setClock time s) := by
  unfold setClock
  exact (setTime_fit s valid).trans (.of_kept
    (scanRetry_upkeep _ (askPass_upkeep _ (expireAll_upkeep _ (markClockStep_upkeep _ (.refl _))))) (by simp))

theorem clockSet_fit {body : List Byte} {s t : State} {x : List Byte} (done : clockSet body s = .ok (t, x)) : Fit s t := by
  unfold clockSet at done
  split at done
  · dsimp only at done
    split at done
    · cases done
    · rename_i valid
      rw [Except.ok.injEq, Prod.mk.injEq] at done
      exact done.1 ▸ setClock_fit s (by simpa using valid)
  · cases done

/-! ### The host link below the commands (R202 to R210) -/

theorem completeFrame_fit (f : Frame) (s : State) : Fit s (completeFrame f s) := by
  unfold completeFrame
  split
  · exact ⟨(Upkeep.refl s).onLink rfl rfl id rfl, rfl, rfl, by simp, fun _ => by simp; omega, id, id, id⟩
  · exact .of_kept (raise_upkeep _ _ (.refl s)) (by simp)

theorem raiseCheck_fit (cause : CheckCause) (candidate : List Byte) (s : State) : Fit s (raiseCheck cause candidate s) :=
  .of_kept (raise_upkeep _ _ (.refl s)) (by simp)

theorem candidate_fit (c : List Byte) (s : State) : Fit s (s.modLink fun k => { k with candidate := c }) :=
  ⟨(Upkeep.refl s).onLink rfl rfl id rfl, rfl, rfl, le_refl _, id, id, id, id⟩

theorem rate_fit (rate : HostRate) (s : State) : Fit s (s.modLink fun k => { k with rate }) :=
  ⟨(Upkeep.refl s).onLink rfl rfl id rfl, rfl, rfl, le_refl _, id, id, id, id⟩

theorem examine_fit (fuel : Nat) (octets : List Byte) (s : State) : Fit s (examine fuel octets s) := by
  induction fuel generalizing octets s with
  | zero => exact .refl s
  | succ n ih =>
    unfold examine
    (repeat' split)
    · exact candidate_fit _ s
    · exact ih _ _
    · exact candidate_fit _ s
    · exact (raiseCheck_fit _ _ s).trans (ih _ _)
    · exact (completeFrame_fit _ s).trans (ih _ _)
    · exact (raiseCheck_fit _ _ s).trans (ih _ _)

theorem failCandidate_fit (cause : CheckCause) (fuel : Nat) (s : State) : Fit s (failCandidate cause fuel s) := by
  induction fuel generalizing s with
  | zero => exact .refl s
  | succ n ih =>
    unfold failCandidate
    split
    · exact .refl s
    · exact ((raiseCheck_fit _ _ s).trans (examine_fit _ _ _)).trans (ih _)

theorem octetReceived_fit (octet : Byte) (stopBit : Bool) (s : State) : Fit s (octetReceived octet stopBit s) := by
  unfold octetReceived
  split
  · exact examine_fit _ _ s
  · exact failCandidate_fit _ _ s

theorem transmitStart_fit (s : State) : Fit s (transmitStart s) := by
  unfold transmitStart
  (repeat' split)
  · exact .refl s
  · exact ⟨(Upkeep.refl s).onLink rfl rfl id rfl, rfl, rfl, le_refl _, id, id, id, id⟩
  · exact ⟨(Upkeep.refl s).onLink rfl rfl (fun ⟨n, _⟩ => ⟨n, Nat.zero_le _⟩) rfl, rfl, rfl, le_refl _, id, id, id, id⟩
  · exact .refl s

theorem noticeSent_fit (s : State) : Fit s (noticeSent s) := by
  unfold noticeSent
  split
  · exact ⟨(Upkeep.refl s).onLink rfl rfl (fun ⟨n, l⟩ => ⟨by simp; omega, l⟩) rfl, rfl, rfl, le_refl _, id, id, id, id⟩
  · exact .refl s
  · exact .refl s

/-- A reply leaves with its command's frame, and one command taken the less is open (R208). -/
theorem replySent_safe (s : State) : Safe s (replySent s) := by
  unfold replySent
  split
  · rename_i r rest _ queued
    dsimp only
    refine Safe.trans (t := s.modLink fun k =>
      { k with tx := .free, replies := rest, held := k.held.tail, taken := k.taken - 1 }) ⟨rfl, ?_, id⟩ ?_
    · rintro ⟨⟨mask, held, taken, notices, lost⟩, owed, tk, mem⟩
      rw [Link.accounted, queued, List.length_cons] at owed
      refine ⟨⟨mask, ?_, ?_, notices, lost⟩, ?_, tk, mem⟩
      · simp only [State.modLink_link, List.length_tail]; omega
      · simp only [State.modLink_link, List.length_tail]; omega
      · show rest.length + (if s.link.job.isSome = true then 1 else 0) = s.link.taken - 1
        omega
    · split
      · exact .refl _
      split
      · exact .refl _
      · exact ((rate_fit _ _).trans (failCandidate_fit _ _ _)).safe
  · exact .refl s

/-! ### Resets (R200, R201, R215) -/

theorem Store.accounted_unwritten (checks : List (Nat × Word16)) : ({ Store.reset with checks } : Store).accounted := by
  refine ⟨.nil, rfl, rfl, nofun, ?_⟩
  exact .of_eq (by simp [Store.reset, Store.chained, Table.all, SegPool.toList, SegPool.reset, List.range_eq_range'])

/-- A link at its reset values. -/
theorem Link.reset_inRange (ready : Bool) : ({ Link.reset with hostReady := ready } : Link).inRange :=
  ⟨Nat.zero_le _, Nat.zero_le _, Nat.zero_le _, Nat.zero_le _, Nat.zero_le _⟩

theorem blocksReset_safe (s : State) : Safe s s.blocksReset :=
  ⟨rfl, fun ⟨_, _, tk, mem⟩ => ⟨Link.reset_inRange _, rfl, tk, mem⟩, fun _ => Store.accounted_unwritten _⟩

theorem readPrinterSensors_fit (paperAbsent jamReported : Bool) (s : State) :
    Fit s (readPrinterSensors paperAbsent jamReported s) :=
  .of_kept (readPrinterSensors_upkeep _ _ _ (.refl s)) (by simp)

theorem resetLineInput_safe (s : State) : Safe s (resetLineInput s) := by
  unfold resetLineInput
  exact (blocksReset_safe s).trans (readPrinterSensors_fit _ _ _).safe

theorem Timekeeper.reset_inRange (runs : Bool) : ({ Timekeeper.reset with crystalRuns := runs } : Timekeeper).inRange :=
  ⟨(by decide : timeZero.valid = true), Nat.zero_le 255, nofun, nofun⟩

theorem Timekeeper.powerOn_inRange {k : Timekeeper} (h : k.inRange) : k.powerOn.1.inRange := by
  unfold Timekeeper.powerOn
  split
  · exact Timekeeper.reset_inRange _
  · exact h

theorem powerOn_safe (paperAbsent jamReported : Bool) (s : State) : Safe s (powerOn paperAbsent jamReported s) := by
  have cleared : Safe s { s.blocksReset with tk := s.tk.powerOn.1, mem := [], store := .reset } :=
    ⟨rfl, fun ⟨_, _, tk, _⟩ => ⟨Link.reset_inRange _, rfl, Timekeeper.powerOn_inRange tk, rfl⟩,
      fun _ => Store.accounted_unwritten _⟩
  unfold powerOn
  refine (cleared.trans ?_).trans (readPrinterSensors_fit _ _ _).safe
  split
  · exact (raiseSuspect_fit _ _ _).safe
  · exact .refl _

/-- Settles O4. -/
theorem invariantsAtReset : Obligations.InvariantsAtReset :=
  ⟨⟨⟨by decide, by decide, by decide, by decide, by decide⟩, rfl, Timekeeper.reset_inRange _, rfl⟩,
    Store.accounted_unwritten _⟩

/-! ### The store port (R7, R17) -/

theorem grantStep_fit (s : State) : Fit s (grantStep s) := by
  obtain ⟨draws, same⟩ := grantStep_kept s
  exact .of_keep (grantStep_upkeep s (.refl s)) same id

theorem writeStep_fit (s : State) : Fit s (writeStep s) := by
  rcases writeStep_kept s with same | ⟨addr, data, same⟩
  · exact .of_kept (writeStep_upkeep s (.refl s)) same
  · exact .of_keep (writeStep_upkeep s (.refl s)) same fun x => Memory.writeBlock_wf x _ _

/-- A held scan job's retry follows. -/
theorem Fit.retry {s t : State} (h : Fit s t) : Fit s (scanRetry t) :=
  h.trans (.of_kept (scanRetry_upkeep _ (.refl t)) (by simp))

/-- The paper-present sensor is read. -/
theorem sensePaper_fit (paper : Bool) (s : State) : Fit s (sensePaper paper s) :=
  .of_kept (sensePaper_upkeep _ _ (.refl s)) rfl

/-! ### Every row -/

/-- A command that reads the paper-present sensor as it is taken. -/
theorem sensed_fit {kind tag : Byte} {paper : Bool} {f : State → Except Status (State × List Byte)} {s : State}
    (job : s.link.job = none) (h : ∀ t x, f (sensePaper paper s) = .ok (t, x) → Fit (sensePaper paper s) t) :
    Fit s.dueReply (answered kind tag f (sensePaper paper s)) :=
  Fit.trans (t := (sensePaper paper s).dueReply) (.of_kept ⟨id, rfl, id⟩ rfl) (answered_fit job h)

theorem dispatcherPassAsked_fit (s : State) : Fit s (if s.docs.passAsked then dispatcherPass s else s) := by
  split
  · exact .of_kept (dispatcherPass_upkeep s (.refl s)) (by simp)
  · exact .refl s

theorem crystalReturn_fit (s : State) : Fit s (crystalReturn s) := by
  unfold crystalReturn
  split
  · exact s.modTk_fit _ id
  · exact .refl s

theorem backupSupplyFail_fit (s : State) : Fit s (if s.power then { s with tk := s.tk.lose s.draws, draws := s.draws + 1 }
    else s.modTk fun k => { k with lost := true }) := by
  split
  · exact .set_tk _ fun _ => Timekeeper.lose_inRange _ _
  · exact s.modTk_fit _ id

theorem crystalStop_fit (s : State) : Fit s (if !s.power && s.tk.crystalRuns then
    s.modTk fun k => { k with stallMark := true, crystalRuns := false } else s) := by
  split
  · exact s.modTk_fit _ id
  · exact .refl s

theorem crystalStarts_fit (s : State) : Fit s (s.modTk fun k => { k with crystalRuns := true }) := s.modTk_fit _ id

theorem pulse_fit (l : LineNo) (s : State) : Fit s (s.modLine l fun x => { x with charging := x.charging.pulse }) :=
  .set_block rfl rfl rfl rfl rfl

theorem jamClear_fit (s : State) : Fit s (s.modEngine fun e => { e with jamSensor := false }) :=
  .set_block rfl rfl rfl rfl rfl

theorem unknownKind_safe (kind tag : Byte) (body : List Byte) (s : State) : Safe s (if isCommandKind kind then s
    else hostCommand kind tag body (refuse 0xFE tag .unknownKind) s) := by
  split
  · exact .refl s
  · exact hostCommand_safe s fun s₁ job => (Fit.refl s₁).due_reply _ _ _ _ job

theorem resetCommand_safe {mine : Bool} {tag : Byte} {body : List Byte} {f : State → Except Status (State × List Byte)}
    (s : State) (h : ∀ s₁ t x, f s₁ = .ok (t, x) → Fit s₁ t) :
    Safe s (if mine then command 0x06 tag body f s else s) := by
  split
  · exact command_safe s h
  · exact .refl s

/-- Every row answers a next state, leaves the queue of waiting commands, and keeps the two invariants. -/
theorem exec_safe (i : Instr) (s : State) : ∃ t, exec i s = .next t ∧ Safe s t := by
  cases i with
  | powerOn _ _ => exact ⟨_, rfl, powerOn_safe _ _ s⟩
  | resetLine => exact ⟨_, rfl, whenOn_safe s (resetLineInput_safe s)⟩
  | backupSupplyFail => exact ⟨_, rfl, (backupSupplyFail_fit s).safe⟩
  | crystalStopUnpowered => exact ⟨_, rfl, (crystalStop_fit s).safe⟩
  | tenthCounted => exact ⟨_, rfl, (tenthCounted_fit s).safe⟩
  | crystalGapExpiry => exact ⟨_, rfl, whenOn_safe s (crystalGap_fit s).safe⟩
  | crystalReturn => exact ⟨_, rfl, whenOn_safe s (crystalReturn_fit s).safe⟩
  | mainSuppliesOff => exact ⟨_, rfl, whenOn_safe s ⟨rfl, id, id⟩⟩
  | crystalStartsAgain => exact ⟨_, rfl, (crystalStarts_fit s).safe⟩
  | deadlineReached _ =>
    exact ⟨_, rfl, whenOn_safe s (Fit.of_kept (expireDoc_upkeep _ _ (.refl s)) (by simp)).retry.safe⟩
  | retryEligible _ => exact ⟨_, rfl, whenOn_safe s (Fit.of_kept (retryEligible_upkeep _ _ (.refl s)) (by simp)).safe⟩
  | hostOctetReceived _ _ => exact ⟨_, rfl, whenOn_safe s (octetReceived_fit _ _ s).safe⟩
  | frameGapExpiry => exact ⟨_, rfl, whenOn_safe s (failCandidate_fit _ _ s).safe⟩
  | hostReadyChange _ => exact ⟨_, rfl, rfl, id, id⟩
  | frameTransmitStart => exact ⟨_, rfl, whenOn_safe s (transmitStart_fit s).safe⟩
  | replySent => exact ⟨_, rfl, whenOn_safe s (replySent_safe s)⟩
  | noticeSent => exact ⟨_, rfl, whenOn_safe s (noticeSent_fit s).safe⟩
  | unknownKindCommand kind tag body => exact ⟨_, rfl, unknownKind_safe kind tag body s⟩
  | identify _ _ =>
    exact ⟨_, rfl, command_safe s fun _ _ _ e => .of_kept (identify_upkeep _ _ (.refl _) e) (identify_kept _ _ e)⟩
  | linkRate _ _ => exact ⟨_, rfl, hostCommand_safe s fun s₁ job => .due_of_kept (linkRate_due _ _ s₁ job) (by simp)⟩
  | noticeMask _ _ => exact ⟨_, rfl, command_safe s fun _ _ _ e => noticeMask_fit e⟩
  | configSet _ _ => exact ⟨_, rfl, command_safe s fun _ _ _ e => configSet_fit e⟩
  | configGet _ _ =>
    exact ⟨_, rfl, command_safe s fun _ _ _ e => .of_kept (configGet_upkeep _ _ (.refl _) e) (configGet_kept _ _ e)⟩
  | resetLines _ _ =>
    exact ⟨_, rfl, resetCommand_safe s fun _ _ _ e => .of_kept (resetScopeLines_upkeep _ _ (.refl _) e)
      (resetScopeLines_kept _ _ e)⟩
  | resetEngine _ _ =>
    exact ⟨_, rfl, resetCommand_safe s fun _ _ _ e => .of_kept (resetScopeEngine_upkeep _ _ (.refl _) e)
      (resetScopeEngine_kept _ _ e)⟩
  | pageOpenWrite _ _ =>
    exact ⟨_, rfl, command_safe s fun _ _ _ e => .of_kept (pageOpenWrite_upkeep _ _ (.refl _) e)
      (pageOpenWrite_kept _ _ e)⟩
  | pageWriteData _ _ =>
    exact ⟨_, rfl, hostCommand_safe s fun s₁ job => .due_of_kept (pageWriteData_due _ _ s₁ job) (by simp)⟩
  | pageClose _ _ =>
    exact ⟨_, rfl, hostCommand_safe s fun s₁ job => (Fit.due_of_kept (pageClose_due _ _ s₁ job) (by simp)).retry⟩
  | pageRead _ _ => exact ⟨_, rfl, hostCommand_safe s fun s₁ job => .due_of_kept (pageRead_due _ _ s₁ job) (by simp)⟩
  | pageInfo _ _ => exact ⟨_, rfl, hostCommand_safe s fun s₁ job => .due_of_kept (pageInfo_due _ _ s₁ job) (by simp)⟩
  | pagePin _ _ =>
    exact ⟨_, rfl, command_safe s fun _ _ _ e => .of_kept (pagePin_upkeep _ _ (.refl _) e) (pagePin_kept _ _ e)⟩
  | pageUnpin _ _ =>
    exact ⟨_, rfl, command_safe s fun _ _ _ e => .of_kept (pageUnpin_upkeep _ _ (.refl _) e) (pageUnpin_kept _ _ e)⟩
  | pageDrop _ _ =>
    exact ⟨_, rfl, command_safe s fun _ _ _ e => .of_kept (pageDrop_upkeep _ _ (.refl _) e) (pageDrop_kept _ _ e)⟩
  | scanSet _ _ =>
    exact ⟨_, rfl, command_safe s fun _ _ _ e => .of_kept (scanSet_upkeep _ _ (.refl _) e) (scanSet_kept _ _ e)⟩
  | scanStart _ _ _ =>
    exact ⟨_, rfl, hostCommand_safe s fun s₁ job => sensed_fit job fun _ _ e => .of_kept (scanStart_upkeep _ _
      (.refl _) e) (scanStart_kept _ _ e)⟩
  | scanStop _ _ =>
    exact ⟨_, rfl, command_safe s fun _ _ _ e => .of_kept (scanStop_upkeep _ _ (.refl _) e) (scanStop_kept _ _ e)⟩
  | scanStatus _ _ _ =>
    exact ⟨_, rfl, hostCommand_safe s fun s₁ job => sensed_fit job fun _ _ e => .of_kept (scanStatus_upkeep _ _
      (.refl _) e) (scanStatus_kept _ _ e)⟩
  | docCreate _ _ =>
    exact ⟨_, rfl, command_safe s fun _ _ _ e => .of_kept (docCreate_upkeep _ _ (.refl _) e) (docCreate_kept _ _ e)⟩
  | docAddPages _ _ =>
    exact ⟨_, rfl, command_safe s fun _ _ _ e => .of_kept (docAddPages_upkeep _ _ (.refl _) e) (docAddPages_kept _
      _ e)⟩
  | docAddDests _ _ =>
    exact ⟨_, rfl, command_safe s fun _ _ _ e => .of_kept (docAddDests_upkeep _ _ (.refl _) e) (docAddDests_kept _
      _ e)⟩
  | docSubmit _ _ =>
    exact ⟨_, rfl, command_safe s fun _ _ _ e => .of_kept (docSubmit_upkeep _ _ (.refl _) e) (docSubmit_kept _ _ e)⟩
  | docCancel _ _ =>
    exact ⟨_, rfl, command_safe s fun _ _ _ e => .of_kept (docCancel_upkeep _ _ (.refl _) e) (docCancel_kept _ _ e)⟩
  | docStatus _ _ =>
    exact ⟨_, rfl, command_safe s fun _ _ _ e => .of_kept (docStatus_upkeep _ _ (.refl _) e) (docStatus_kept _ _ e)⟩
  | docDestStatus _ _ =>
    exact ⟨_, rfl, command_safe s fun _ _ _ e => .of_kept (docDestStatus_upkeep _ _ (.refl _) e)
      (docDestStatus_kept _ _ e)⟩
  | docDelete _ _ =>
    exact ⟨_, rfl, command_safe s fun _ _ _ e => .of_kept (docDelete_upkeep _ _ (.refl _) e) (docDelete_kept _ _ e)⟩
  | lineConfig _ _ =>
    exact ⟨_, rfl, command_safe s fun _ _ _ e => .of_kept (lineConfigure_upkeep _ _ (.refl _) e)
      (lineConfigure_kept _ _ e)⟩
  | lineStatus _ _ =>
    exact ⟨_, rfl, command_safe s fun _ _ _ e => .of_kept (lineStatusOf_upkeep _ _ (.refl _) e) (lineStatusOf_kept
      _ _ e)⟩
  | lineHold _ _ =>
    exact ⟨_, rfl, command_safe s fun _ _ _ e => .of_kept (lineHoldOf_upkeep _ _ (.refl _) e) (lineHoldOf_kept _ _ e)⟩
  | lineRelease _ _ =>
    exact ⟨_, rfl, command_safe s fun _ _ _ e => .of_kept (lineReleaseOf_upkeep _ _ (.refl _) e)
      (lineReleaseOf_kept _ _ e)⟩
  | macroSet _ _ => exact ⟨_, rfl, command_safe s fun _ _ _ e => macroSet_fit e⟩
  | macroGet _ _ =>
    exact ⟨_, rfl, command_safe s fun _ _ _ e => .of_kept (macroGet_upkeep _ _ (.refl _) e) (macroGet_kept _ _ e)⟩
  | inboundStatus _ _ =>
    exact ⟨_, rfl, formCommand_safe s fun _ _ _ e => .of_kept (inboundStatus_upkeep _ _ (.refl _) e)
      (inboundStatus_kept _ _ e)⟩
  | inboundStatusSummary _ _ =>
    exact ⟨_, rfl, formCommand_safe s fun _ _ _ e => .of_kept (inboundSummary_upkeep _ _ (.refl _) e)
      (inboundSummary_kept _ _ e)⟩
  | inboundDelete _ _ =>
    exact ⟨_, rfl, command_safe s fun _ _ _ e => .of_kept (inboundDelete_upkeep _ _ (.refl _) e)
      (inboundDelete_kept _ _ e)⟩
  | urgentSet _ _ =>
    exact ⟨_, rfl, command_safe s fun _ _ _ e => .of_kept (urgentSet_upkeep _ _ (.refl _) e) (urgentSet_kept _ _ e)⟩
  | printDoc _ _ =>
    exact ⟨_, rfl, command_safe s fun _ _ _ e => .of_kept (printDoc_upkeep _ _ (.refl _) e) (printDoc_kept _ _ e)⟩
  | printPage _ _ =>
    exact ⟨_, rfl, command_safe s fun _ _ _ e => .of_kept (printPage_upkeep _ _ (.refl _) e) (printPage_kept _ _ e)⟩
  | printCancelEntry _ _ =>
    exact ⟨_, rfl, formCommand_safe s fun _ _ _ e => .of_kept (printCancelEntry_upkeep _ _ (.refl _) e)
      (printCancelEntry_kept _ _ e)⟩
  | printCancelDoc _ _ =>
    exact ⟨_, rfl, formCommand_safe s fun _ _ _ e => .of_kept (printCancelDoc_upkeep _ _ (.refl _) e)
      (printCancelDoc_kept _ _ e)⟩
  | printPause _ _ =>
    exact ⟨_, rfl, command_safe s fun _ _ _ e => .of_kept (printPause_upkeep _ _ (.refl _) e) (printPause_kept _ _ e)⟩
  | printResume _ _ =>
    exact ⟨_, rfl, command_safe s fun _ _ _ e => .of_kept (printResume_upkeep _ _ (.refl _) e) (printResume_kept _
      _ e)⟩
  | printStatus _ _ =>
    exact ⟨_, rfl, command_safe s fun _ _ _ e => .of_kept (printStatus_upkeep _ _ (.refl _) e) (printStatus_kept _
      _ e)⟩
  | prefixSetSet _ _ => exact ⟨_, rfl, formCommand_safe s fun _ _ _ e => prefixSet_fit e⟩
  | prefixSetRemove _ _ => exact ⟨_, rfl, formCommand_safe s fun _ _ _ e => prefixRemove_fit e⟩
  | prefixSetRead _ _ =>
    exact ⟨_, rfl, formCommand_safe s fun _ _ _ e => .of_kept (prefixRead_upkeep _ _ (.refl _) e) (prefixRead_kept
      _ _ e)⟩
  | prefixSetTest _ _ =>
    exact ⟨_, rfl, formCommand_safe s fun _ _ _ e => .of_kept (prefixTest_upkeep _ _ (.refl _) e) (prefixTest_kept
      _ _ e)⟩
  | zoneSet _ _ => exact ⟨_, rfl, formCommand_safe s fun _ _ _ e => zoneWrite_fit e⟩
  | zoneSetRead _ _ =>
    exact ⟨_, rfl, formCommand_safe s fun _ _ _ e => .of_kept (zoneRead_upkeep _ _ (.refl _) e) (zoneRead_kept _ _ e)⟩
  | bandSet _ _ => exact ⟨_, rfl, formCommand_safe s fun _ _ _ e => bandWrite_fit e⟩
  | bandSetRead _ _ =>
    exact ⟨_, rfl, formCommand_safe s fun _ _ _ e => .of_kept (bandRead_upkeep _ _ (.refl _) e) (bandRead_kept _ _ e)⟩
  | weekdaySet _ _ => exact ⟨_, rfl, formCommand_safe s fun _ _ _ e => weekdayWrite_fit e⟩
  | weekdaySetRead _ _ =>
    exact ⟨_, rfl, formCommand_safe s fun _ _ _ e => .of_kept (weekdayRead_upkeep _ _ (.refl _) e)
      (weekdayRead_kept _ _ e)⟩
  | holidaySet _ _ => exact ⟨_, rfl, formCommand_safe s fun _ _ _ e => holidayWrite_fit e⟩
  | holidaySetRead _ _ =>
    exact ⟨_, rfl, formCommand_safe s fun _ _ _ e => .of_kept (holidayRead_upkeep _ _ (.refl _) e)
      (holidayRead_kept _ _ e)⟩
  | rateSet _ _ => exact ⟨_, rfl, formCommand_safe s fun _ _ _ e => rateWrite_fit e⟩
  | rateSetRead _ _ =>
    exact ⟨_, rfl, formCommand_safe s fun _ _ _ e => .of_kept (zoneRead_upkeep _ _ (.refl _) e) (zoneRead_kept _ _ e)⟩
  | priceSet _ _ => exact ⟨_, rfl, formCommand_safe s fun _ _ _ e => priceWrite_fit e⟩
  | priceSetRead _ _ =>
    exact ⟨_, rfl, formCommand_safe s fun _ _ _ e => .of_kept (priceRead_upkeep _ _ (.refl _) e) (priceRead_kept _
      _ e)⟩
  | deskSet _ _ =>
    exact ⟨_, rfl, command_safe s fun _ _ _ e => .of_kept (deskSet_upkeep _ _ (.refl _) e) (deskSet_kept _ _ e)⟩
  | deskRead _ _ =>
    exact ⟨_, rfl, command_safe s fun _ _ _ e => .of_kept (deskRead_upkeep _ _ (.refl _) e) (deskRead_kept _ _ e)⟩
  | deskClear _ _ =>
    exact ⟨_, rfl, command_safe s fun _ _ _ e => .of_kept (deskClear_upkeep _ _ (.refl _) e) (deskClear_kept _ _ e)⟩
  | logRead _ _ =>
    exact ⟨_, rfl, command_safe s fun _ _ _ e => .of_kept (logRead_upkeep _ _ (.refl _) e) (logRead_kept _ _ e)⟩
  | logDiscard _ _ =>
    exact ⟨_, rfl, command_safe s fun _ _ _ e => .of_kept (logDiscard_upkeep _ _ (.refl _) e) (logDiscard_kept _ _ e)⟩
  | clockSet _ _ => exact ⟨_, rfl, command_safe s fun _ _ _ e => clockSet_fit e⟩
  | clockRead _ _ =>
    exact ⟨_, rfl, command_safe s fun _ _ _ e => .of_kept (clockRead_upkeep _ _ (.refl _) e) (clockRead_kept _ _ e)⟩
  | storePortGrant => exact ⟨_, rfl, whenOn_safe s (grantStep_fit s).retry.safe⟩
  | blockWriteCommit paper =>
    exact ⟨_, rfl, whenOn_safe s ((sensePaper_fit paper s).trans (writeStep_fit _)).retry.safe⟩
  | blockReadComplete _ =>
    exact ⟨_, rfl, whenOn_safe s (Fit.of_kept (readStep_upkeep _ _ (.refl s)) (by simp)).retry.safe⟩
  | feederStep _ paper =>
    exact ⟨_, rfl, whenOn_safe s ((sensePaper_fit paper s).trans (.of_kept (feederStep_upkeep _ _ (.refl _)) (by
      simp))).retry.safe⟩
  | sheetEndSensor => exact ⟨_, rfl, whenOn_safe s (Fit.of_kept (sheetEnd_upkeep _ (.refl s)) (by simp)).safe⟩
  | scanHoldTimeout => exact ⟨_, rfl, whenOn_safe s (Fit.of_kept (scanHoldTimeout_upkeep _ (.refl s)) (by simp)).safe⟩
  | ejectionComplete paper =>
    exact ⟨_, rfl, whenOn_safe s ((sensePaper_fit paper s).trans (.of_kept (ejectionComplete_upkeep _ (.refl _))
      (by simp))).safe⟩
  | dispatcherPass => exact ⟨_, rfl, whenOn_safe s (dispatcherPassAsked_fit s).safe⟩
  | dialExpansion _ =>
    exact ⟨_, rfl, whenOn_safe s (Fit.of_kept (dialExpansion_upkeep _ _ (.refl s)) (by simp)).retry.safe⟩
  | zoneLookup _ => exact ⟨_, rfl, whenOn_safe s (Fit.of_kept (zoneLookup_upkeep _ _ (.refl s)) (by simp)).retry.safe⟩
  | dialSymbolEnd _ => exact ⟨_, rfl, whenOn_safe s (Fit.of_kept (dialSymbolEnd_upkeep _ _ (.refl s)) (by simp)).safe⟩
  | dialToneReport _ =>
    exact ⟨_, rfl, whenOn_safe s (Fit.of_kept (dialToneReport_upkeep _ _ (.refl s)) (by simp)).safe⟩
  | dialToneTimeout _ =>
    exact ⟨_, rfl, whenOn_safe s (Fit.of_kept (dialToneTimeout_upkeep _ _ (.refl s)) (by simp)).retry.safe⟩
  | busyTone _ => exact ⟨_, rfl, whenOn_safe s (Fit.of_kept (busyTone_upkeep _ _ (.refl s)) (by simp)).retry.safe⟩
  | answerIndication _ =>
    exact ⟨_, rfl, whenOn_safe s (Fit.of_kept (answerIndication_upkeep _ _ (.refl s)) (by simp)).safe⟩
  | answerTimeout _ =>
    exact ⟨_, rfl, whenOn_safe s (Fit.of_kept (answerTimeout_upkeep _ _ (.refl s)) (by simp)).retry.safe⟩
  | ring _ => exact ⟨_, rfl, whenOn_safe s (Fit.of_kept (ring_upkeep _ _ (.refl s)) (by simp)).retry.safe⟩
  | ringBurstEnd _ => exact ⟨_, rfl, whenOn_safe s (Fit.of_kept (ringBurstEnd_upkeep _ _ (.refl s)) (by simp)).safe⟩
  | answerToneEnd _ => exact ⟨_, rfl, whenOn_safe s (Fit.of_kept (answerToneEnd_upkeep _ _ (.refl s)) (by simp)).safe⟩
  | restEnd _ => exact ⟨_, rfl, whenOn_safe s (Fit.of_kept (restEnd_upkeep _ _ (.refl s)) (by simp)).safe⟩
  | remoteAnswerToneEnd _ =>
    exact ⟨_, rfl, whenOn_safe s (Fit.of_kept (remoteToneEnd_upkeep _ _ (.refl s)) (by simp)).safe⟩
  | turnaroundExpiry _ =>
    exact ⟨_, rfl, whenOn_safe s (Fit.of_kept (turnaroundExpiry_upkeep _ _ (.refl s)) (by simp)).safe⟩
  | frameSent _ => exact ⟨_, rfl, whenOn_safe s (Fit.of_kept (frameSent_upkeep _ _ (.refl s)) (by simp)).safe⟩
  | transmissionSent _ =>
    exact ⟨_, rfl, whenOn_safe s (Fit.of_kept (transmissionSent_upkeep _ _ (.refl s)) (by simp)).safe⟩
  | quitSent _ => exact ⟨_, rfl, whenOn_safe s (Fit.of_kept (quitSent_upkeep _ _ (.refl s)) (by simp)).retry.safe⟩
  | answerWaitExpiry _ =>
    exact ⟨_, rfl, whenOn_safe s (Fit.of_kept (answerWaitExpiry_upkeep _ _ (.refl s)) (by simp)).retry.safe⟩
  | invalidTransmission _ =>
    exact ⟨_, rfl, whenOn_safe s (Fit.of_kept (invalidTransmission_upkeep _ _ (.refl s)) (by simp)).safe⟩
  | offerReceived _ _ _ _ _ _ =>
    exact ⟨_, rfl, whenOn_safe s (Fit.of_kept (offerReceived_upkeep _ _ _ _ _ _ _ (.refl s)) (by simp)).safe⟩
  | chooseReceived _ _ _ _ _ _ =>
    exact ⟨_, rfl, whenOn_safe s (Fit.of_kept (chooseReceived_upkeep _ _ _ _ _ _ _ (.refl s)) (by simp)).safe⟩
  | trainingBurstReceived _ _ _ =>
    exact ⟨_, rfl, whenOn_safe s (Fit.of_kept (burstReceived_upkeep _ _ _ _ (.refl s)) (by simp)).safe⟩
  | trainGoodReceived _ =>
    exact ⟨_, rfl, whenOn_safe s (Fit.of_kept (trainGoodReceived_upkeep _ _ (.refl s)) (by simp)).safe⟩
  | trainBadReceived _ =>
    exact ⟨_, rfl, whenOn_safe s (Fit.of_kept (trainBadReceived_upkeep _ _ (.refl s)) (by simp)).safe⟩
  | lineFrameReceived _ _ =>
    exact ⟨_, rfl, whenOn_safe s (Fit.of_kept (frameReceived_upkeep _ _ _ (.refl s)) (by simp)).safe⟩
  | blockEndReceived _ _ _ _ _ _ =>
    exact ⟨_, rfl, whenOn_safe s (Fit.of_kept (blockEndReceived_upkeep _ _ _ _ _ _ _ (.refl s)) (by simp)).retry.safe⟩
  | resendReceived _ _ =>
    exact ⟨_, rfl, whenOn_safe s (Fit.of_kept (resendReceived_upkeep _ _ _ (.refl s)) (by simp)).safe⟩
  | pageEndReceived _ _ _ _ =>
    exact ⟨_, rfl, whenOn_safe s (Fit.of_kept (pageEndReceived_upkeep _ _ _ _ _ (.refl s)) (by simp)).retry.safe⟩
  | pageGoodReceived _ =>
    exact ⟨_, rfl, whenOn_safe s (Fit.of_kept (pageGoodReceived_upkeep _ _ (.refl s)) (by simp)).safe⟩
  | pageFailedReceived _ =>
    exact ⟨_, rfl, whenOn_safe s (Fit.of_kept (pageFailedReceived_upkeep _ _ (.refl s)) (by simp)).safe⟩
  | quitReceived _ =>
    exact ⟨_, rfl, whenOn_safe s (Fit.of_kept (quitReceived_upkeep _ _ (.refl s)) (by simp)).retry.safe⟩
  | remoteCarrierBegin _ _ =>
    exact ⟨_, rfl, whenOn_safe s (Fit.of_kept (carrierBegin_upkeep _ _ _ (.refl s)) (by simp)).safe⟩
  | carrierAbsent _ => exact ⟨_, rfl, whenOn_safe s (Fit.of_kept (carrierAbsent_upkeep _ _ (.refl s)) (by simp)).safe⟩
  | carrierReturn _ => exact ⟨_, rfl, whenOn_safe s (Fit.of_kept (carrierReturn_upkeep _ _ (.refl s)) (by simp)).safe⟩
  | carrierLossExpiry _ =>
    exact ⟨_, rfl, whenOn_safe s (Fit.of_kept (carrierLossExpiry_upkeep _ _ (.refl s)) (by simp)).retry.safe⟩
  | meteringPulse l => exact ⟨_, rfl, whenOn_safe s (pulse_fit l s).safe⟩
  | printEntryBegin =>
    exact ⟨_, rfl, whenOn_safe s (Fit.of_kept (entryBegin_upkeep _ (.refl s)) (by simp)).retry.safe⟩
  | headLineStruck =>
    exact ⟨_, rfl, whenOn_safe s (Fit.of_kept (headLineStruck_upkeep _ (.refl s)) (by simp)).retry.safe⟩
  | cutFeedDone => exact ⟨_, rfl, whenOn_safe s (Fit.of_kept (cutFeedDone_upkeep _ (.refl s)) (by simp)).safe⟩
  | paperOut => exact ⟨_, rfl, whenOn_safe s (Fit.of_kept (paperGoesOut_upkeep _ (.refl s)) (by simp)).safe⟩
  | paperRestored =>
    exact ⟨_, rfl, whenOn_safe s (Fit.of_kept (paperRestored_upkeep _ (.refl s)) (by simp)).retry.safe⟩
  | jam => exact ⟨_, rfl, whenOn_safe s (Fit.of_kept (jamIndication_upkeep _ (.refl s)) (by simp)).safe⟩
  | jamSensorClear => exact ⟨_, rfl, whenOn_safe s (jamClear_fit s).safe⟩

/-- Settles O2. -/
theorem everyRowCompletesKeepingQueue : Obligations.EveryRowCompletesKeepingQueue := fun i s =>
  let ⟨t, done, safe⟩ := exec_safe i s
  ⟨t, done, safe.pending⟩

/-- A step with no command waiting keeps the invariants, and a step with one is its row's. -/
theorem step_keeps {s t : State} (h : step s = .next t) :
    (s.sound → t.sound) ∧ (s.store.accounted → t.store.accounted) := by
  rcases step_cases h with ⟨-, rfl⟩ | ⟨i, rest, -, done⟩
  · rcases s.idled_eq with same | ⟨-, counted⟩
    · rw [same]; exact ⟨id, id⟩
    · rw [counted]; exact ⟨id, id⟩
  · obtain ⟨t', done', safe⟩ := exec_safe i { s with pending := rest }
    obtain rfl : t' = t := Host.Outcome.next.inj (done'.symm.trans done)
    exact ⟨safe.sound, safe.segments⟩

/-- Settles O5. -/
theorem soundnessKeptByEveryStep : Obligations.SoundnessKeptByEveryStep := fun _ _ sound h => (step_keeps h).1 sound

/-- Settles O6. -/
theorem segmentsAccountedByEveryStep : Obligations.SegmentsAccountedByEveryStep := fun _ _ accounted h =>
  (step_keeps h).2 accounted

end Sys2Proof.Machine
end

section
/-! SUPPORT. A step on the queue's front, the values after reset, and the timekeeper: tenths, crystal, supplies and the
setting of the clock (R191 to R196, R200). -/

namespace Sys2Proof.Machine

/-! ### What a host command's row does with a command that is due -/

theorem exec_answers {i : Instr} {kind tag : Byte} {body fields : List Byte}
    {f : State → Except Status (State × List Byte)} {s s₁ t : State} (row : exec i s = .next (command kind tag body f s))
    (taken : s.takes ⟨kind, tag, body⟩ = some s₁) (done : f s₁ = .ok (t, fields)) :
    exec i s = .next (reply kind tag .ok fields t) := by
  rw [row, command_ok taken done]

/-- An event's row with the main supplies on. -/
theorem exec_event {i : Instr} {act : State → State} {s : State} (on : s.power = true)
    (row : exec i s = .next (whenOn act s)) : exec i s = .next (act s) := by
  rw [row, whenOn_on on]

/-- A row that is one form of a kind. -/
theorem exec_form {i : Instr} {mine : Bool} {kind tag : Byte} {body : List Byte}
    {f : State → Except Status (State × List Byte)} {s : State} (chosen : mine = true)
    (row : exec i s = .next (formCommand mine kind tag body f s)) : exec i s = .next (command kind tag body f s) := by
  subst chosen
  exact row

theorem exec_refuses {i : Instr} {kind tag : Byte} {body : List Byte} {status : Status}
    {f : State → Except Status (State × List Byte)} {s s₁ : State} (row : exec i s = .next (command kind tag body f s))
    (taken : s.takes ⟨kind, tag, body⟩ = some s₁) (done : f s₁ = .error status) :
    exec i s = .next (refuse kind tag status s₁) := by
  rw [row, command_error taken done]

/-! ### The queue's front (O1) and the values after reset (O3) -/

/-- Settles O1. -/
theorem stepTakesFrontCommand : Obligations.StepTakesFrontCommand := by
  intro s
  refine ⟨fun c rest queued => by rw [step, queued], fun empty => ?_⟩
  have idles : step s = .next s.idled := by rw [step, empty]
  rw [idles]
  refine ⟨fun other => ?_, fun on held => ?_⟩
  · rcases other with off | other
    · rw [State.idled, whenOn_off off]
    · rcases s.idled_eq with same | ⟨held, -⟩
      · rw [same]
      · exact absurd held other
  · rw [State.idled, whenOn_on on, holdTenth, if_pos held]
    rfl

/-- Settles O3. -/
theorem resetValues : Obligations.ResetValues := by
  refine ⟨?_, fun _ => ⟨rfl, rfl⟩, rfl, rfl, fun _ => rfl, rfl, fun _ => rfl, fun l => ?_, fun _ => rfl, rfl, rfl, rfl, rfl,
    rfl, rfl, fun _ => rfl, rfl, rfl, rfl, rfl, rfl, rfl, rfl, rfl, rfl⟩
  · simp [State.reset, Store.reset, SegPool.toList, SegPool.reset, List.range_eq_range']
  · fin_cases l <;> exact ⟨rfl, rfl⟩

/-! ### Tenths, crystal and supplies (O12, O13) -/

theorem exec_tenthCounted_powered {s : State} (on : s.power = true)
    (counts : s.tk.crystalRuns = true ∨ s.tk.source = .fallback) : exec .tenthCounted s = .next (tenthPowered s) := by
  have counted : s.tk.counts = true := by simpa [Timekeeper.counts] using counts
  show Host.Outcome.next _ = _
  rw [if_pos on, if_pos counted]

theorem markClockStep_line (s : State) (l : LineNo) : (markClockStep s).line l = (s.line l).clockStepped := by
  rw [markClockStep_eq]
  fin_cases l <;> rfl

/-- Settles O12. -/
theorem tenthCounted : Obligations.TenthCounted := by
  refine ⟨fun s on counts valid short => ?_, fun s on stopped source => ?_, fun s on counts last => ?_⟩
  · obtain ⟨within, next, tenths⟩ := DateTime.tick_spec valid short
    refine ⟨s.now.tick.1, next, tenths, ?_⟩
    have passed : s.tk.time.tick.2 = false := within
    rw [exec_tenthCounted_powered on counts]
    simp [tenthPowered, Timekeeper.advance, passed, State.now]
  · show Host.Outcome.next _ = _
    rw [if_pos on, if_neg]
    simp [Timekeeper.counts, stopped, source]
  · have time : s.tk.time = ⟨2099, 12, 31, 23, 59, 59, 9⟩ := last
    have tick : s.tk.time.tick = (⟨2000, 1, 1, 0, 0, 0, 0⟩, true) := by rw [time]; decide
    refine ⟨_, exec_tenthCounted_powered on counts, ?_⟩
    have passed : tenthPowered s = markClockStep (raiseSuspect .range s.tk.suspect
        { s with tk := { s.tk with time := ⟨2000, 1, 1, 0, 0, 0, 0⟩, suspect := true } }) := by
      simp [tenthPowered, Timekeeper.advance, tick]
    obtain ⟨notices, lost, raised⟩ := raise_frame .timeSuspect (timeSuspectFields .range s.tk.suspect
      { s.tk with time := ⟨2000, 1, 1, 0, 0, 0, 0⟩, suspect := true })
      { s with tk := { s.tk with time := ⟨2000, 1, 1, 0, 0, 0, 0⟩, suspect := true } }
    have tk : (tenthPowered s).tk = { s.tk with time := ⟨2000, 1, 1, 0, 0, 0, 0⟩, suspect := true } := by
      rw [passed, markClockStep_eq, raiseSuspect, raised]
    refine ⟨tk, ?_, fun l => ?_, ?_⟩
    · rw [tk, passed, markClockStep_eq]; rfl
    · rw [passed, markClockStep_line, raiseSuspect, raised]; rfl
    · rw [passed, markClockStep_eq, raiseSuspect, raised]
      intro p other
      cases p <;> first | exact absurd (by decide) other | rfl

/-- Settles O13. -/
theorem crystalAndSupplies : Obligations.CrystalAndSupplies := by
  refine ⟨fun s => ⟨fun on => ?_, fun off runs kept => ?_, fun off runs => ?_, fun off stopped => ?_, rfl, fun off => ?_,
    fun on => ?_⟩, fun s on => ⟨fun source => ?_, fun source => ?_, fun source => ?_⟩⟩
  · exact (exec_event (act := fun s => { s with power := false }) on rfl)
  · show Host.Outcome.next _ = _
    simp [off, tenthUnpowered, runs, kept, Timekeeper.advance, State.now]
  · show Host.Outcome.next _ = _
    simp [off, runs, State.modTk]
  · show Host.Outcome.next _ = _
    simp [off, tenthUnpowered, stopped]
  · show Host.Outcome.next _ = _
    simp [off, State.modTk]
  · exact ⟨s.tk.lose s.draws, rfl, congrArg Host.Outcome.next (if_pos on)⟩
  · refine (exec_event on rfl).trans ?_
    simp only [crystalGap, source, if_true, satAdd]
    rfl
  · refine (exec_event on rfl).trans ?_
    simp [crystalGap, source]
  · refine (exec_event on rfl).trans ?_
    simp [crystalReturn, source, State.modTk]

/-! ### The setting of the clock (O14) -/

theorem Doc.due_iff (d : Doc) (now : DateTime) : d.due now ↔
    (d.state = .queued ∨ d.state = .active) ∧ ∃ x, d.deadline = some x ∧ x.tenths ≤ now.tenths := by
  unfold Doc.due Doc.deadlineReached
  cases d.deadline <;> simp [DateTime.le]

theorem DestState.isWaiting_eq (st : DestState) : st.isWaiting = decide (st = .waiting ∨ st = .retryWait) := by
  cases st <;> rfl

theorem countDests_waiting (s : State) (d : Doc) :
    s.countDests d (fun st => decide (st = .waiting ∨ st = .retryWait)) = (d.dests.filter (waitsIn s.docs.pool)).length := by
  refine congrArg List.length (List.filter_congr fun r _ => ?_)
  unfold waitsIn State.dest
  cases s.docs.pool.get r with
  | none => rfl
  | some x => exact (DestState.isWaiting_eq x.state).symm

theorem countDests_onLine (s : State) (d : Doc) :
    s.countDests d (fun st => decide (st = .onLine)) ≠ 0 ↔ d.dests.any (onLineIn s.docs.pool) = true := by
  rw [State.countDests, ← Nat.pos_iff_ne_zero, List.length_filter_pos_iff, List.any_eq_true]
  rfl

/-- Settles O14. -/
theorem clockSetSetsTheTime : Obligations.ClockSetSetsTheTime := by
  intro tag y mo d h mi sec t s s₁ taken new step
  refine ⟨fun invalid => exec_refuses rfl taken ?_, fun valid => ?_⟩
  · simp [clockSet, show (timeOf y mo d h mi sec t).valid = false from invalid]
  intro mark set r due
  have marked : markClockStep { s₁ with tk := set.tk } = set := markClockStep_eq _
  obtain ⟨u, expired, ⟨store, link, frame⟩, inDue, outside, sameDoc, ended, released⟩ := expireBelow 64 set
  have all : expireAll set = u := expired
  have r_eq : r = { u with docs := { u.docs with passAsked := true } } := by rw [← all]
  have isDue (k : Nat) : due k ↔ k < 64 ∧ (set.docs.docs.get k).due set.now := by rw [Doc.due_iff]; rfl
  have done : clockSet [y, mo, d, h, mi, sec, t] s₁ = .ok (scanRetry r, eTime s₁.now ++ eTime new ++ eStep step ++
      e8 s₁.callsInProgress ++ [s₁.tk.source.code]) := by
    have set_eq : setClock new s₁ = scanRetry r := by
      show scanRetry (askPass (expireAll (markClockStep { s₁ with tk := set.tk }))) = _
      rw [marked]; rfl
    simp only [clockSet]
    rw [if_neg (by simpa using valid), set_eq]
    rfl
  have lines (l : LineNo) : set.line l = mark (s₁.line l) := by fin_cases l <;> rfl
  have r_frame : r = { set with store, link, docs := { s₁.docs with docs := r.docs.docs, pool := r.docs.pool, passAsked := true } } := by
    rw [r_eq]; conv_lhs => rw [frame]
  have documents : r.docs.docs = u.docs.docs ∧ r.docs.pool = u.docs.pool := by rw [r_eq]; exact ⟨rfl, rfl⟩
  have dest (q : Nat) : r.dest q = u.dest q := by unfold State.dest; rw [documents.2]
  have passAsked : r.docs.passAsked = true := rfl
  clear_value r
  refine ⟨exec_answers rfl taken done, fun other => scanRetry_not_held (by rw [r_frame]; exact other), ?_, ?_, fun l => ?_,
    passAsked, congrArg State.docs r_frame, fun q k now mine => ?_, fun q none => ?_, fun k other => ?_, fun k now once apart => ?_, fun kept => ?_⟩
  · rw [r_frame]
    intro p other
    cases p <;> first | exact absurd (by decide) other | rfl
  · rw [r_frame]
  · rw [r_frame]; exact lines l
  · have now := (isDue k).mp now
    rw [dest, inDue q k now.1 now.2 mine]
    refine congrArg (Option.map · _) (funext fun x => ?_)
    simp only [Dest.leaves, DestState.isWaiting_eq, decide_eq_true_eq]
  · rw [dest, outside q fun k low now => none k ((isDue k).mpr ⟨low, now⟩)]
    rfl
  · rw [documents.1, sameDoc k fun now => other ((isDue k).mpr now)]
  · have now' := (isDue k).mp now
    rw [documents.1, ended k now'.1 now'.2 once fun j low ne other => apart j ((isDue j).mpr ⟨low, other⟩) ne]
    show _ = if s₁.countDests (s₁.docs.docs.get k) (fun st => decide (st = .onLine)) ≠ 0 then _ else _
    rw [countDests_waiting]
    split
    · have online := (countDests_onLine _ _).mp ‹_›
      simp [Doc.expires, set, online]
    · have offline := mt (countDests_onLine s₁ (s₁.docs.docs.get k)).mpr ‹_›
      simp [Doc.expires, set, offline]
  · obtain ⟨store, raises⟩ := released fun k low now => kept k ((isDue k).mpr ⟨low, now⟩)
    rw [r_eq]
    exact ⟨store, raises⟩

end Sys2Proof.Machine
end

section
/-! SUPPORT. The receiver of the host link: what octets come to is what they come to one after another, and a frame that
fails has its octets examined again (R204 to R207). -/

namespace Sys2Proof.Machine

/-! ### The frame in receipt -/

/-- The part with these octets as its frame in receipt. -/
def State.hearing (s : State) (candidate : List Byte) : State := s.modLink fun k => { k with candidate }

@[simp] theorem State.hearing_candidate (s : State) (c : List Byte) : (s.hearing c).link.candidate = c := rfl

@[simp] theorem State.hearing_hearing (s : State) (c d : List Byte) : (s.hearing c).hearing d = s.hearing d := rfl

theorem State.hearing_same {s : State} {c : List Byte} (h : s.link.candidate = c) : s.hearing c = s := by
  subst h; rfl

theorem raise_hearing (kind : NoticeKind) (fields c : List Byte) (s : State) :
    raise kind fields (s.hearing c) = (raise kind fields s).hearing c := by
  by_cases masked : kind.level < s.link.mask
  · rw [raise_masked masked, raise_masked (s := s.hearing c) masked]
  have open' := Nat.not_lt.mp masked
  by_cases room : s.link.notices.length < 32
  · rw [raise_room open' room, raise_room (s := s.hearing c) open' room]; rfl
  · rw [raise_full open' (Nat.not_lt.mp room), raise_full (s := s.hearing c) open' (Nat.not_lt.mp room)]; rfl

theorem raiseCheck_hearing (cause : CheckCause) (x c : List Byte) (s : State) :
    raiseCheck cause x (s.hearing c) = (raiseCheck cause x s).hearing c := raise_hearing _ _ c s

theorem completeFrame_hearing (f : Frame) (c : List Byte) (s : State) :
    completeFrame f (s.hearing c) = (completeFrame f s).hearing c := by
  have counts : (s.hearing c).link.held.length = s.link.held.length := rfl
  by_cases room : s.link.held.length < 8
  · simp only [completeFrame, counts, if_pos room]; rfl
  · simp only [completeFrame, counts, if_neg room]; exact raise_hearing _ _ c s

/-! ### What octets come to -/

/-- The octets that a judged candidate takes are there, and more octets do not change the judgement. -/
theorem judge_append {c : List Byte} (more : List Byte) (h : judge c ≠ .partly) :
    judge (c ++ more) = judge c ∧
      match judge c with
      | .partly => True
      | .tooLong => 3 ≤ c.length
      | .complete _ n => 7 ≤ n ∧ n ≤ c.length
      | .badCrc n => 7 ≤ n ∧ n ≤ c.length := by
  match c, h with
  | [], h => exact absurd rfl h
  | [_], h => exact absurd rfl h
  | [_, _], h => exact absurd rfl h
  | o :: n1 :: n0 :: r, h =>
    rw [List.cons_append, List.cons_append, List.cons_append]
    unfold judge at h ⊢
    dsimp only at h ⊢
    by_cases long : 1040 < nat16 n1 n0
    · simp [long]
    · by_cases short : r.length < nat16 n1 n0 + 4
      · simp [long, short] at h
      · have enough : ¬(r ++ more).length < nat16 n1 n0 + 4 := by simp; omega
        simp only [long, short, enough, if_false]
        match r, short with
        | [], short => simp at short
        | [_], short => simp at short
        | kind :: tag :: q, short =>
          simp only [List.length_cons] at short
          have body : (q ++ more).take (nat16 n1 n0) = q.take (nat16 n1 n0) := List.take_append_of_le_length (by omega)
          have check : ((q ++ more).drop (nat16 n1 n0)).take 2 = (q.drop (nat16 n1 n0)).take 2 := by
            rw [List.drop_append_of_le_length (by omega), List.take_append_of_le_length (by simp; omega)]
          simp only [List.cons_append, body, check, true_and]
          split_ifs <;> simp <;> omega

/-! ### Octets examined -/

/-- The fuel of an examination is enough as soon as it is more than the octets. -/
theorem examine_fuel {f g : Nat} {xs : List Byte} (hf : xs.length < f) (hg : xs.length < g) (s : State) :
    examine f xs s = examine g xs s := by
  induction f generalizing g xs s with
  | zero => omega
  | succ f ih =>
    obtain ⟨g, rfl⟩ : ∃ m, g = m + 1 := ⟨g - 1, by omega⟩
    unfold examine
    match xs with
    | [] => rfl
    | o :: rest =>
      simp only [List.length_cons] at hf hg
      dsimp only
      split
      · exact ih (by omega) (by omega) _
      · split
        · rfl
        · exact ih (by omega) (by omega) _
        · rename_i judged
          have took := (judge_append [] (by rw [judged]; nofun)).2
          rw [judged] at took
          dsimp only at took
          exact ih (by simp; omega) (by simp; omega) _
        · exact ih (by omega) (by omega) _

theorem examineAll_nil (s : State) : examineAll [] s = s.hearing [] := rfl

theorem examineAll_skip {o : Byte} (other : o ≠ 0xA5) (rest : List Byte) (s : State) :
    examineAll (o :: rest) s = examineAll rest s := by
  show (if o ≠ 0xA5 then examine (rest.length + 1) rest s else _) = _
  rw [if_pos other]
  rfl

/-- What a candidate that begins the octets makes of them. -/
theorem examineAll_start (rest : List Byte) (s : State) :
    examineAll (0xA5 :: rest) s = match judge (0xA5 :: rest) with
      | .partly => s.hearing (0xA5 :: rest)
      | .tooLong => examineAll rest (raiseCheck .length ((0xA5 :: rest).take 3) s)
      | .complete f n => examineAll ((0xA5 :: rest).drop n) (completeFrame f s)
      | .badCrc n => examineAll rest (raiseCheck .crc ((0xA5 :: rest).take n) s) := by
  unfold examineAll
  rw [examine]
  simp only [ne_eq, not_true_eq_false, if_false]
  cases judged : judge (0xA5 :: rest) with
  | partly => rfl
  | tooLong => exact examine_fuel (by simp) (by simp) _
  | complete f n =>
    have took := (judge_append [] (by rw [judged]; nofun)).2
    rw [judged] at took
    exact examine_fuel (by simp at took ⊢; omega) (by simp) _
  | badCrc n => exact examine_fuel (by simp) (by simp) _

/-- The frame in receipt before an examination does not matter to it. -/
theorem examineAll_hearing (xs c : List Byte) (s : State) : examineAll xs (s.hearing c) = examineAll xs s := by
  induction h : xs.length using Nat.strong_induction_on generalizing xs s with
  | _ n ih =>
    subst h
    match xs with
    | [] => rfl
    | o :: rest =>
      by_cases start : o = 0xA5
      · subst start
        rw [examineAll_start, examineAll_start]
        split
        · rfl
        · rw [raiseCheck_hearing]; exact ih _ (by simp) _ _ rfl
        · rename_i judged
          have took := (judge_append [] (by rw [judged]; nofun)).2
          rw [judged] at took
          rw [completeFrame_hearing]; exact ih _ (by simp at took ⊢; omega) _ _ rfl
        · rw [raiseCheck_hearing]; exact ih _ (by simp) _ _ rfl
      · rw [examineAll_skip start, examineAll_skip start]; exact ih _ (by simp) _ _ rfl

/-- Octets examined are the first of them examined, and then what they left in receipt with the others. -/
theorem examineAll_append (xs ys : List Byte) (s : State) :
    examineAll (xs ++ ys) s = examineAll ((examineAll xs s).link.candidate ++ ys) (examineAll xs s) := by
  induction h : xs.length using Nat.strong_induction_on generalizing xs s with
  | _ n ih =>
    subst h
    match xs with
    | [] => exact (examineAll_hearing ys [] s).symm
    | o :: rest =>
      by_cases start : o = 0xA5
      · subst start
        by_cases partly : judge (0xA5 :: rest) = .partly
        · have heard : examineAll (0xA5 :: rest) s = s.hearing (0xA5 :: rest) := by rw [examineAll_start, partly]
          rw [heard, State.hearing_candidate, examineAll_hearing]
        · obtain ⟨same, took⟩ := judge_append ys partly
          rw [List.cons_append, examineAll_start, examineAll_start, ← List.cons_append, same]
          split
          · exact absurd ‹_› partly
          · rename_i judged
            rw [judged] at took
            rw [List.take_append_of_le_length took]
            exact ih _ (by simp) _ _ rfl
          · rename_i judged
            rw [judged] at took
            rw [List.drop_append_of_le_length took.2]
            exact ih _ (by simp at took ⊢; omega) _ _ rfl
          · rename_i judged
            rw [judged] at took
            rw [List.take_append_of_le_length took.2]
            exact ih _ (by simp) _ _ rfl
      · rw [List.cons_append, examineAll_skip start, examineAll_skip start]; exact ih _ (by simp) _ _ rfl

/-! ### Octets one after another -/

/-- The octets received one after another, each with its stop bit. -/
def receiveAll (octets : List Byte) (s : State) : State := octets.foldl (fun s o => octetReceived o true s) s

theorem examineAll_eq_receiveAll (ys : List Byte) (s : State) : examineAll ys s = receiveAll ys (s.hearing []) := by
  induction ys using List.reverseRecOn with
  | nil => rfl
  | append_singleton ys o ih =>
    rw [examineAll_append, ih, receiveAll, receiveAll, List.foldl_append]
    rfl

theorem execAll_append (is js : List Instr) {s t : State} (h : execAll is s = .next t) :
    execAll (is ++ js) s = execAll js t := by
  induction is generalizing s with
  | nil => cases h; rfl
  | cons i is ih =>
    simp only [List.cons_append, execAll] at h ⊢
    split at h
    · exact ih h
    · cases h
    · cases h

/-! ### What receiving can change -/

/-- An examination step by step: a property of octets, state and outcome that holds where the octets end or stay in
receipt, and that is carried past an octet, a failed candidate and a whole frame, holds of every examination. -/
theorem examineAll_steps {P : List Byte → State → State → Prop} (nil : ∀ s, P [] s (s.hearing []))
    (skip : ∀ o rest s t, P rest s t → P (o :: rest) s t) (partly : ∀ rest s, P rest s (s.hearing rest))
    (failed : ∀ o rest cause x s t, P rest (raiseCheck cause x s) t → P (o :: rest) s t)
    (complete : ∀ f n xs s t, P (xs.drop n) (completeFrame f s) t → P xs s t) (xs : List Byte) (s : State) :
    P xs s (examineAll xs s) := by
  induction h : xs.length using Nat.strong_induction_on generalizing xs s with
  | _ n ih =>
    subst h
    match xs with
    | [] => exact nil s
    | o :: rest =>
      by_cases start : o = 0xA5
      · subst start
        rw [examineAll_start]
        cases judged : judge (0xA5 :: rest) with
        | partly => exact partly _ _
        | tooLong => exact failed _ _ _ _ _ _ (ih _ (by simp) _ _ rfl)
        | complete f n =>
          have took := (judge_append [] (by rw [judged]; nofun)).2
          rw [judged] at took
          exact complete _ _ _ _ _ (ih _ (by simp at took ⊢; omega) _ _ rfl)
        | badCrc n => exact failed _ _ _ _ _ _ (ih _ (by simp) _ _ rfl)
      · rw [examineAll_skip start]
        exact skip _ _ _ _ (ih _ (by simp) _ _ rfl)

theorem examineAll_candidate_length (xs : List Byte) (s : State) : (examineAll xs s).link.candidate.length ≤ xs.length := by
  refine examineAll_steps (P := fun xs _ t => t.link.candidate.length ≤ xs.length) ?_ ?_ ?_ ?_ ?_ xs s
  · exact fun s => Nat.le_refl _
  · exact fun o rest s t h => h.trans (Nat.le_succ _)
  · exact fun rest s => Nat.le_refl _
  · exact fun o rest cause x s t h => h.trans (Nat.le_succ _)
  · exact fun f n xs s t h => h.trans (by simp)

theorem examineAll_no_start {xs : List Byte} (none : (0xA5 : Byte) ∉ xs) (s : State) : examineAll xs s = s.hearing [] := by
  induction xs with
  | nil => rfl
  | cons o rest ih =>
    obtain ⟨other, none⟩ := List.ne_and_not_mem_of_not_mem_cons none
    rw [examineAll_skip other.symm, ih none]

/-- Receiving raises notices, sets the frame in receipt and adds frames to those held. -/
def Receives (s t : State) : Prop :=
  ∃ notices lost candidate new,
    t = { s with link := { s.link with notices, lost, candidate, held := s.link.held ++ new } }

theorem Receives.trans {s t u : State} (h : Receives s t) (g : Receives t u) : Receives s u := by
  obtain ⟨a, b, c, new, rfl⟩ := h
  obtain ⟨a', b', c', new', rfl⟩ := g
  exact ⟨a', b', c', new ++ new', by simp⟩

theorem receives_raise (kind : NoticeKind) (fields : List Byte) (s : State) : Receives s (raise kind fields s) := by
  obtain ⟨a, b, raised⟩ := raise_frame kind fields s
  exact ⟨a, b, s.link.candidate, [], by simp [raised]⟩

theorem receives_completeFrame (f : Frame) (s : State) : Receives s (completeFrame f s) := by
  unfold completeFrame
  split
  · exact ⟨s.link.notices, s.link.lost, s.link.candidate, [f], rfl⟩
  · exact receives_raise _ _ s

theorem receives_hearing (s : State) (c : List Byte) : Receives s (s.hearing c) :=
  ⟨s.link.notices, s.link.lost, c, [], by simp [State.hearing, State.modLink]⟩

theorem receives_examineAll (xs : List Byte) (s : State) : Receives s (examineAll xs s) := by
  refine examineAll_steps (P := fun _ s t => Receives s t) ?_ ?_ ?_ ?_ ?_ xs s
  · exact fun s => receives_hearing s []
  · exact fun _ _ _ _ h => h
  · exact fun rest s => receives_hearing s rest
  · exact fun _ _ _ _ s _ h => (receives_raise _ _ s).trans h
  · exact fun f _ _ s _ h => (receives_completeFrame f s).trans h

/-! ### The frame in receipt fails (R205) -/

theorem failCandidate_fuel (cause : CheckCause) {f g : Nat} {s : State} (hf : s.link.candidate.length < f)
    (hg : s.link.candidate.length < g) : failCandidate cause f s = failCandidate cause g s := by
  induction f generalizing g s with
  | zero => omega
  | succ f ih =>
    obtain ⟨g, rfl⟩ : ∃ m, g = m + 1 := ⟨g - 1, by omega⟩
    unfold failCandidate
    split
    · rfl
    · rename_i o rest heard
      rw [heard, List.length_cons] at hf hg
      have shorter := examineAll_candidate_length rest (raiseCheck cause s.link.candidate s)
      exact ih (by omega) (by omega)

theorem failReceipt_hunting {s : State} (heard : s.link.candidate = []) (cause : CheckCause) : failReceipt cause s = s := by
  simp [failReceipt, failCandidate, heard]

theorem failReceipt_heard {s : State} {o : Byte} {rest : List Byte} (heard : s.link.candidate = o :: rest)
    (cause : CheckCause) :
    failReceipt cause s = failReceipt cause (examineAll rest (raiseCheck cause (o :: rest) s)) := by
  conv_lhs => unfold failReceipt failCandidate
  rw [heard]
  have shorter := examineAll_candidate_length rest (raiseCheck cause (o :: rest) s)
  exact failCandidate_fuel cause (by simpa using shorter) (Nat.lt_succ_self _)

/-- With no start octet among its octets the receiver is hunting again. -/
theorem failReceipt_no_start {s : State} {o : Byte} {rest : List Byte} (heard : s.link.candidate = o :: rest)
    (none : (0xA5 : Byte) ∉ rest) (cause : CheckCause) :
    failReceipt cause s = (raiseCheck cause (o :: rest) s).hearing [] := by
  rw [failReceipt_heard heard, examineAll_no_start none, failReceipt_hunting rfl]

theorem failReceipt_spec (cause : CheckCause) (s : State) :
    Receives s (failReceipt cause s) ∧ (failReceipt cause s).link.candidate = [] := by
  induction h : s.link.candidate.length using Nat.strong_induction_on generalizing s with
  | _ n ih =>
    subst h
    cases heard : s.link.candidate with
    | nil =>
      rw [failReceipt_hunting heard]
      exact ⟨⟨s.link.notices, s.link.lost, s.link.candidate, [], by simp⟩, heard⟩
    | cons o rest =>
      have shorter := examineAll_candidate_length rest (raiseCheck cause (o :: rest) s)
      obtain ⟨received, none⟩ := ih (examineAll rest (raiseCheck cause (o :: rest) s)).link.candidate.length
        (by rw [heard]; exact Nat.lt_succ_of_le shorter) _ rfl
      rw [failReceipt_heard heard]
      exact ⟨((receives_raise _ _ s).trans (receives_examineAll _ _)).trans received, none⟩

theorem octetReceived_power (o : Byte) (stop : Bool) (s : State) : (octetReceived o stop s).power = s.power := by
  have received : Receives s (octetReceived o stop s) := by
    cases stop
    · exact (failReceipt_spec .framing s).1
    · exact receives_examineAll _ s
  obtain ⟨_, _, _, _, same⟩ := received
  rw [same]

theorem execAll_received (octets : List Byte) {s : State} (on : s.power = true) :
    execAll (octets.map fun o => .hostOctetReceived o true) s = .next (receiveAll octets s) := by
  induction octets generalizing s with
  | nil => rfl
  | cons o rest ih =>
    have first : exec (.hostOctetReceived o true) s = .next (octetReceived o true s) := exec_event on rfl
    rw [List.map_cons, execAll, first]
    exact ih ((octetReceived_power o true s).trans on)

/-! ### Whole frames (O8) -/

theorem oct_toNat {n : Nat} (small : n < 256) : (oct n).toNat = n := by
  simpa [oct] using Nat.mod_eq_of_lt small

theorem oct_low_toNat (n : Nat) : (oct n).toNat = n % 256 := by simp [oct]

theorem nat16_e16 {n : Nat} (small : n < 65536) : nat16 (oct (n / 256)) (oct n) = n := by
  rw [nat16, oct_toNat (by omega), oct_low_toNat]; omega

/-- What a frame's octets with two for the check come to. -/
theorem judge_frame (f : Frame) (fits : f.body.length ≤ 1040) (a b : Byte) :
    judge (0xA5 :: (e16 f.body.length ++ [f.kind, f.tag] ++ f.body ++ [a, b])) =
      if crcOctets f.covered = [a, b] then .complete f (f.body.length + 7) else .badCrc (f.body.length + 7) := by
  have size := nat16_e16 (n := f.body.length) (by omega)
  simp [judge, e16, size, Nat.not_lt.mpr fits]

/-- Settles O8. -/
theorem hostFrameReceivedWhole : Obligations.HostFrameReceivedWhole := by
  intro f s on hunting fits
  obtain ⟨a, b, check⟩ : ∃ a b, crcOctets f.covered = [a, b] := ⟨_, _, rfl⟩
  have octets : f.octets = 0xA5 :: (e16 f.body.length ++ [f.kind, f.tag] ++ f.body ++ [a, b]) := by
    rw [Frame.octets, check]; rfl
  have whole : (f.octets).length = f.body.length + 7 := by rw [octets]; simp [e16]
  have received : receiveAll f.octets s = completeFrame f s := by
    rw [← State.hearing_same hunting, ← examineAll_eq_receiveAll, octets, examineAll_start, judge_frame f fits, if_pos check,
      ← octets]
    dsimp only
    rw [List.drop_of_length_le whole.le, examineAll_nil, ← completeFrame_hearing, State.hearing_same hunting]
  rw [execAll_received _ on, received]
  rfl

/-! ### Commands taken, and frames that fail (O7) -/

@[simp] theorem raise_power (kind : NoticeKind) (fields : List Byte) (s : State) :
    (raise kind fields s).power = s.power := by
  obtain ⟨_, _, raised⟩ := raise_frame kind fields s
  rw [raised]

/-- The octets of a failed frame are received again by a receiver in HUNTING. -/
theorem execAll_failed (cause : CheckCause) (candidate octets : List Byte) {s : State} (on : s.power = true) :
    execAll (octets.map fun o => .hostOctetReceived o true)
        (raise .linkCheck (linkCheckFields cause candidate) (s.hearing [])) =
      .next (examineAll octets (raiseCheck cause candidate s)) := by
  rw [raise_hearing, execAll_received (s := (raise _ _ s).hearing []) _ ((raise_power _ _ s).trans on),
    examineAll_eq_receiveAll]
  rfl

/-- Settles O7. -/
theorem octetsAndCommandsTaken : Obligations.OctetsAndCommandsTaken := by
  refine ⟨fun f s on => ⟨fun waits => ?_, fun g rest none held => ?_⟩,
    fun o s on => ⟨fun hunting => ⟨?_, ?_, ?_⟩, fun rest heard none => ⟨?_, ?_⟩⟩,
    fun s on => ⟨fun f a b fits wrong heard => ?_, fun n1 n0 long heard => ?_⟩⟩
  · simp [State.takes, on, Link.take, waits]
  · simp only [State.takes, on, if_true, Link.take, none, held]
    split <;> simp_all
  · refine (exec_event on rfl).trans (congrArg _ ?_)
    rw [octetReceived, if_pos rfl, hunting, List.nil_append]
    split
    · subst o; rfl
    · rw [examineAll_skip ‹_›, examineAll_nil, State.hearing_same hunting]
  · refine (exec_event on rfl).trans ?_
    exact congrArg _ (failReceipt_hunting hunting .framing)
  · refine (exec_event on rfl).trans ?_
    exact congrArg _ (failReceipt_hunting hunting .gap)
  · refine (exec_event on rfl).trans ?_
    exact congrArg _ (failReceipt_no_start heard none .framing)
  · refine (exec_event on rfl).trans ?_
    exact congrArg _ (failReceipt_no_start heard none .gap)
  · have octets : s.link.candidate ++ [b] = 0xA5 :: (e16 f.body.length ++ [f.kind, f.tag] ++ f.body ++ [a, b]) := by
      rw [heard]; simp
    have whole : (s.link.candidate ++ [b]).length = f.body.length + 7 := by rw [octets]; simp [e16]
    have told : linkCheckFields .crc (s.link.candidate ++ [b]) =
        [0, 1, f.kind, 1, f.tag] ++ e16 (f.body.length + 6) := by
      rw [linkCheckFields, whole, octets]; rfl
    refine (exec_event on rfl).trans ?_
    rw [← told]
    refine Eq.trans (congrArg _ ?_) (execAll_failed .crc _ _ on).symm
    show examineAll (s.link.candidate ++ [b]) s = _
    rw [octets] at whole ⊢
    rw [examineAll_start, judge_frame f fits, if_neg (Ne.symm wrong)]
    dsimp only
    rw [List.take_of_length_le whole.le]
  · have octets : s.link.candidate ++ [n0] = [0xA5, n1, n0] := by rw [heard]; rfl
    have told : linkCheckFields .length [0xA5, n1, n0] = [1, 0, 0, 0, 2] := by
      simp [linkCheckFields, CheckCause.code, eOpt, e16, oct]
    refine (exec_event on rfl).trans ?_
    rw [← told]
    refine Eq.trans (congrArg _ ?_) (execAll_failed .length _ _ on).symm
    show examineAll (s.link.candidate ++ [n0]) s = _
    have above : judge [0xA5, n1, n0] = .tooLong := by simp [judge, nat16, Nat.mul_comm n1.toNat, long]
    rw [octets, examineAll_start, above]
    rfl

/-! ### The transmitter, and a new rate (O9) -/

/-- The oldest reply has left with its command's frame (R208). -/
def State.answered (s : State) (rest : List Reply) : State :=
  s.modLink fun k => { k with tx := .free, replies := rest, held := k.held.tail, taken := k.taken - 1 }

theorem replySent_same {s : State} {octets : List Byte} {r : Reply} {rest : List Reply}
    (sending : s.link.tx = .sendingReply octets) (queued : s.link.replies = r :: rest)
    (rate : r.newRate = none ∨ r.newRate = some s.link.rate) : replySent s = s.answered rest := by
  unfold replySent
  rw [sending, queued]
  rcases rate with none | same
  · simp only [none]; rfl
  · simp only [same, State.modLink_link, if_true]; rfl

theorem replySent_newRate {s : State} {octets : List Byte} {r : Reply} {rest : List Reply} {rate : HostRate}
    (sending : s.link.tx = .sendingReply octets) (queued : s.link.replies = r :: rest) (new : r.newRate = some rate)
    (other : rate ≠ s.link.rate) :
    replySent s = failReceipt .framing ((s.answered rest).modLink fun k => { k with rate }) := by
  unfold replySent
  rw [sending, queued]
  simp only [new]
  exact if_neg other

/-- Settles O9. -/
theorem linkTransmits : Obligations.LinkTransmits := by
  refine fun s on => ⟨fun v => rfl, fun r rest free ready queued => ?_, fun n rest free ready none queued => ?_,
    fun waits => ?_, fun octets r rest sending queued rate => ?_, fun octets r rest rate sending queued new hunting => ?_,
    fun octets r rest rate o more sending queued new other heard => ?_, fun octets sending => ?_⟩
  · refine (exec_event on rfl).trans (congrArg _ ?_)
    simp [transmitStart, free, ready, queued, State.modLink]
  · refine (exec_event on rfl).trans (congrArg _ ?_)
    simp [transmitStart, free, ready, none, queued, State.modLink]
  · refine (exec_event on rfl).trans (congrArg _ ?_)
    simp [transmitStart, waits]
  · exact (exec_event on rfl).trans (congrArg _ (replySent_same sending queued rate))
  · refine (exec_event on rfl).trans (congrArg _ ?_)
    by_cases same : rate = s.link.rate
    · subst same
      exact replySent_same sending queued (.inr new)
    · rw [replySent_newRate sending queued new same]
      exact failReceipt_hunting (s := (s.answered rest).modLink fun k => { k with rate }) hunting .framing
  · intro sent failed
    have row : exec .replySent s = .next (failReceipt .framing sent) :=
      (exec_event on rfl).trans (congrArg _ (replySent_newRate sending queued new other))
    refine ⟨fun none => ?_, ?_, ?_⟩
    · rw [row]
      exact congrArg _ (failReceipt_no_start (s := sent) heard none .framing)
    · have again : execAll (more.map fun x => .hostOctetReceived x true) (failed.hearing []) =
          .next (examineAll more (raiseCheck .framing (o :: more) sent)) := by
        rw [← raise_hearing]; exact execAll_failed _ _ _ on
      have last := execAll_append _ [.hostOctetReceived 0 false] again
      refine row.trans (Eq.trans ?_ last.symm)
      have still : (examineAll more (raiseCheck .framing (o :: more) sent)).power = true := by
        obtain ⟨_, _, _, _, same⟩ := (receives_raise _ _ sent).trans (receives_examineAll more _)
        exact (congrArg State.power same).trans on
      rw [failReceipt_heard (s := sent) heard, execAll, exec_event still rfl]
      rfl
    · obtain ⟨⟨notices, lost, candidate, new, received⟩, hunting⟩ := failReceipt_spec .framing sent
      refine ⟨_, new, row, ?_, hunting, ?_⟩
      · rw [received]
        intro p other
        cases p <;> first | exact absurd (by decide) other | rfl
      · rw [received]; exact ⟨rfl, rfl, rfl, rfl, rfl⟩
  · refine (exec_event on rfl).trans (congrArg _ ?_)
    simp [noticeSent, sending, State.modLink]

end Sys2Proof.Machine
end

section
/-! SUPPORT. What the formats of 11.7.1 carry is what is read of them: numbers, counted strings, optional fields. -/

namespace Sys2Proof.Machine

/-! ### Numbers -/

theorem clamp_eq (lo hi x : Nat) : clamp lo hi x = max lo (min hi x) := rfl

theorem nat16_eq (a b : Byte) : nat16 a b = 256 * a.toNat + b.toNat := by rw [nat16, Nat.mul_comm]

theorem nat16_lt (a b : Byte) : nat16 a b < 65536 := by
  have := a.isLt; have := b.isLt
  rw [nat16]; omega

theorem nat32_e32 {n : Nat} (small : n < 4294967296) :
    nat32 (oct (n / 16777216)) (oct (n / 65536)) (oct (n / 256)) (oct n) = n := by
  simp only [nat32, oct_low_toNat]; omega

@[simp] theorem e8_length (n : Nat) : (e8 n).length = 1 := rfl

@[simp] theorem e16_length (n : Nat) : (e16 n).length = 2 := rfl

/-! ### Strings and optional fields -/

theorem allSome_map {α β : Type} {f : α → Option β} {g : α → β} {l : List α} (h : ∀ a ∈ l, f a = some (g a)) :
    allSome (l.map f) = some (l.map g) := by
  induction l with
  | nil => rfl
  | cons a l ih =>
    rw [List.forall_mem_cons] at h
    rw [List.map_cons, h.1, allSome, ih h.2]
    rfl

theorem allSome_map_none {α β : Type} {f : α → Option β} {l : List α} (h : ∃ a ∈ l, f a = none) :
    allSome (l.map f) = none := by
  induction l with
  | nil => simp at h
  | cons a l ih =>
    rw [List.map_cons]
    cases ha : f a with
    | none => rfl
    | some b =>
      rw [allSome, ih]
      · rfl
      · obtain ⟨x, mem, hx⟩ := h
        rcases List.mem_cons.mp mem with rfl | mem
        · rw [hx] at ha; cases ha
        · exact ⟨x, mem, hx⟩

theorem flatMap_e8 (l : List Nat) : l.flatMap e8 = l.map oct := by
  induction l with
  | nil => rfl
  | cons a l ih => rw [List.flatMap_cons, ih]; rfl

theorem readCounted_counted {l : List Byte} (fits : l.length < 256) (rest : List Byte) :
    readCounted (e8 l.length ++ (l ++ rest)) = .ok (l, rest) := by
  have count : (oct l.length).toNat = l.length := oct_toNat fits
  simp [readCounted, e8, count]

theorem readCounted_eDigits {digits : List Nat} (fits : digits.length ≤ 255) (rest : List Byte) :
    readCounted (eDigits digits ++ rest) = .ok (digits.map oct, rest) := by
  have read := readCounted_counted (l := digits.map oct) (by rw [List.length_map]; omega) rest
  rw [List.length_map] at read
  rw [eDigits, eList, flatMap_e8, List.append_assoc, read]

theorem digitsOf_map {digits : List Nat} (decimal : ∀ x ∈ digits, x ≤ 9) : digitsOf (digits.map oct) = some digits := by
  rw [digitsOf, List.map_map, allSome_map (g := id), List.map_id]
  intro x mem
  have small := decimal x mem
  have value : (oct x).toNat = x := oct_toNat (by omega)
  simp [value, small]

theorem readOptOctet_eOpt {z : Option Nat} (small : ∀ n, z = some n → n ≤ 255) : readOptOctet (eOpt e8 z) = .ok z := by
  cases z with
  | none => rfl
  | some n =>
    have value : (oct n).toNat = n := oct_toNat (Nat.lt_succ_of_le (small n rfl))
    simp [readOptOctet, readOpt, eOpt, e8, value]

theorem readOpt_eOpt {α : Type} {f : α → List Byte} {n : Nat} (size : ∀ a, (f a).length = n) (v : Option α) :
    readOpt n (eOpt f v) = .ok (v.map f, []) := by
  cases v with
  | none => rfl
  | some a =>
    have whole := size a
    simp [readOpt, eOpt, whole, List.take_of_length_le whole.le, List.drop_of_length_le whole.le]

end Sys2Proof.Machine
end

section
/-! SUPPORT. The prefixes and the zone lookup (R154 to R156). -/

namespace Sys2Proof.Machine

/-! ### The list's order -/

theorem digitsBefore_iff (a b : List Nat) : digitsBefore a b = true ↔ a < b := by
  induction a generalizing b with
  | nil => cases b <;> simp [digitsBefore]
  | cons x a ih =>
    cases b with
    | nil => simp [digitsBefore]
    | cons y b =>
      rw [digitsBefore, List.cons_lt_cons_iff]
      split
      · simp [*]
      · simp [*]

/-- The prefixes ascend. -/
def Ascend (l : List PrefixEntry) : Prop := l.Pairwise fun x y => digitsBefore x.digits y.digits = true

theorem ascend_cons {x : PrefixEntry} {l : List PrefixEntry} :
    Ascend (x :: l) ↔ (∀ y ∈ l, x.digits < y.digits) ∧ Ascend l := by
  rw [Ascend, List.pairwise_cons]
  exact and_congr_left' (forall₂_congr fun _ _ => digitsBefore_iff _ _)

theorem mem_putPrefix_of {e x : PrefixEntry} {l : List PrefixEntry} (mem : x ∈ putPrefix e l) : x = e ∨ x ∈ l := by
  induction l with
  | nil => simpa [putPrefix] using mem
  | cons y ys ih =>
    unfold putPrefix at mem
    split at mem
    · rcases List.mem_cons.mp mem with rfl | mem
      · exact .inl rfl
      · exact .inr (List.mem_cons_of_mem _ mem)
    · split at mem
      · exact List.mem_cons.mp mem
      · rcases List.mem_cons.mp mem with rfl | mem
        · exact .inr List.mem_cons_self
        · exact (ih mem).imp_right (List.mem_cons_of_mem _)

theorem putPrefix_ascend {e : PrefixEntry} {l : List PrefixEntry} (sorted : Ascend l) : Ascend (putPrefix e l) := by
  induction l with
  | nil => exact List.pairwise_singleton _ _
  | cons y ys ih =>
    obtain ⟨least, sorted⟩ := ascend_cons.mp sorted
    unfold putPrefix
    split
    · rename_i same
      exact ascend_cons.mpr ⟨fun x mem => same ▸ least x mem, sorted⟩
    · rename_i other
      split
      · rename_i before
        rw [digitsBefore_iff] at before
        refine ascend_cons.mpr ⟨fun x mem => ?_, ascend_cons.mpr ⟨least, sorted⟩⟩
        rcases List.mem_cons.mp mem with rfl | mem
        · exact before
        · exact before.trans (least x mem)
      · rename_i after
        rw [digitsBefore_iff] at after
        refine ascend_cons.mpr ⟨fun x mem => ?_, ih sorted⟩
        rcases mem_putPrefix_of mem with rfl | mem
        · exact lt_of_le_of_ne (not_lt.mp after) other
        · exact least x mem

theorem mem_putPrefix {e x : PrefixEntry} {l : List PrefixEntry} (sorted : Ascend l) :
    x ∈ putPrefix e l ↔ x = e ∨ x ∈ l ∧ x.digits ≠ e.digits := by
  induction l with
  | nil => simp [putPrefix]
  | cons y ys ih =>
    obtain ⟨least, sorted⟩ := ascend_cons.mp sorted
    unfold putPrefix
    split
    · rename_i same
      rw [List.mem_cons, List.mem_cons]
      refine or_congr_right ⟨fun mem => ⟨.inr mem, (same ▸ least x mem).ne'⟩, fun ⟨mem, other⟩ => ?_⟩
      exact mem.resolve_left fun h => other (h ▸ same)
    · rename_i other
      split
      · rename_i before
        rw [digitsBefore_iff] at before
        rw [List.mem_cons]
        refine or_congr_right ⟨fun mem => ⟨mem, ?_⟩, And.left⟩
        rcases List.mem_cons.mp mem with rfl | mem
        · exact before.ne'
        · exact (before.trans (least x mem)).ne'
      · rw [List.mem_cons, ih sorted, List.mem_cons]
        constructor
        · rintro (rfl | rfl | ⟨mem, ne⟩)
          · exact .inr ⟨.inl rfl, other⟩
          · exact .inl rfl
          · exact .inr ⟨.inr mem, ne⟩
        · rintro (rfl | ⟨rfl | mem, ne⟩)
          · exact .inr (.inl rfl)
          · exact .inl rfl
          · exact .inr (.inr ⟨mem, ne⟩)

/-- An entry that alone has its digits is found by them. -/
theorem prefixPosition_of_mem {e : PrefixEntry} {l : List PrefixEntry} (mem : e ∈ l)
    (alone : ∀ x ∈ l, x.digits = e.digits → x = e) : ∃ k, prefixPosition e.digits l = some k ∧ l[k]? = some e := by
  cases found : prefixPosition e.digits l with
  | none =>
    rw [prefixPosition, List.findIdx?_eq_none_iff] at found
    exact absurd (found e mem) (by simp)
  | some k =>
    rw [prefixPosition, List.findIdx?_eq_some_iff_getElem] at found
    obtain ⟨low, same, -⟩ := found
    exact ⟨k, rfl, by rw [List.getElem?_eq_getElem low, alone _ (List.getElem_mem low) (by simpa using same)]⟩

theorem prefixPosition_isNone (digits : List Nat) (l : List PrefixEntry) :
    (prefixPosition digits l).isNone = true ↔ ∀ e ∈ l, e.digits ≠ digits := by
  simp [prefixPosition]

/-! ### The lookup -/

theorem prefixMatches_iff (a b : List Nat) : prefixMatches a b = true ↔ a <+: b := by
  induction a generalizing b with
  | nil => simp [prefixMatches]
  | cons x a ih =>
    cases b with
    | nil => simp [prefixMatches]
    | cons y b => simp [prefixMatches, ih, List.cons_prefix_cons]

/-- No prefix of the list begins the number where none is found, and a prefix found is a longest of them. -/
theorem longestMatch_spec (number : List Nat) (l : List PrefixEntry) :
    (longestMatch number l = none → ∀ x ∈ l, ¬ x.digits <+: number) ∧
      ∀ w, longestMatch number l = some w →
        w ∈ l ∧ w.digits <+: number ∧ ∀ x ∈ l, x.digits <+: number → x.digits.length ≤ w.digits.length := by
  induction l with
  | nil => exact ⟨fun _ => nofun, nofun⟩
  | cons e es ih =>
    unfold longestMatch
    cases found : longestMatch number es with
    | none =>
      have rest := ih.1 found
      by_cases here : e.digits <+: number
      · simp only [(prefixMatches_iff _ _).mpr here, if_true]
        refine ⟨nofun, fun w same => ?_⟩
        cases same
        refine ⟨List.mem_cons_self, here, fun x mem begins => ?_⟩
        rcases List.mem_cons.mp mem with rfl | mem
        · exact Nat.le_refl _
        · exact absurd begins (rest x mem)
      · simp only [mt (prefixMatches_iff _ _).mp here]
        refine ⟨fun _ x mem => ?_, nofun⟩
        rcases List.mem_cons.mp mem with rfl | mem
        · exact here
        · exact rest x mem
    | some w =>
      obtain ⟨mem, begins, longest⟩ := ih.2 w found
      simp only [Bool.and_eq_true, prefixMatches_iff, decide_eq_true_eq]
      by_cases longer : e.digits <+: number ∧ w.digits.length < e.digits.length
      · rw [if_pos longer]
        refine ⟨nofun, fun v same => ?_⟩
        cases same
        refine ⟨List.mem_cons_self, longer.1, fun x mem begins => ?_⟩
        rcases List.mem_cons.mp mem with rfl | mem
        · exact Nat.le_refl _
        · exact (longest x mem begins).trans longer.2.le
      · rw [if_neg longer]
        refine ⟨nofun, fun v same => ?_⟩
        cases same
        refine ⟨List.mem_cons_of_mem _ mem, begins, fun x mem begins => ?_⟩
        rcases List.mem_cons.mp mem with rfl | mem
        · exact Nat.le_of_not_lt fun h => longer ⟨begins, h⟩
        · exact longest x mem begins

/-! ### PREFIX-SET (O54) -/

theorem prefixSet_read {digits : List Nat} {zone : Option Nat} (counted : digits.length ≤ 255)
    (decimal : ∀ x ∈ digits, x ≤ 9) (octet : ∀ z, zone = some z → z ≤ 255) (s : State) :
    prefixSet (0 :: (eDigits digits ++ eOpt e8 zone)) s =
      if 12 < digits.length ∨ zone.any (fun z => decide (15 < z)) then .error .badField
      else if digits = [] then
        .ok ({ s with charge := { s.charge with defaultZone := zone } },
          e8 s.charge.prefixes.length ++ eOpt e8 zone ++ [0])
      else if 128 ≤ s.charge.prefixes.length ∧ (prefixPosition digits s.charge.prefixes).isNone then .error .tableFull
      else
        .ok ({ s with charge := { s.charge with prefixes := putPrefix ⟨digits, zone⟩ s.charge.prefixes } },
          prefixTail { s.charge with prefixes := putPrefix ⟨digits, zone⟩ s.charge.prefixes } ++
            eOpt e8 (prefixPosition digits (putPrefix ⟨digits, zone⟩ s.charge.prefixes))) := by
  have fields : prefixFields (0 :: (eDigits digits ++ eOpt e8 zone)) = .ok (eDigits digits ++ eOpt e8 zone) := rfl
  simp only [prefixSet, fields, readCounted_eDigits counted, readOptOctet_eOpt octet, digitsOf_map decimal]
  rfl

theorem prefixRemove_read {digits : List Nat} (counted : digits.length ≤ 255) (decimal : ∀ x ∈ digits, x ≤ 9) (s : State) :
    prefixRemove (1 :: eDigits digits) s =
      if digits = [] ∨ 12 < digits.length then .error .badField
      else if (prefixPosition digits s.charge.prefixes).isNone then .error .noSuchEntry
      else
        .ok ({ s with charge := { s.charge with
            prefixes := s.charge.prefixes.filter fun e => decide (e.digits ≠ digits) } },
          prefixTail { s.charge with prefixes := s.charge.prefixes.filter fun e => decide (e.digits ≠ digits) }) := by
  have fields : prefixFields (1 :: eDigits digits) = .ok (eDigits digits ++ []) := by rw [List.append_nil]; rfl
  simp only [prefixRemove, fields, readCounted_eDigits counted, digitsOf_map decimal]

/-- Settles O54. -/
theorem prefixesSetAndLookedUp : Obligations.PrefixesSetAndLookedUp := by
  refine ⟨fun tag digits zone s s₁ counted decimal octet => ⟨fun taken => ?_, fun taken some short => ?_⟩,
    fun c number => ⟨fun e mem begins longest => ?_, fun none => ?_⟩⟩
  · have read := prefixSet_read counted decimal octet s₁
    have zones (within : ∀ z, zone = some z → z ≤ 15) : ¬(zone.any fun z => decide (15 < z)) = true := by
      cases zone with
      | none => simp
      | some z => simpa using within z rfl
    refine ⟨fun bad => exec_refuses rfl taken (read.trans (if_pos (bad.imp_right ?_))), fun within =>
      ⟨?_, fun some short full new => ?_, fun some short room sorted => ?_⟩⟩
    · rintro ⟨z, rfl, above⟩
      simpa using above
    · rintro rfl
      refine exec_answers rfl taken (read.trans ?_)
      rw [if_neg (by simpa using zones within), if_pos rfl]
    · refine exec_refuses rfl taken (read.trans ?_)
      rw [if_neg (not_or.mpr ⟨by omega, zones within⟩), if_neg some,
        if_pos ⟨full, (prefixPosition_isNone _ _).mpr new⟩]
    · have members := fun x => mem_putPrefix (e := ⟨digits, zone⟩) (x := x) sorted
      obtain ⟨k, found, at_k⟩ := prefixPosition_of_mem ((members _).mpr (.inl rfl)) fun x mem same =>
        ((members x).mp mem).resolve_right fun other => other.2 same
      refine ⟨_, k, exec_answers rfl taken (read.trans ?_), at_k, members, putPrefix_ascend sorted⟩
      rw [if_neg (not_or.mpr ⟨by omega, zones within⟩), if_neg some, if_neg]
      · rw [found]; rfl
      · rintro ⟨full, new⟩
        rw [prefixPosition_isNone] at new
        rcases room with room | ⟨e, mem, same⟩
        · omega
        · exact new e mem same
  · have read := prefixRemove_read counted decimal s₁
    rw [if_neg (not_or.mpr ⟨some, by omega⟩)] at read
    refine ⟨fun ⟨e, mem, same⟩ => ⟨_, rfl, exec_answers rfl taken (read.trans (if_neg ?_))⟩,
      fun none => exec_refuses rfl taken (read.trans (if_pos ?_))⟩
    · rw [prefixPosition_isNone]
      exact fun none => none e mem same
    · exact (prefixPosition_isNone _ _).mpr none
  · obtain ⟨missing, found⟩ := longestMatch_spec number c.prefixes
    unfold Charging.lookup
    cases matched : longestMatch number c.prefixes with
    | none => exact absurd begins (missing matched e mem)
    | some w =>
      obtain ⟨mem', begins', top⟩ := found w matched
      by_cases same : w = e
      · rw [same]
      · exact absurd (top e mem begins) (Nat.not_le.mpr (longest w mem' begins' same))
  · unfold Charging.lookup
    cases matched : longestMatch number c.prefixes with
    | none => rfl
    | some w =>
      obtain ⟨mem, begins, -⟩ := (longestMatch_spec number c.prefixes).2 w matched
      exact absurd begins (none w mem)

end Sys2Proof.Machine
end

section
/-! SUPPORT. The tariff tables (R157 to R162), desks and call log (R177 to R188), and CONFIG-SET (R213). -/

namespace Sys2Proof.Machine

/-! ### Codes of the tariff tables -/

theorem zoneRoundingOf_code (r : ZoneRounding) : zoneRoundingOf r.code = some r := by cases r <;> rfl

theorem zoneRoundingOf_unnamed {b : Byte} (unnamed : 2 ≤ b.toNat) : zoneRoundingOf b = none := by
  unfold zoneRoundingOf
  rw [if_neg (by rintro rfl; simp at unnamed), if_neg (by rintro rfl; simp at unnamed)]

theorem dayTypeOf_code (d : DayType) : dayTypeOf d.code = some d := by cases d <;> rfl

theorem dayTypeOf_unnamed {b : Byte} (unnamed : 3 ≤ b.toNat) : dayTypeOf b = none := by
  unfold dayTypeOf
  rw [if_neg (by rintro rfl; simp at unnamed), if_neg (by rintro rfl; simp at unnamed),
    if_neg (by rintro rfl; simp at unnamed)]

/-! ### Band starts (R160) -/

theorem bandStarts_written {starts : List (Nat × Nat)} (fits : ∀ x ∈ starts, x.1 < 65536 ∧ x.2 < 256) :
    bandStarts (starts.flatMap fun x => e16 x.1 ++ e8 x.2) = starts := by
  induction starts with
  | nil => rfl
  | cons x starts ih =>
    rw [List.forall_mem_cons] at fits
    rw [List.flatMap_cons]
    show (nat16 (oct (x.1 / 256)) (oct x.1), (oct x.2).toNat) :: bandStarts (starts.flatMap fun x => e16 x.1 ++ e8 x.2) = _
    rw [nat16_e16 fits.1.1, oct_toNat fits.1.2, ih fits.2]

theorem bandStarts_written_length (starts : List (Nat × Nat)) :
    (starts.flatMap fun x => e16 x.1 ++ e8 x.2).length = 3 * starts.length := by
  induction starts with
  | nil => rfl
  | cons x starts ih => rw [List.flatMap_cons, List.length_append, ih]; simp; omega

theorem minutesOnce_iff (starts : List (Nat × Nat)) : minutesOnce starts = true ↔ (starts.map (·.1)).Nodup := by
  induction starts with
  | nil => simp [minutesOnce]
  | cons x starts ih =>
    simp only [minutesOnce, Bool.and_eq_true, List.all_eq_true, decide_eq_true_eq, ih, List.map_cons, List.nodup_cons,
      List.mem_map, not_exists, not_and]

theorem insertStart_perm (x : Nat × Nat) (l : List (Nat × Nat)) : (insertStart x l).Perm (x :: l) := by
  induction l with
  | nil => rfl
  | cons y ys ih =>
    unfold insertStart
    split
    · rfl
    · exact (ih.cons y).trans (.swap x y ys)

theorem insertStart_ascend {x : Nat × Nat} {l : List (Nat × Nat)} (new : ∀ y ∈ l, y.1 ≠ x.1)
    (sorted : l.Pairwise fun a b => a.1 < b.1) : (insertStart x l).Pairwise fun a b => a.1 < b.1 := by
  induction l with
  | nil => exact List.pairwise_singleton _ _
  | cons y ys ih =>
    obtain ⟨least, rest⟩ := List.pairwise_cons.mp sorted
    rw [List.forall_mem_cons] at new
    unfold insertStart
    split
    · rename_i before
      refine List.pairwise_cons.mpr ⟨fun z mem => ?_, sorted⟩
      rcases List.mem_cons.mp mem with rfl | mem
      · exact before
      · exact before.trans (least z mem)
    · rename_i after
      refine List.pairwise_cons.mpr ⟨fun z mem => ?_, ih new.2 rest⟩
      rcases List.mem_cons.mp ((insertStart_perm x ys).mem_iff.mp mem) with rfl | mem
      · exact lt_of_le_of_ne (not_lt.mp after) new.1
      · exact least z mem

theorem sortStarts_perm (starts : List (Nat × Nat)) : (starts.foldr insertStart []).Perm starts := by
  induction starts with
  | nil => rfl
  | cons x starts ih => exact (insertStart_perm x _).trans (ih.cons x)

theorem sortStarts_ascend {starts : List (Nat × Nat)} (once : (starts.map (·.1)).Nodup) :
    (starts.foldr insertStart []).Pairwise fun a b => a.1 < b.1 := by
  induction starts with
  | nil => exact .nil
  | cons x starts ih =>
    rw [List.map_cons, List.nodup_cons] at once
    exact insertStart_ascend
      (fun y mem same => once.1 (List.mem_map.mpr ⟨y, (sortStarts_perm starts).mem_iff.mp mem, same⟩)) (ih once.2)

/-- The schedule of one day type becomes this list. -/
def Charging.setSchedule (c : Charging) (kept : List (Nat × Nat)) : DayType → Charging
  | .workday => { c with workday := kept }
  | .saturday => { c with saturday := kept }
  | .restDay => { c with restDay := kept }

theorem Charging.setSchedule_spec (c : Charging) (kept : List (Nat × Nat)) (day : DayType) :
    (c.setSchedule kept day).schedule day = kept ∧
      (∀ other, other ≠ day → (c.setSchedule kept day).schedule other = c.schedule other) ∧
      c.setSchedule kept day = { c with
        workday := (c.setSchedule kept day).workday, saturday := (c.setSchedule kept day).saturday,
        restDay := (c.setSchedule kept day).restDay } := by
  cases day <;> refine ⟨rfl, fun other ne => ?_, rfl⟩ <;> cases other <;> first | rfl | exact absurd rfl ne

/-- The starts are a schedule that R160 takes. -/
def StartsTaken (starts : List (Nat × Nat)) : Prop :=
  starts.length ≤ 8 ∧ (∀ x ∈ starts, x.1 ≤ 1439 ∧ x.2 ≤ 7) ∧ (starts.map (·.1)).Nodup

theorem bandWrite_read (b : Byte) {starts : List (Nat × Nat)} (counted : starts.length ≤ 255)
    (fits : ∀ x ∈ starts, x.1 < 65536 ∧ x.2 < 256) (s : State) :
    (dayTypeOf b = none ∨ ¬StartsTaken starts →
      bandWrite (b :: (e8 starts.length ++ starts.flatMap fun x => e16 x.1 ++ e8 x.2)) s = .error .badField) ∧
    ∀ day, dayTypeOf b = some day → StartsTaken starts →
      bandWrite (b :: (e8 starts.length ++ starts.flatMap fun x => e16 x.1 ++ e8 x.2)) s =
        .ok ({ s with charge := s.charge.setSchedule (starts.foldr insertStart []) day },
          eList eBandStart (starts.foldr insertStart [])) := by
  have count : (oct starts.length).toNat = starts.length := oct_toNat (by omega)
  have test : (8 < starts.length ∨ (starts.any fun st => decide (1439 < st.1) || decide (7 < st.2)) = true ∨
      (!minutesOnce starts) = true) ↔ ¬StartsTaken starts := by
    simp only [StartsTaken, List.any_eq_true, Bool.or_eq_true, decide_eq_true_eq, Bool.not_eq_true', ← minutesOnce_iff,
      not_and_or, not_le, not_forall, exists_prop, Bool.not_eq_true]
  have lengths : ¬(starts.flatMap fun x => e16 x.1 ++ e8 x.2).length ≠ 3 * (oct starts.length).toNat := by
    rw [bandStarts_written_length, count]; simp
  have shape : b :: (e8 starts.length ++ starts.flatMap fun x => e16 x.1 ++ e8 x.2) =
      b :: oct starts.length :: starts.flatMap fun x => e16 x.1 ++ e8 x.2 := rfl
  rw [shape, bandWrite, if_neg lengths, bandStarts_written fits, count]
  refine ⟨fun bad => ?_, fun day named taken => ?_⟩
  · split
    · rfl
    · rename_i named
      exact if_pos (test.mpr (bad.resolve_left (by rw [named]; nofun)))
  · rw [named]
    refine (if_neg (mt test.mp (not_not.mpr taken))).trans ?_
    cases day <;> rfl

/-! ### The tariff tables' commands (O55) -/

theorem monthDays_le (year month : Nat) : monthDays year month ≤ 31 := by
  unfold monthDays; split_ifs <;> omega

theorem holidayWrite_read {n : Byte} {date : Option Date} (valid : ∀ d, date = some d → d.valid = true) (s : State) :
    holidayWrite (n :: eOpt eDate date) s =
      if 15 < n.toNat then .error .noSuchEntry
      else .ok ({ s with charge := { s.charge with holidays := s.charge.holidays.set n.toNat date } },
        ((s.charge.holidays.set n.toNat date).toList 16).flatMap (eOpt eDate)) := by
  have read : readOpt 3 (eOpt eDate date) = .ok (date.map eDate, []) := readOpt_eOpt (f := eDate) (fun _ => rfl) date
  simp only [holidayWrite, read]
  split
  · rfl
  · cases date with
    | none => rfl
    | some d =>
      have within := valid d rfl
      obtain ⟨⟨early, late⟩, ⟨low, high⟩, first, last⟩ := d.valid_iff.mp within
      have days := monthDays_le d.year d.month
      have same : dateOf (oct (d.year - 2000)) (oct d.month) (oct d.day) = d := by
        rw [dateOf, oct_toNat (by omega), oct_toNat (by omega), oct_toNat (by omega)]
        rw [Nat.add_sub_cancel' early]
      simp only [Option.map_some, eDate, same]
      rw [if_pos (by simpa using within)]
      rfl

/-- Settles O55. -/
theorem tariffTablesSet : Obligations.TariffTablesSet := by
  intro tag s s₁
  refine ⟨fun z mode m taken => ⟨fun rounding low named => ?_, fun high => ?_, fun low unnamed => ?_⟩,
    fun z b setup p1 p0 taken => ⟨fun low named => ?_, fun bad => ?_⟩,
    fun day starts counted fits taken => ⟨fun few ranges once => ?_, fun bad => ?_⟩,
    fun b starts unnamed counted taken => ?_, fun body seven unnamed taken => ?_, fun n y m d low invalid taken => ?_,
    fun days seven taken => ?_, fun n date valid taken => ⟨fun low => ?_, fun high => ?_⟩, fun p1 p0 taken => ?_⟩
  · have read : zoneRoundingOf mode = some rounding := named ▸ zoneRoundingOf_code rounding
    refine ⟨{ s₁.charge with zones := s₁.charge.zones.modify z.toNat fun r =>
      { r with rounding, minimum := clamp 0 15 m.toNat } }, exec_answers rfl taken ?_, rfl, fun k => ?_⟩
    · simp only [zoneWrite, if_neg (Nat.not_lt.mpr low), read]
    · rw [Table.modify, Table.get_set, clamp_eq, Nat.zero_max]
      split
      · rename_i same; rw [same]
      · rfl
  · exact exec_refuses rfl taken (if_pos high)
  · refine exec_refuses rfl taken ?_
    simp only [zoneWrite, if_neg (Nat.not_lt.mpr low), zoneRoundingOf_unnamed unnamed]
  · refine ⟨{ s₁.charge with zones := s₁.charge.zones.modify z.toNat fun r => { r with
      rates := r.rates.set b.toNat ⟨clamp 0 15 setup.toNat, clamp 0 65535 (nat16 p1 p0)⟩ } },
      exec_answers rfl taken (if_neg (by omega)), rfl, fun k => ?_⟩
    have period : clamp 0 65535 (nat16 p1 p0) = 256 * p1.toNat + p0.toNat := by
      have := nat16_lt p1 p0
      rw [clamp_eq, ← nat16_eq]; omega
    rw [Table.modify, Table.get_set, period, clamp_eq, Nat.zero_max]
    split
    · rename_i same; rw [same]
    · rfl
  · exact exec_refuses rfl taken (if_pos bad)
  · obtain ⟨same, others, rest⟩ := s₁.charge.setSchedule_spec (starts.foldr insertStart []) day
    exact ⟨_, _, exec_answers rfl taken ((bandWrite_read _ counted fits s₁).2 day (dayTypeOf_code day) ⟨few, ranges, once⟩),
      sortStarts_perm starts, sortStarts_ascend once, same, others, rest⟩
  · refine exec_refuses rfl taken ((bandWrite_read _ counted fits s₁).1 (.inr fun ⟨few, ranges, once⟩ => ?_))
    rcases bad with many | ⟨x, mem, out⟩ | twice
    · omega
    · have := ranges x mem; omega
    · exact twice once
  · refine exec_refuses rfl taken ?_
    have count : (oct starts.length).toNat = starts.length := oct_toNat (by omega)
    have lengths : ¬(starts.flatMap fun x => e16 x.1 ++ e8 x.2).length ≠ 3 * (oct starts.length).toNat := by
      rw [bandStarts_written_length, count]; simp
    exact (if_neg lengths).trans (by rw [dayTypeOf_unnamed unnamed])
  · have some : body ≠ [] := by rintro rfl; simp at seven
    refine exec_refuses (exec_form (decide_eq_true some) rfl) taken ((if_neg (not_not.mpr seven)).trans ?_)
    obtain ⟨b, mem, high⟩ := unnamed
    rw [allSome_map_none ⟨b, mem, dayTypeOf_unnamed high⟩]
  · refine exec_refuses rfl taken ?_
    have read : readOpt 3 [1, y, m, d] = .ok (some [y, m, d], []) := rfl
    simp only [holidayWrite, read, if_neg (Nat.not_lt.mpr low), Option.all_some, invalid]
    rfl
  · have seven' : (days.map DayType.code).length = 7 := (List.length_map _).trans seven
    have some : days.map DayType.code ≠ [] := by intro none; rw [none] at seven'; simp at seven'
    refine exec_answers (exec_form (decide_eq_true some) rfl) taken ((if_neg (not_not.mpr seven')).trans ?_)
    rw [List.map_map, allSome_map (f := dayTypeOf ∘ DayType.code) (g := id) fun day _ => dayTypeOf_code day, List.map_id]
    rfl
  · exact exec_answers rfl taken ((holidayWrite_read valid s₁).trans (if_neg (Nat.not_lt.mpr low)))
  · exact exec_refuses rfl taken ((holidayWrite_read valid s₁).trans (if_pos high))
  · have price : clamp 1 65535 (nat16 p1 p0) = max 1 (256 * p1.toNat + p0.toNat) := by
      have := nat16_lt p1 p0
      rw [clamp_eq, ← nat16_eq]; omega
    rw [← price]
    exact exec_answers rfl taken rfl

/-! ### Desks (R177 to R180) -/

theorem setDesk_desk (s : State) (n k : Nat) (d : Desk) : (s.setDesk n d).desk k = if k = n then d else s.desk k :=
  Table.get_set ..

theorem atLimit_iff (d : Desk) : d.atLimit = true ↔ ∃ m, d.limit = some m ∧ m ≤ d.cost := by
  unfold Desk.atLimit
  cases d.limit <;> simp

theorem deskTest_reaches {n : Nat} {s : State} (limit : (s.desk n).atLimit = true) (below : (s.desk n).reached = false) :
    deskTest n s = raise .deskLimit (deskLimitFields n (s.desk n)) (s.setDesk n { s.desk n with reached := true }) := by
  simp [deskTest, limit, below]

theorem deskTest_lifts {n : Nat} {s : State} (limit : (s.desk n).atLimit = false) (reached : (s.desk n).reached = true) :
    deskTest n s = askPass (s.setDesk n { s.desk n with reached := false }) := by
  simp [deskTest, limit, reached]

theorem deskTest_same {n : Nat} {s : State} (same : (s.desk n).reached = (s.desk n).atLimit) : deskTest n s = s := by
  cases limit : (s.desk n).atLimit <;> rw [limit] at same <;> simp [deskTest, limit, same]

theorem deskSet_read (n : Byte) {limit : Option Nat} (fits : ∀ m, limit = some m → m < 4294967296) (s : State) :
    deskSet (n :: eOpt e32 limit) s =
      if 15 < n.toNat then .error .noSuchEntry
      else
        let u := deskTest n.toNat (s.setDesk n.toNat { s.desk n.toNat with limit := limit.map (max 1) })
        .ok (u, deskFields (u.desk n.toNat)) := by
  cases limit with
  | none => rfl
  | some m =>
    have value : clamp 1 4294967295 (nat32 (oct (m / 16777216)) (oct (m / 65536)) (oct (m / 256)) (oct m)) = max 1 m := by
      have small := fits m rfl
      rw [nat32_e32 small, clamp_eq, Nat.min_eq_right (by omega)]
    rw [Option.map_some, ← value]
    rfl

/-- After the limit test the desk's mark tells whether it is at its limit. -/
theorem deskTest_desk (n k : Nat) (s : State) :
    (deskTest n s).desk k = if k = n then { s.desk n with reached := (s.desk n).atLimit } else s.desk k := by
  have told (fields : List Byte) (t : State) : (raise .deskLimit fields t).desk k = t.desk k := by
    obtain ⟨_, _, raised⟩ := raise_frame .deskLimit fields t
    rw [raised]; rfl
  cases limit : (s.desk n).atLimit <;> cases reached : (s.desk n).reached
  · rw [deskTest_same (reached.trans limit.symm)]
    split
    · rename_i same; rw [same, ← reached]
    · rfl
  · rw [deskTest_lifts limit reached]; exact setDesk_desk ..
  · rw [deskTest_reaches limit reached, told, setDesk_desk]
  · rw [deskTest_same (reached.trans limit.symm)]
    split
    · rename_i same; rw [same, ← reached]
    · rfl

/-- What a notice makes of the host link depends on link and timekeeper alone. -/
theorem raise_link_congr (kind : NoticeKind) (fields : List Byte) {s t : State} (link : t.link = s.link)
    (tk : t.tk = s.tk) : (raise kind fields t).link = (raise kind fields s).link := by
  rw [raise_eq, raise_eq, link, tk]
  split_ifs
  · exact link
  · rfl
  · rfl

theorem deskTest_frame (n : Nat) (s : State) : OnlyChanges [.desks, .docs, .link] s (deskTest n s) := by
  intro p other
  unfold deskTest
  dsimp only
  split
  · obtain ⟨_, _, raised⟩ := raise_frame .deskLimit (deskLimitFields n (s.desk n))
      (s.setDesk n { s.desk n with reached := true })
    rw [raised]
    cases p <;> first | exact absurd (by decide) other | rfl
  · split <;> cases p <;> first | exact absurd (by decide) other | rfl

/-- A desk's totals and its reached limit are cleared (R180). -/
def Desk.cleared (d : Desk) : Desk := { d with cost := 0, units := 0, calls := 0, saturated := false, reached := false }

theorem deskClearOne_eq (s : State) (n : Nat) :
    deskClearOne s n = { s with
      desks := s.desks.set n (s.desk n).cleared,
      docs := { s.docs with passAsked := s.docs.passAsked || (s.desk n).reached } } := by
  unfold deskClearOne
  dsimp only
  split
  · rename_i reached; rw [reached, Bool.or_true]; rfl
  · rename_i below; rw [Bool.eq_false_of_not_eq_true below, Bool.or_false]; rfl

theorem deskClear_all (ns : List Nat) (s : State) :
    ∃ desks, ns.foldl deskClearOne s = { s with
        desks, docs := { s.docs with passAsked := s.docs.passAsked || ns.any fun n => (s.desk n).reached } } ∧
      ∀ k, desks.get k = if k ∈ ns then (s.desk k).cleared else s.desk k := by
  induction ns generalizing s with
  | nil => exact ⟨s.desks, by simp, fun k => rfl⟩
  | cons n ns ih =>
    obtain ⟨desks, done, cleared⟩ := ih (deskClearOne s n)
    have desk (k : Nat) : (deskClearOne s n).desk k = if k = n then (s.desk n).cleared else s.desk k := by
      rw [deskClearOne_eq]; exact Table.get_set ..
    refine ⟨desks, ?_, fun k => ?_⟩
    · rw [List.foldl_cons, done]
      simp only [desk]
      rw [deskClearOne_eq]
      have asked : (s.docs.passAsked || (s.desk n).reached || ns.any fun m =>
          (if m = n then (s.desk n).cleared else s.desk m).reached) =
          (s.docs.passAsked || (n :: ns).any fun m => (s.desk m).reached) := by
        rw [List.any_cons, Bool.or_assoc]
        refine congrArg _ ?_
        cases here : (s.desk n).reached
        · refine congrArg _ (congrArg (List.any ns) (funext fun m => ?_))
          split
          · rename_i same; rw [same, here]; rfl
          · rfl
        · rfl
      rw [asked]
    · rw [cleared, desk]
      by_cases same : k = n
      · subst same; simp [Desk.cleared]
      · simp [same]

/-- Settles O57. -/
theorem desksAndLogKept : Obligations.DesksAndLogKept := by
  refine ⟨?_, fun tag s s₁ => ⟨fun n limit fits taken => ⟨fun high => ?_, ?_⟩, fun one octet taken => ⟨fun high => ?_, ?_⟩,
    ?_⟩⟩
  · intro n units cost s d d'
    have desk : (s.setDesk n d').desk n = d' := by rw [setDesk_desk, if_pos rfl]
    have added : deskAdd n units cost s = deskTest n (s.setDesk n d') := rfl
    refine ⟨fun m limit reached below => ?_, fun under unlimited above => ?_⟩
    · rw [added, deskTest_reaches (by rw [desk]; exact (atLimit_iff d').mpr ⟨m, limit, reached⟩) (by rw [desk]; exact below),
        desk]
      refine congrArg (fun x => raise .deskLimit (e8 n ++ e32 d'.cost ++ e32 x ++ e16 d'.calls) _) ?_
      exact congrArg (Option.getD · 0) limit
    · rw [added]
      refine deskTest_same ?_
      rw [desk]
      show d.reached = _
      cases limit : d.limit with
      | none => rw [unlimited limit, Desk.atLimit, show d'.limit = none from limit]
      | some m =>
        have atLimit : d'.atLimit = decide (m ≤ d'.cost) := by rw [Desk.atLimit, show d'.limit = some m from limit]
        rw [atLimit]
        rcases under m limit with low | reached
        · cases reached : d.reached with
          | false => exact (decide_eq_false (Nat.not_le.mpr low)).symm
          | true => exact absurd (above m limit reached) (Nat.not_le.mpr low)
        · rw [reached, decide_eq_true (above m limit reached)]
  · exact exec_refuses rfl taken ((deskSet_read n fits s₁).trans (if_pos high))
  · intro low d limit' reached'
    have row := exec_answers (i := .deskSet tag (n :: eOpt e32 limit)) rfl taken ((deskSet_read n fits s₁).trans (if_neg (Nat.not_lt.mpr low)))
    generalize u_eq : s₁.setDesk n.toNat { d with limit := limit' } = u at row
    have desk (k : Nat) : u.desk k = if k = n.toNat then { d with limit := limit' } else s₁.desk k := by
      rw [← u_eq, setDesk_desk]
    have here : u.desk n.toNat = { d with limit := limit' } := by rw [desk, if_pos rfl]
    have test : (u.desk n.toNat).atLimit = reached' := by
      rw [Bool.eq_iff_iff, atLimit_iff, here, decide_eq_true_eq]
      rfl
    have was : (u.desk n.toNat).reached = d.reached := by rw [here]
    have after (k : Nat) : (deskTest n.toNat u).desk k =
        if k = n.toNat then { d with limit := limit', reached := reached' } else s₁.desk k := by
      rw [deskTest_desk, test, here, desk]
      split_ifs <;> rfl
    have told : deskFields ((deskTest n.toNat u).desk n.toNat) = deskFields { d with limit := limit', reached := reached' } := by
      rw [after, if_pos rfl]
    refine ⟨deskTest n.toNat u, told ▸ row, after, fun reached lifted => ?_, fun below reaches => ?_, fun same => ?_, ?_⟩
    · rw [deskTest_lifts (test.trans lifted) (was.trans reached), ← u_eq]
      exact ⟨rfl, rfl⟩
    · rw [deskTest_reaches (test.trans reaches) (was.trans below), here]
      refine ⟨?_, ?_⟩
      · obtain ⟨_, _, raised⟩ := raise_frame .deskLimit (deskLimitFields n.toNat { d with limit := limit' })
          (u.setDesk n.toNat { { d with limit := limit' } with reached := true })
        rw [raised, ← u_eq]; rfl
      · exact raise_link_congr _ _ (by rw [← u_eq]; rfl) (by rw [← u_eq]; rfl)
    · rw [deskTest_same (was.trans (same.trans test.symm)), ← u_eq]
      exact ⟨rfl, rfl⟩
    · intro p other
      have same := deskTest_frame n.toNat u p other
      rw [← u_eq] at same ⊢
      cases p <;> first | exact absurd (by decide) other | exact same
  · obtain ⟨n, rfl, above⟩ := high
    refine exec_refuses rfl taken ?_
    simp only [deskClear, readOptOctet_eOpt octet, desksNamed, if_neg (Nat.not_le.mpr above)]
  · intro low ns
    have named : desksNamed one = some ns := by
      cases one with
      | none => rfl
      | some n => exact if_pos (low n rfl)
    obtain ⟨desks, done, cleared⟩ := deskClear_all ns s₁
    have row := exec_answers (i := .deskClear tag (eOpt e8 one)) (f := deskClear (eOpt e8 one)) (t := ns.foldl deskClearOne s₁)
      (fields := eList (fun n => deskFields (s₁.desk n)) ns) rfl taken
      (by simp only [deskClear, readOptOctet_eOpt octet, named])
    rw [done] at row
    refine ⟨_, row, cleared, rfl, ?_⟩
    intro p other
    cases p <;> first | exact absurd (by decide) other | rfl
  · intro a b taken k left
    have count : clamp 0 256 (nat16 a b) = min 256 (256 * a.toNat + b.toNat) := by
      rw [clamp_eq, Nat.zero_max, nat16_eq]
    refine exec_answers rfl taken ?_
    simp only [logDiscard, count]
    by_cases some : 0 < k
    · rw [if_pos some, decide_eq_true some, Bool.or_true]; rfl
    · rw [if_neg some, decide_eq_false some, Bool.or_false]

/-! ### CONFIG-SET (O11) -/

/-- The STORE_LOW test changes its arming and raises its notice, nothing else (R6). -/
theorem lowTest_frame (s : State) : ∃ lowArmed notices lost,
    lowTest s = { s with store := { s.store with lowArmed }, link := { s.link with notices, lost } } := by
  unfold lowTest
  split
  · exact ⟨true, s.link.notices, s.link.lost, rfl⟩
  split
  · obtain ⟨notices, lost, raised⟩ := raise_frame .storeLow (e16 s.freeCount ++ e16 s.cfg.receptionReserve)
      { s with store := { s.store with lowArmed := false } }
    exact ⟨false, notices, lost, raised⟩
  · exact ⟨s.store.lowArmed, s.link.notices, s.link.lost, rfl⟩

theorem configSet_read {n : Byte} {r : List Byte} {items : List (Nat × List Byte)} {cfg : ConfigItems} {s : State}
    (nonzero : n ≠ 0) (read : readItems n.toNat r = .ok items) (once : itemsOnce items = true)
    (applied : applyItems items s.cfg = some cfg) :
    configSet (n :: r) s =
      .ok (if cfg.inboundReserve ≠ s.cfg.inboundReserve then askPass (scanRetry (lowTest { s with cfg }))
        else scanRetry (lowTest { s with cfg }), configFields cfg) := by
  simp only [configSet, if_neg nonzero, read, once, applied, Bool.not_true, Bool.false_eq_true, if_false, decide_eq_true_eq]

/-- Settles O11. -/
theorem configSetApplies : Obligations.ConfigSetApplies := by
  refine ⟨fun tag n r items cfg s s₁ taken nonzero read once applied => ?_, fun c a b => ⟨?_, ?_, ?_, ?_⟩⟩
  · have kept : (if cfg.inboundReserve ≠ s₁.cfg.inboundReserve then askPass (scanRetry (lowTest { s₁ with cfg }))
        else scanRetry (lowTest { s₁ with cfg })).cfg = cfg := by
      have same : (scanRetry (lowTest { s₁ with cfg })).kept = State.kept { s₁ with cfg } := by simp
      split
      · exact congrArg Keep.cfg same
      · exact congrArg Keep.cfg same
    refine ⟨_, exec_answers rfl taken (configSet_read nonzero read once applied), kept, fun other => ?_⟩
    obtain ⟨lowArmed, notices, lost, tested⟩ := lowTest_frame { s₁ with cfg }
    rw [scanRetry_not_held (by rw [lowTest_scan]; exact other), tested]
    split
    · refine ⟨fun p other => ?_, ⟨notices, lost, rfl⟩, rfl, rfl⟩
      cases p <;> first | exact absurd (by decide) other | rfl
    · refine ⟨fun p other => ?_, ⟨notices, lost, rfl⟩, rfl, rfl⟩
      cases p <;> first | exact absurd (by decide) other | rfl
  · simp only [applyItem, clamp_eq, Nat.zero_max, nat16_eq]
  · simp only [applyItem, clamp_eq, Nat.zero_max]
  · simp only [applyItem, clamp_eq, nat16_eq]
  · simp only [applyItem, clamp_eq, Nat.zero_max]

end Sys2Proof.Machine
end

section
/-! SUPPORT. What the reading commands answer: each row's command and its fields (R23, R44, R70, R134, R156 to R160, R181,
R187, R199, R212, R213). -/

namespace Sys2Proof.Machine

/-- A command that reads answers with its fields and leaves the part as it is. -/
theorem exec_reads {i : Instr} {kind tag : Byte} {body fields : List Byte}
    {f : State → Except Status (State × List Byte)} {s s₁ : State} (taken : s.takes ⟨kind, tag, body⟩ = some s₁)
    (row : exec i s = .next (command kind tag body f s)) (done : f s₁ = .ok (s₁, fields)) :
    exec i s = .next (reply kind tag .ok fields s₁) := exec_answers row taken done

/-- A stretch of a list, item by item, each with its index. -/
theorem stretch_eq (g : Nat × Nat → List Byte) (l : List Nat) (f n : Nat) :
    eList g ((l.zipIdx.drop f).take n) =
      e8 (min n (l.length - f)) ++
        (List.range' f (min n (l.length - f))).flatMap fun k => (l[k]?).elim [] fun r => g (r, k) := by
  have count : ((l.zipIdx.drop f).take n).length = min n (l.length - f) := by simp
  rw [eList, count, List.flatMap_def, List.flatMap_def]
  refine congrArg (fun l => e8 _ ++ List.flatten l) (List.ext_getElem (by simp) fun k low _ => ?_)
  have inside : f + k < l.length := by simp at low; omega
  simp only [List.getElem_map, List.getElem_take, List.getElem_drop, List.getElem_zipIdx, List.getElem_range',
    Nat.one_mul, Nat.zero_add]
  rw [List.getElem?_eq_getElem inside]
  rfl

theorem docDestStatus_read {a b f n : Byte} {d : Doc} {s : State} (there : s.doc (docOf a b) = some d)
    (first : f.toNat < d.dests.length) (low : 1 ≤ n.toNat) (high : n.toNat ≤ 10) :
    docDestStatus [a, b, f, n] s = .ok (s, e8 (min n.toNat (d.dests.length - f.toNat)) ++
      (List.range' f.toNat (min n.toNat (d.dests.length - f.toNat))).flatMap fun k =>
        ((d.dests[k]?).bind s.dest).elim [] (eDest k)) := by
  have count : clamp 1 10 n.toNat = n.toNat := by rw [clamp_eq]; omega
  simp only [docDestStatus, there, if_neg (Nat.not_le.mpr first), count, stretch_eq]
  refine congrArg (fun g : Nat → List Byte => Except.ok (s, e8 _ ++ List.flatMap g _)) (funext fun k => ?_)
  cases d.dests[k]? with
  | none => rfl
  | some r =>
    rw [Option.bind_some, Option.elim_some]
    cases s.dest r <;> rfl

theorem lineOf_val (l : LineNo) : lineOf (oct l.val) = some l := by fin_cases l <;> rfl

theorem prefixTest_read {digits : List Nat} (counted : digits.length ≤ 32) (decimal : ∀ x ∈ digits, x ≤ 9) (s : State) :
    prefixTest (3 :: eDigits digits) s = .ok (s, eOpt e8 (s.charge.lookup digits) ++
      eOpt (fun e : PrefixEntry => eDigits e.digits) (longestMatch digits s.charge.prefixes)) := by
  have fields : prefixFields (3 :: eDigits digits) = .ok (eDigits digits ++ []) := by rw [List.append_nil]; rfl
  simp only [prefixTest, fields, readCounted_eDigits (show digits.length ≤ 255 by omega), digitsOf_map decimal]
  exact if_neg (by omega)

/-- Settles O58. -/
theorem readingsOnlyAnswer : Obligations.ReadingsOnlyAnswer := by
  refine ⟨fun i kind tag body fields s s₁ taken row => ?_, fun tag paper s s₁ taken => ?_⟩
  · rcases row with row | row | row | row | row | row | row | row | row | row | row | row | row | row | row | row | row |
      row | row | row | row
    · obtain ⟨rfl, rfl, rfl, same⟩ := row
      rw [same]
      exact exec_reads taken rfl (by simp [identify, e8, oct])
    · obtain ⟨rfl, rfl, rfl, same⟩ := row
      rw [same]
      exact exec_reads taken rfl rfl
    · obtain ⟨a, b, e, rfl, rfl, rfl, there, same⟩ := row
      rw [same]
      refine (congrArg Host.Outcome.next (hostCommand_of_takes _ taken)).trans ?_
      simp only [pageInfo, there, storeFields, ← List.append_assoc]
      split <;> rfl
    · obtain ⟨a, b, d, rfl, rfl, rfl, there, same⟩ := row
      rw [same]
      refine exec_reads taken rfl ?_
      simp only [docStatus, there]
    · obtain ⟨a, b, f, n, d, rfl, rfl, rfl, there, first, low, high, -, same⟩ := row
      rw [same]
      exact exec_reads taken rfl (docDestStatus_read there first low high)
    · obtain ⟨l, rfl, rfl, rfl, same⟩ := row
      rw [same]
      exact exec_reads taken rfl (by simp only [e8, lineStatusOf, lineOf_val])
    · obtain ⟨n, rfl, rfl, rfl, low, same⟩ := row
      rw [same]
      exact exec_reads taken rfl (if_neg (Nat.not_lt.mpr low))
    · obtain ⟨a, b, d, rfl, rfl, rfl, there, same⟩ := row
      rw [same]
      refine exec_reads taken rfl ?_
      have read : readOpt 2 [1, a, b] = .ok (some [a, b], []) := rfl
      have handle : inField (some [a, b]) = some (inOf a b) := rfl
      simp only [inboundStatus, read, handle, there]
    · obtain ⟨rfl, rfl, rfl, same⟩ := row
      rw [same]
      exact exec_reads taken rfl rfl
    · obtain ⟨rfl, rfl, rfl, same⟩ := row
      rw [same]
      exact exec_reads taken rfl rfl
    · obtain ⟨p, rfl, rfl, rfl, low, same⟩ := row
      rw [same]
      exact exec_reads taken rfl ((if_neg (Nat.not_le.mpr low)).trans (by rw [List.append_assoc]; rfl))
    · obtain ⟨digits, rfl, rfl, rfl, counted, decimal, same⟩ := row
      rw [same]
      exact exec_reads taken rfl (prefixTest_read counted decimal s₁)
    · obtain ⟨z, ⟨rfl, rfl⟩ | ⟨rfl, rfl⟩, rfl, low, same⟩ := row
      · rw [same]; exact exec_reads taken rfl (if_neg (Nat.not_lt.mpr low))
      · rw [same]; exact exec_reads taken rfl (if_neg (Nat.not_lt.mpr low))
    · obtain ⟨day, rfl, rfl, rfl, same⟩ := row
      rw [same]
      refine exec_reads taken rfl ?_
      simp only [bandRead, dayTypeOf_code]
      rfl
    · obtain ⟨rfl, rfl, rfl, same⟩ := row
      rw [same]
      exact exec_reads taken rfl rfl
    · obtain ⟨rfl, rfl, rfl, same⟩ := row
      rw [same]
      exact exec_reads taken rfl rfl
    · obtain ⟨rfl, rfl, rfl, same⟩ := row
      rw [same]
      exact exec_reads taken rfl rfl
    · obtain ⟨n, rfl, rfl, rfl, low, same⟩ := row
      rw [same]
      refine exec_reads taken rfl ?_
      have read : readOptOctet [1, n] = .ok (some n.toNat) := rfl
      have named : desksNamed (some n.toNat) = some [n.toNat] := if_pos low
      simp only [deskRead, read, named]
      simp [eList, e8, oct]
    · obtain ⟨n, rfl, rfl, rfl, same⟩ := row
      rw [same]
      exact exec_reads taken rfl rfl
    · obtain ⟨rfl, rfl, rfl, same⟩ := row
      rw [same]
      exact exec_reads taken rfl rfl
    · obtain ⟨y, m, d, rfl, rfl, rfl, valid, same⟩ := row
      rw [same]
      refine exec_reads taken rfl ?_
      simp only [clockRead, valid, Bool.not_true, Bool.false_eq_true, if_false]
  · exact congrArg Host.Outcome.next (hostCommand_of_takes _ taken)

end Sys2Proof.Machine
end

section
/-! SUPPORT. Power-on and the RESET line (R153, R200, R201, R215). -/

namespace Sys2Proof.Machine

/-- The notices of a printer found without paper or jammed, with nothing in hand (R153). -/
def sensorFaults (k : Timekeeper) (paper jam : Bool) : List Notice :=
  (if paper then [⟨.printerFault, k.time, k.suspect, [0, 0, 0, 0, 0]⟩] else []) ++
    if jam then [⟨.printerFault, k.time, k.suspect, [1, 0, 0, 0, 0]⟩] else []

/-- A notice of the highest level, with nothing masked and room in the queue. -/
theorem raise_unmasked {kind : NoticeKind} {fields : List Byte} {s : State} (unmasked : s.link.mask = 0)
    (room : s.link.notices.length < 32) :
    raise kind fields s = { s with link := { s.link with
      notices := s.link.notices ++ [{ kind, time := s.tk.time, suspect := s.tk.suspect, fields }] } } :=
  raise_room (by rw [unmasked]; exact Nat.zero_le _) room

/-- A jam told to an engine at its reset values. -/
theorem jamIndication_reset {s : State} (unmasked : s.link.mask = 0) (room : s.link.notices.length < 32) (paper : Bool) :
    jamIndication { s with engine := { Engine.reset with paperOut := paper } } = { s with
      engine := { Engine.reset with paperOut := paper, jamSensor := true, jamLatched := true },
      link := { s.link with
        notices := s.link.notices ++ [⟨.printerFault, s.tk.time, s.tk.suspect, [1, 0, 0, 0, 0]⟩] } } := by
  have fields : printerFaultFields 1 { Engine.reset with paperOut := paper, jamSensor := true } = [1, 0, 0, 0, 0] := by
    simp [printerFaultFields, Engine.reset, eOpt, e8, e16, oct]
  refine Eq.trans ?_ (raise_unmasked
    (s := { s with engine := { Engine.reset with paperOut := paper, jamSensor := true, jamLatched := true } }) unmasked room)
  rw [← fields]
  rfl

/-- A printer found without paper by an engine at its reset values. -/
theorem paperGoesOut_reset {s : State} (unmasked : s.link.mask = 0) (room : s.link.notices.length < 32) :
    paperGoesOut { s with engine := Engine.reset } = { s with
      engine := { Engine.reset with paperOut := true },
      link := { s.link with
        notices := s.link.notices ++ [⟨.printerFault, s.tk.time, s.tk.suspect, [0, 0, 0, 0, 0]⟩] } } := by
  have fields : printerFaultFields 0 Engine.reset = [0, 0, 0, 0, 0] := by
    simp [printerFaultFields, Engine.reset, eOpt, e8, e16, oct]
  refine Eq.trans ?_ (raise_unmasked (s := { s with engine := { Engine.reset with paperOut := true } }) unmasked room)
  rw [← fields]
  rfl

/-- The sensors read by an engine at its reset values. -/
theorem readPrinterSensors_reset {s : State} (unmasked : s.link.mask = 0) (room : s.link.notices.length < 31)
    (paper jam : Bool) :
    readPrinterSensors paper jam { s with engine := Engine.reset } = { s with
      engine := { Engine.reset with paperOut := paper, jamSensor := jam, jamLatched := jam },
      link := { s.link with notices := s.link.notices ++ sensorFaults s.tk paper jam } } := by
  unfold readPrinterSensors sensorFaults
  cases paper
  · cases jam
    · simp only [Bool.false_eq_true, if_false, List.append_nil]; rfl
    · exact jamIndication_reset unmasked (by omega) false
  · simp only [if_true]
    rw [paperGoesOut_reset unmasked (by omega)]
    cases jam
    · simp only [Bool.false_eq_true, if_false, List.append_nil]; rfl
    · simp only [if_true, ← List.append_assoc]
      exact jamIndication_reset (s := { s with link := { s.link with notices := s.link.notices ++ _ } }) unmasked
        (by simp; omega) true

/-- The part with every block reset, after the timekeeper's tests (R200). -/
def State.tested (s : State) (k : Timekeeper) : State := { s.blocksReset with tk := k, mem := [], store := .reset }

theorem powerOn_told {s : State} {k : Timekeeper} {cause : SuspectCause} {already : Bool}
    (tests : s.tk.powerOn = (k, some (cause, already))) (paper jam : Bool) :
    powerOn paper jam s = { s.tested k with
      engine := { Engine.reset with paperOut := paper, jamSensor := jam, jamLatched := jam },
      link := { (s.tested k).link with
        notices := ⟨.timeSuspect, k.time, k.suspect, timeSuspectFields cause already k⟩ :: sensorFaults k paper jam } } := by
  have tests' : s.blocksReset.tk.powerOn = (k, some (cause, already)) := tests
  have told : raiseSuspect cause already (s.tested k) = { s.tested k with link := { (s.tested k).link with
      notices := [⟨.timeSuspect, k.time, k.suspect, timeSuspectFields cause already k⟩] } } :=
    raise_unmasked rfl (Nat.zero_lt_succ 31)
  refine Eq.trans ?_ (readPrinterSensors_reset (s := { s.tested k with link := { (s.tested k).link with
    notices := [⟨.timeSuspect, k.time, k.suspect, timeSuspectFields cause already k⟩] } }) rfl (by simp) paper jam)
  unfold powerOn
  dsimp only
  rw [tests']
  exact congrArg (readPrinterSensors paper jam) told

theorem powerOn_silent {s : State} {k : Timekeeper} (tests : s.tk.powerOn = (k, none)) (paper jam : Bool) :
    powerOn paper jam s = { s.tested k with
      engine := { Engine.reset with paperOut := paper, jamSensor := jam, jamLatched := jam },
      link := { (s.tested k).link with notices := sensorFaults k paper jam } } := by
  have tests' : s.blocksReset.tk.powerOn = (k, none) := tests
  refine Eq.trans ?_ (readPrinterSensors_reset (s := s.tested k) rfl (Nat.zero_lt_succ 30) paper jam)
  unfold powerOn
  dsimp only
  rw [tests']
  rfl

/-- Settles O59. -/
theorem powerOnAndResetLine : Obligations.PowerOnAndResetLine := by
  intro paper jam s faults k start
  refine ⟨?_, fun on => ?_⟩
  · refine congrArg Host.Outcome.next ?_
    by_cases lost : s.tk.lost = true
    · have k_eq : k = { Timekeeper.reset with crystalRuns := s.tk.crystalRuns } := if_pos lost
      have suspect : k.suspect = true := by rw [k_eq]; rfl
      have tests : s.tk.powerOn = (k, some (.invalid, false)) := by rw [k_eq]; exact if_pos lost
      simp only [powerOn_told tests, start, suspect, lost, if_true]
      rfl
    · have k_eq : k = { s.tk with source := .crystal, stallMark := false, suspect := s.tk.suspect || s.tk.stallMark } :=
        if_neg lost
      have tests : s.tk.powerOn = (k, if s.tk.stallMark then some (.stalled, s.tk.suspect)
          else if s.tk.suspect then some (.held, true) else none) := by rw [k_eq]; exact if_neg lost
      have suspect : k.suspect = (s.tk.suspect || s.tk.stallMark) := by rw [k_eq]
      rw [Bool.not_eq_true] at lost
      by_cases stalled : s.tk.stallMark = true
      · rw [if_pos stalled] at tests
        rw [stalled, Bool.or_true] at suspect
        simp only [powerOn_told tests, start, suspect, lost, stalled, if_true, Bool.false_eq_true, if_false, Bool.not_false,
          Bool.true_and]
        rfl
      · rw [if_neg stalled] at tests
        rw [Bool.not_eq_true] at stalled
        rw [stalled, Bool.or_false] at suspect
        by_cases held : s.tk.suspect = true
        · rw [if_pos held] at tests
          rw [held] at suspect
          simp only [powerOn_told tests, start, suspect, lost, stalled, held, if_true, Bool.false_eq_true, if_false,
            Bool.not_false, Bool.true_and]
          rfl
        · rw [if_neg held] at tests
          rw [Bool.eq_false_of_not_eq_true held] at suspect
          simp only [powerOn_silent tests, start, suspect, Bool.false_eq_true, if_false, List.nil_append]
          rfl
  · exact (exec_event on rfl).trans (congrArg _
      (readPrinterSensors_reset (s := s.blocksReset) rfl (Nat.zero_lt_succ 30) s.engine.paperOut s.engine.jamSensor))

end Sys2Proof.Machine
end

section
/-! SUPPORT. The page store's operations, said once each: entries after a setting, the allocation test, requests, the
release of a page, its close and its discard. -/

namespace Sys2Proof.Machine

/-! ### Frames -/

theorem OnlyChanges.refl (parts : List Part) (s : State) : OnlyChanges parts s s := by
  intro p _; cases p <;> rfl

theorem OnlyChanges.trans {parts : List Part} {s t u : State} (h : OnlyChanges parts s t) (g : OnlyChanges parts t u) :
    OnlyChanges parts s u := by
  intro p other
  have first := h p other
  have second := g p other
  cases p <;> exact Eq.trans second first

theorem OnlyChanges.mono {parts more : List Part} {s t : State} (h : OnlyChanges parts s t)
    (sub : ∀ p ∈ parts, p ∈ more) : OnlyChanges more s t := fun p other => h p fun mem => other (sub p mem)

theorem LinkRaises.of_link {s t : State} (same : t.link = s.link) : LinkRaises s t :=
  ⟨s.link.notices, s.link.lost, same⟩

theorem raise_linkRaises (kind : NoticeKind) (fields : List Byte) (s : State) : LinkRaises s (raise kind fields s) := by
  obtain ⟨notices, lost, raised⟩ := raise_frame kind fields s
  exact ⟨notices, lost, by rw [raised]⟩

theorem raise_only (kind : NoticeKind) (fields : List Byte) (s : State) :
    OnlyChanges [.link] s (raise kind fields s) := by
  obtain ⟨notices, lost, raised⟩ := raise_frame kind fields s
  rw [raised]
  intro p other
  cases p <;> first | rfl | exact absurd (by decide) other

/-! ### Entries and handles (R2, R3) -/

theorem cellSet_cellSet {α : Type} (c : List (Nat × α)) (k : Nat) (v w : α) :
    cellSet (cellSet c k v) k w = cellSet c k w := by
  induction c with
  | nil => simp [cellSet]
  | cons e r ih =>
    obtain ⟨j, x⟩ := e
    by_cases before : k < j
    · simp [cellSet, before]
    · by_cases here : j = k
      · subst here; simp [cellSet]
      · simp [cellSet, before, here, ih]

theorem Table.set_set {α : Type} (t : Table α) (k : Nat) (v w : α) : (t.set k v).set k w = t.set k w := by
  simp [Table.set, cellSet_cellSet]

@[simp] theorem State.entry_setEntry_self (s : State) (k : Nat) (e : PageEntry) : (s.setEntry k e).entry k = e :=
  Table.get_set_self s.store.dir k e

theorem State.entry_setEntry_ne (s : State) {j k : Nat} (e : PageEntry) (other : j ≠ k) :
    (s.setEntry k e).entry j = s.entry j := Table.get_set_ne s.store.dir e other

theorem State.setEntry_setEntry (s : State) (k : Nat) (e f : PageEntry) :
    (s.setEntry k e).setEntry k f = s.setEntry k f := by simp [State.setEntry, Table.set_set]

theorem State.page_congr {s t : State} (same : t.store.dir = s.store.dir) (h : PageHandle) : t.page h = s.page h := by
  unfold State.page State.entry; rw [same]

/-- A page that stays OPEN or CLOSED under its issue is still the one that the handle names. -/
theorem State.page_setEntry {s : State} {h : PageHandle} {e e' : PageEntry} (there : s.page h = some e)
    (live : e'.state ≠ .free) (issue : e'.issue = e.issue) : (s.setEntry h.slot e').page h = some e' := by
  obtain ⟨slot, rfl, -, named⟩ := State.page_some there
  simp [State.page, slot, live, issue, named]

theorem State.page_eq {s : State} {h : PageHandle} (slot : h.slot < 1024) (live : (s.entry h.slot).state ≠ .free)
    (issue : (s.entry h.slot).issue = h.issue) : s.page h = some (s.entry h.slot) := by
  simp [State.page, slot, live, issue]

/-! ### Commands taken (R207) -/

theorem State.takes_job {f : Frame} {s t : State} (taken : s.takes f = some t) : t.link.job = none := by
  obtain ⟨-, k, took, rfl⟩ := State.takes_iff.1 taken
  obtain ⟨idle, (⟨_, -, rfl⟩ | ⟨-, -, -, -, rfl⟩)⟩ := Link.take_cases took <;> exact idle

theorem State.setJob_none {s : State} (idle : s.link.job = none) : s.setJob none = s := by
  unfold State.setJob; rw [← idle]

/-- A command whose row is not of the general form: its action on the part with the command taken. -/
theorem exec_hostCommand {i : Instr} {kind tag : Byte} {body : List Byte} {act : State → State} {s s₁ t : State}
    (row : exec i s = .next (hostCommand kind tag body act s)) (taken : s.takes ⟨kind, tag, body⟩ = some s₁)
    (done : act s₁ = t) : exec i s = .next t := by
  rw [row, hostCommand_of_takes act taken, done]

/-! ### The allocation test and requests (R5, R8) -/

theorem allocTest_room {s : State} {e : PageEntry} {c : Client} (room : e.committed < 16 * e.chain.length) :
    allocTest s e c = .pass := by
  simp [allocTest, PageEntry.needsSegment, room]

theorem allocTest_segment {s : State} {e : PageEntry} (c : Client) (short : e.chain.length < 2048)
    (above : s.cfg.receptionReserve < s.freeCount) : allocTest s e c = .pass := by
  have free : ¬((c = .scan ∨ c = .hostXfer) ∧ s.freeCount ≤ s.cfg.receptionReserve) := fun low => absurd low.2 (by omega)
  unfold allocTest
  rw [if_neg (by omega : ¬2048 ≤ e.chain.length), if_neg (by omega : s.freeCount ≠ 0), if_neg free]
  exact ite_self _

theorem allocTest_limit {s : State} {e : PageEntry} (c : Client) (full : 16 * e.chain.length ≤ e.committed)
    (limit : 2048 ≤ e.chain.length) : allocTest s e c = .pageLimit := by
  simp [allocTest, PageEntry.needsSegment, full, limit]

theorem allocTest_storeFull {s : State} {e : PageEntry} {c : Client} (held : c = .scan ∨ c = .hostXfer)
    (full : 16 * e.chain.length ≤ e.committed) (short : e.chain.length < 2048)
    (low : s.freeCount ≤ s.cfg.receptionReserve) : allocTest s e c = .storeFull := by
  unfold allocTest
  rw [if_neg (by simp [PageEntry.needsSegment, full]), if_neg (by omega : ¬2048 ≤ e.chain.length)]
  by_cases none : s.freeCount = 0
  · rw [if_pos none]
  · rw [if_neg none, if_pos ⟨held, low⟩]

/-- A writer for which the reserve is kept is refused with the store at the reserve or the chain at its limit. -/
theorem allocTest_refused {s : State} {e : PageEntry} {c : Client} (held : c = .scan ∨ c = .hostXfer)
    (full : 16 * e.chain.length ≤ e.committed)
    (why : s.freeCount ≤ s.cfg.receptionReserve ∨ 2048 ≤ e.chain.length) : allocTest s e c ≠ .pass := by
  by_cases limit : 2048 ≤ e.chain.length
  · rw [allocTest_limit c full limit]; nofun
  · rw [allocTest_storeFull held full (by omega) (why.resolve_right limit)]; nofun

theorem askWrite_pass {s : State} {c : Client} {h : PageHandle} (data : List Byte) (close : Option CloseReq)
    (passes : allocTest s (s.entry h.slot) c = .pass) :
    askWrite c h data close s =
      (queueRequest { client := c, level := s.levelOf c, op := .write h data close } s, .pass) := by
  simp [askWrite, passes]

theorem askWrite_refused {s : State} {c : Client} {h : PageHandle} {a : Allocation} (data : List Byte)
    (close : Option CloseReq) (test : allocTest s (s.entry h.slot) c = a) (refused : a ≠ .pass) :
    askWrite c h data close s = (s, a) := by
  unfold askWrite
  cases a with
  | pass => exact absurd rfl refused
  | storeFull => rw [test]
  | pageLimit => rw [test]

theorem askRead_asked {s : State} {h : PageHandle} {e : PageEntry} {k : Nat} (c : Client) (there : s.page h = some e)
    (closed : e.state = .closed) (has : k < e.committed) :
    askRead c h k s = queueRequest { client := c, level := s.levelOf c, op := .read h k } s := by
  simp [askRead, there, closed, has]

/-- The final block is the code octets, the end-of-page token and zeros to 256 (R9). -/
theorem finalBlock_eq {code : List Byte} (short : code.length < 256) :
    finalBlock code = code ++ 0xCF :: List.replicate (255 - code.length) 0 := by
  unfold finalBlock
  rw [List.append_assoc, List.take_append, List.take_of_length_le (by omega : code.length ≤ 256)]
  obtain ⟨n, hn⟩ : ∃ n, 256 - code.length = n + 1 := ⟨255 - code.length, by omega⟩
  rw [hn, List.singleton_append, List.take_succ_cons, List.take_replicate]
  congr 3
  omega

/-! ### Release and discard (R10, R14) -/

/-- A page without a hold stays while it is OPEN or has a reference or pin left. -/
theorem releaseTest_stays {s : State} {h : PageHandle} {e : PageEntry} (there : s.page h = some e)
    (held : e.state = .opened ∨ 0 < e.refs ∨ 0 < e.pins) : releaseTest h s = s := by
  unfold releaseTest
  rw [there]
  refine if_neg fun gone => ?_
  obtain ⟨closed, refs, pins⟩ := gone
  rcases held with opened | more | more
  · rw [opened] at closed; cases closed
  · omega
  · omega

theorem releaseTest_frees {s : State} {h : PageHandle} {e : PageEntry} (there : s.page h = some e)
    (closed : e.state = .closed) (refs : e.refs = 0) (pins : e.pins = 0) : releaseTest h s = freePage h s := by
  simp [releaseTest, there, closed, refs, pins]

/-- The store's requests without the reads of a page, the one on the port void (R3, R22). -/
def Store.withoutReads (t : Store) (h : PageHandle) : Store :=
  { t with
    waiting := t.waiting.filter fun r => !(r.op.isRead && decide (r.op.page = h)),
    port := t.port.map fun x => if x.req.op.isRead && decide (x.req.op.page = h) then { x with void := true } else x }

theorem withdrawReads_idle {s : State} (h : PageHandle) (idle : s.link.job = none) :
    withdrawReads h s = { s with store := s.store.withoutReads h } := by
  unfold withdrawReads Store.withoutReads
  simp only [idle]

/-- What the return of a page to FREE does where no PAGE-READ waits for its reply: the chain at the pool's tail, the entry
cleared with the issue advanced, the reads of it withdrawn, and STORE_LOW with its arming. -/
theorem freePage_eq {s : State} (h : PageHandle) (idle : s.link.job = none) : ∃ lowArmed notices lost,
    freePage h s = { s with
      store := { ({ s.store with
        pool := s.store.pool.give (s.entry h.slot).chain,
        dir := s.store.dir.set h.slot (.freeWith (wrapSucc 64 (s.entry h.slot).issue)) } : Store).withoutReads h with
        lowArmed },
      link := { s.link with notices, lost } } := by
  unfold freePage
  dsimp only
  rw [withdrawReads_idle h (by exact idle)]
  exact lowTest_frame _

theorem wrapSucc_eq (n x : Nat) : wrapSucc n x = (x + 1) % n := rfl

/-- A page returned to FREE is released, and nothing but the store and notices has changed. -/
theorem freePage_released {s : State} {h : PageHandle} (idle : s.link.job = none) :
    PageReleased h (s.entry h.slot) s (freePage h s) ∧ OnlyChanges [.store, .link] s (freePage h s) ∧
      LinkRaises s (freePage h s) := by
  obtain ⟨lowArmed, notices, lost, freed⟩ := freePage_eq h idle
  rw [freed]
  refine ⟨⟨Table.get_set_self .., fun k other => Table.get_set_ne _ _ other, SegPool.give_eq ..⟩, ?_,
    ⟨notices, lost, rfl⟩⟩
  intro p other
  cases p <;> first | rfl | exact absurd (by decide) other

/-- Every pin given up, a CLOSED page without a reference is released. -/
theorem releaseTest_setEntry_released {s : State} {h : PageHandle} {e e' : PageEntry} (idle : s.link.job = none)
    (there : s.page h = some e) (closed : e'.state = .closed) (refs : e'.refs = 0) (pins : e'.pins = 0)
    (issue : e'.issue = e.issue) (chain : e'.chain = e.chain) :
    PageReleased h e s (releaseTest h (s.setEntry h.slot e')) ∧
      OnlyChanges [.store, .link] s (releaseTest h (s.setEntry h.slot e')) ∧
      LinkRaises s (releaseTest h (s.setEntry h.slot e')) := by
  rw [releaseTest_frees (State.page_setEntry there (by rw [closed]; nofun) issue) closed refs pins]
  obtain ⟨⟨slot, others, pool⟩, only, raises⟩ := freePage_released (s := s.setEntry h.slot e') (h := h) idle
  rw [State.entry_setEntry_self, issue] at slot
  rw [State.entry_setEntry_self, chain] at pool
  refine ⟨⟨slot, fun k other => (others k other).trans (s.entry_setEntry_ne _ other), pool⟩, ?_, raises⟩
  refine OnlyChanges.trans (t := s.setEntry h.slot e') ?_ only
  intro p other
  cases p <;> first | rfl | exact absurd (by decide) other

/-! ### Closing (R9) -/

/-- The entry of a page as its close leaves it, before the hold (R9). -/
def PageEntry.closedBy (e : PageEntry) (c : CloseReq) : PageEntry :=
  { e with
    state := .closed, writer := none, lineCount := clamp 0 6912 c.lineCount, truncated := e.truncated || c.truncated,
    pending := [] }

/-- A close that takes no hold, of a page that has one: the entry, and PAGE_CLOSED. -/
theorem finishClose_held {s : State} {h : PageHandle} {e : PageEntry} {c : CloseReq} (there : s.page h = some e)
    (hold : c.hold = .none) (pins : 0 < e.pins) :
    finishClose false h c s =
      raise .pageClosed (pageClosedFields h (e.closedBy c)) (s.setEntry h.slot (e.closedBy c)) := by
  obtain ⟨-, same, -, -⟩ := State.page_some there
  have closed : s.modEntry h.slot (fun e => e.closedBy c) = s.setEntry h.slot (e.closedBy c) := by
    rw [State.modEntry, ← same]
  have page := State.page_setEntry (e' := e.closedBy c) there nofun rfl
  unfold finishClose
  show releaseTest h (raiseUnless false .pageClosed (pageClosedFields h ((applyHold c.hold h
    (s.modEntry h.slot fun e => e.closedBy c)).entry h.slot)) (applyHold c.hold h (s.modEntry h.slot fun e => e.closedBy c)))
    = _
  rw [hold, closed]
  show releaseTest h (raise .pageClosed (pageClosedFields h ((s.setEntry h.slot (e.closedBy c)).entry h.slot))
    (s.setEntry h.slot (e.closedBy c))) = _
  rw [State.entry_setEntry_self, releaseTest_stays (e := e.closedBy c) ?_ (.inr (.inr pins))]
  rw [State.page_congr (s := s.setEntry h.slot (e.closedBy c)) (by rw [raise_store]), page]

end Sys2Proof.Machine
end

section
/-! PROOFS. The host page commands but PAGE-READ (R15, R19 to R21), and SCAN-SET (R25). -/

namespace Sys2Proof.Machine

/-! ### PAGE-OPEN-WRITE (R19) -/

theorem classOf_classIndex (cls : ResClass) : classOf (oct (classIndex cls)) = some cls := by cases cls <;> rfl

theorem byte_of_lt_three {c : Byte} (small : c.toNat < 3) : c = 0 ∨ c = 1 ∨ c = 2 := by
  rcases (by omega : c.toNat = 0 ∨ c.toNat = 1 ∨ c.toNat = 2) with h | h | h
  · exact .inl (BitVec.eq_of_toNat_eq h)
  · exact .inr (.inl (BitVec.eq_of_toNat_eq h))
  · exact .inr (.inr (BitVec.eq_of_toNat_eq h))

theorem classOf_named {c : Byte} (named : c.toNat < 3) : ∃ cls, classOf c = some cls ∧ classIndex cls = c.toNat := by
  rcases byte_of_lt_three named with rfl | rfl | rfl
  · exact ⟨.coarse, rfl, rfl⟩
  · exact ⟨.fine, rfl, rfl⟩
  · exact ⟨.extra, rfl, rfl⟩

theorem classOf_unnamed {c : Byte} (unnamed : 3 ≤ c.toNat) : classOf c = none := by
  unfold classOf
  rw [if_neg (by rintro rfl; simp at unnamed), if_neg (by rintro rfl; simp at unnamed),
    if_neg (by rintro rfl; simp at unnamed)]

/-- A writer other than the host opens the lowest FREE entry where it holds no page OPEN (R4); the host, where fewer than
two uploads are. -/
theorem openPage_opens {s : State} {c : Client} {slot : Nat} (origin : Origin) (cls : ResClass)
    (may : c = .hostXfer ∧ s.hostUploads < 2 ∨ c ≠ .hostXfer ∧ c.holdsOpen s = false) (small : slot < 1024)
    (free : (s.entry slot).state = .free) (lowest : ∀ k, k < slot → (s.entry k).state ≠ .free) :
    openPage c origin cls s = .ok
      (s.setEntry slot { PageEntry.freeWith (s.entry slot).issue with
        state := .opened, origin := some origin, writer := some c, cls, pins := if origin = .host then 1 else 0 },
        ⟨slot, (s.entry slot).issue⟩) := by
  have found : (s.store.dir.lowest 1024 fun e => decide (e.state = .free)) = some slot :=
    Table.lowest_eq_some _ small (decide_eq_true free) fun j below => decide_eq_false (lowest j below)
  unfold openPage
  rw [if_neg (by rintro ⟨rfl, two⟩; rcases may with ⟨-, fewer⟩ | ⟨other, -⟩ <;> [omega; exact other rfl]),
    if_neg (by rintro ⟨other, holds⟩; rcases may with ⟨host, -⟩ | ⟨-, none⟩ <;> simp_all), found]

theorem openPage_tableFull {s : State} {c : Client} (origin : Origin) (cls : ResClass)
    (may : c = .hostXfer ∧ s.hostUploads < 2 ∨ c ≠ .hostXfer ∧ c.holdsOpen s = false)
    (full : ∀ k, k < 1024 → (s.entry k).state ≠ .free) : openPage c origin cls s = .error .tableFull := by
  have found : (s.store.dir.lowest 1024 fun e => decide (e.state = .free)) = none :=
    Table.lowest_eq_none _ fun j below => decide_eq_false (full j below)
  unfold openPage
  rw [if_neg (by rintro ⟨rfl, two⟩; rcases may with ⟨-, fewer⟩ | ⟨other, -⟩ <;> [omega; exact other rfl]),
    if_neg (by rintro ⟨other, holds⟩; rcases may with ⟨host, -⟩ | ⟨-, none⟩ <;> simp_all), found]

/-- Settles O16. -/
theorem hostUploadOpens : Obligations.HostUploadOpens := by
  intro tag c s s₁ taken
  refine ⟨fun cls slot named fewer small free lowest => ?_, fun named two => ?_, fun named fewer full => ?_, fun unnamed => ?_⟩
  · refine exec_answers rfl taken ?_
    simp only [pageOpenWrite, named, classOf_classIndex,
      openPage_opens (c := .hostXfer) .host cls (.inl ⟨rfl, fewer⟩) small free lowest, if_true]
  · obtain ⟨cls, named, -⟩ := classOf_named named
    refine exec_refuses rfl taken ?_
    simp only [pageOpenWrite, named, openPage, two, and_self, if_true]
  · obtain ⟨cls, named, -⟩ := classOf_named named
    refine exec_refuses rfl taken ?_
    simp only [pageOpenWrite, named, openPage_tableFull (c := .hostXfer) .host cls (.inl ⟨rfl, fewer⟩) full]
  · refine exec_refuses rfl taken ?_
    simp only [pageOpenWrite, classOf_unnamed unnamed]

/-! ### PAGE-WRITE-DATA (R20) -/

theorem uploadPage_ok {s : State} {h : PageHandle} {e : PageEntry} (there : s.page h = some e) (opened : e.state = .opened)
    (writer : e.writer = some .hostXfer) : uploadPage s h = .ok e := by
  simp [uploadPage, there, opened, writer]

/-- Settles O17. -/
theorem uploadGathersBlocks : Obligations.UploadGathersBlocks := by
  intro tag a b data e s s₁ taken some few there opened writer
  have idle := State.takes_job taken
  obtain ⟨-, same, -, -⟩ := State.page_some there
  have takes : pageWriteData tag (a :: b :: data) s₁ =
      writeOn tag (pageOf a b) (e.pending ++ data) e.pending.length 0 s₁ := by
    have fits : ¬(data = [] ∨ 1024 < data.length) := fun bad => bad.elim some fun more => absurd more (by omega)
    simp only [pageWriteData, if_neg fits, uploadPage_ok there opened writer]
  refine ⟨fun short => ?_, fun block test => ?_, fun block full why => ?_⟩ <;> refine exec_hostCommand rfl taken ?_ <;>
    rw [takes] <;> unfold writeOn
  · rw [if_neg (by rw [List.length_append]; omega), State.modEntry, ← same]
    simp only [writeFields, State.entry_setEntry_self, List.length_append, Nat.zero_add, Nat.add_sub_cancel_left]
    rw [State.setJob_none (by exact idle)]
  · have passes : allocTest s₁ (s₁.entry (pageOf a b).slot) .hostXfer = .pass := by
      rw [← same]
      rcases test with room | ⟨short, above⟩
      · exact allocTest_room room
      · exact allocTest_segment _ short above
    rw [if_pos (by rw [List.length_append]; omega), askWrite_pass _ _ passes]
    rfl
  · have refused := allocTest_refused (s := s₁) (e := e) (c := .hostXfer) (.inr rfl) full why
    rw [same] at refused
    rw [if_pos (by rw [List.length_append]; omega), askWrite_refused _ _ rfl refused]
    have back : s₁.modEntry (pageOf a b).slot (fun e' => { e' with pending := (e.pending ++ data).take e.pending.length }) =
        s₁.setEntry (pageOf a b).slot e := by
      rw [State.modEntry, ← same, List.take_left]
    generalize allocTest s₁ (s₁.entry (pageOf a b).slot) .hostXfer = test at refused
    cases test with
    | pass => exact absurd rfl refused
    | storeFull | pageLimit =>
      simp only [back, writeFields, State.entry_setEntry_self]
      rw [State.setJob_none (by exact idle)]

/-! ### PAGE-CLOSE (R21) -/

theorem closeUpload_eq {tag : Byte} {h : PageHandle} {e : PageEntry} {c : CloseReq} {s : State} (idle : s.link.job = none)
    (there : s.page h = some e) (hold : c.hold = .none) (pins : 0 < e.pins) :
    closeUpload tag h c s = reply 0x12 tag .ok (e32 e.byteLen ++ e16 e.committed ++ [(e.closedBy c).flagsOctet])
      (raise .pageClosed (pageClosedFields h (e.closedBy c)) (s.setEntry h.slot (e.closedBy c))) := by
  obtain ⟨-, same, -, -⟩ := State.page_some there
  unfold closeUpload
  rw [State.setJob_none idle, finishClose_held there hold pins, ← same]
  rfl

theorem uploadPage_wrongState {s : State} {h : PageHandle} {e : PageEntry} (there : s.page h = some e)
    (other : e.state ≠ .opened ∨ e.writer ≠ some .hostXfer) : uploadPage s h = .error .wrongState := by
  unfold uploadPage
  rw [there]
  exact if_neg fun both => other.elim (fun h => h both.1) fun h => h both.2

/-- Settles O18. -/
theorem uploadCloses : Obligations.UploadCloses := by
  intro tag a b n1 n0 e s s₁ taken quiet there
  have idle := State.takes_job taken
  obtain ⟨-, same, -, -⟩ := State.page_some there
  have lines : clamp 0 6912 (nat16 n1 n0) = min 6912 (256 * n1.toNat + n0.toNat) := by
    rw [clamp_eq, nat16_eq, Nat.zero_max]
  have acts (t : State) (scan : t.scan = s₁.scan) (done : pageClose tag [a, b, n1, n0] s₁ = t) :
      exec (.pageClose tag [a, b, n1, n0]) s = .next t :=
    exec_hostCommand rfl taken (by rw [done, scanRetry_eq (by rwa [scan])])
  refine ⟨fun opened writer empty pins => ?_, fun opened writer pending short test => ?_,
    fun opened writer pending full why pins => ?_, fun other => ?_⟩
  · refine acts _ (by rw [reply_scan, raise_scan]; rfl) ?_
    simp only [pageClose, uploadPage_ok there opened writer, if_pos empty]
    rw [closeUpload_eq (c := { code := 0, lineCount := nat16 n1 n0, truncated := false, hold := .none }) idle there rfl pins]
    simp only [PageEntry.closedBy, lines, Bool.or_false]
    rfl
  · refine acts _ rfl ?_
    have passes : allocTest s₁ (s₁.entry (pageOf a b).slot) .hostXfer = .pass := by
      rw [← same]
      rcases test with room | ⟨short, above⟩
      · exact allocTest_room room
      · exact allocTest_segment _ short above
    simp only [pageClose, uploadPage_ok there opened writer, if_neg pending, askWrite_pass _ _ passes,
      finalBlock_eq short, nat16_eq]
    rfl
  · refine acts _ (by rw [reply_scan, raise_scan]; rfl) ?_
    have refused := allocTest_refused (s := s₁) (e := e) (c := .hostXfer) (.inr rfl) full why
    rw [same] at refused
    simp only [pageClose, uploadPage_ok there opened writer, if_neg pending, askWrite_refused _ _ rfl refused]
    generalize allocTest s₁ (s₁.entry (pageOf a b).slot) .hostXfer = test at refused
    cases test with
    | pass => exact absurd rfl refused
    | storeFull | pageLimit =>
      rw [closeUpload_eq (c := { code := 0, lineCount := nat16 n1 n0, truncated := true, hold := .none }) idle there rfl
        pins]
      simp only [PageEntry.closedBy, lines, Bool.or_true]
  · refine acts _ rfl ?_
    simp only [pageClose, uploadPage_wrongState there other]

/-! ### PAGE-PIN, PAGE-UNPIN and PAGE-DROP (R10, R15) -/

theorem pinFields_live {s : State} {h : PageHandle} {e : PageEntry} (there : s.page h = some e) :
    pinFields s h = e16 e.refs ++ e8 e.pins := by simp [pinFields, there]

theorem unpinFields_live {s : State} {h : PageHandle} {e : PageEntry} (there : s.page h = some e) :
    unpinFields s h = e16 e.refs ++ e8 e.pins ++ eBool false := by simp [unpinFields, pinFields, there]

/-- A page that is released names no page any more. -/
theorem PageReleased.page_none {h : PageHandle} {e : PageEntry} {s t : State} (released : PageReleased h e s t) :
    t.page h = none := by
  obtain ⟨slot, -, -⟩ := released
  simp [State.page, slot, PageEntry.freeWith]

theorem unpinFields_gone {s : State} {h : PageHandle} (gone : s.page h = none) :
    unpinFields s h = e16 0 ++ e8 0 ++ eBool true := by simp [unpinFields, pinFields, gone]

/-- The part as a discard of a page leaves it before its segments go (R8, R10): its requests withdrawn, its transfer void,
the documents that held it without it. -/
def State.discarding (s : State) (h : PageHandle) : State :=
  { s with
    store := { s.store with
      waiting := s.store.waiting.filter fun r => !decide (r.op.page = h),
      port := s.store.port.map fun x => if x.req.op.page = h then { x with void := true } else x },
    docs := { s.docs with docs := s.docs.docs.map (Doc.dropPage h) } }

theorem discardPage_eq (h : PageHandle) (s : State) : discardPage h s = freePage h (s.discarding h) := by
  simp [discardPage, State.discarding]

/-- A discard (R10): the page is released, the documents lose it, its requests are gone. -/
theorem discardPage_spec {s : State} (h : PageHandle) (idle : s.link.job = none) :
    PageReleased h (s.entry h.slot) s (discardPage h s) ∧ OnlyChanges [.store, .link, .docs] s (discardPage h s) ∧
      LinkRaises s (discardPage h s) ∧
      (discardPage h s).docs = { s.docs with docs := s.docs.docs.map (Doc.dropPage h) } ∧
      (∀ r ∈ (discardPage h s).store.waiting, r ∈ s.store.waiting ∧ r.op.page ≠ h) ∧
      (∀ x, (discardPage h s).store.port = some x → x.req.op.page = h → x.void = true) := by
  rw [discardPage_eq]
  obtain ⟨⟨slot, others, pool⟩, only, raises⟩ := freePage_released (s := s.discarding h) (h := h) idle
  obtain ⟨lowArmed, notices, lost, freed⟩ := freePage_eq (s := s.discarding h) h idle
  refine ⟨⟨slot, others, pool⟩, ?_, raises, by rw [freed]; rfl, ?_, ?_⟩
  · refine OnlyChanges.trans (t := s.discarding h) ?_ (only.mono (by decide))
    intro p other
    cases p <;> first | rfl | exact absurd (by decide) other
  · intro r waits
    rw [freed] at waits
    have kept := (List.mem_filter.1 waits).1
    simpa [State.discarding] using kept
  · intro x granted mine
    rw [freed] at granted
    simp only [Store.withoutReads, State.discarding, Option.map_map, Option.map_eq_some_iff, Function.comp] at granted
    obtain ⟨y, -, rfl⟩ := granted
    by_cases page : y.req.op.page = h <;> by_cases read : y.req.op.isRead = true <;> simp_all

/-- Settles O22. -/
theorem pinsAndRelease : Obligations.PinsAndRelease := by
  intro tag a b s s₁
  refine ⟨fun taken gone => ?_, fun e there quiet => ⟨fun taken few => ?_, fun taken most => ?_, fun taken none => ?_,
    fun taken pins stays => ?_, fun taken opened writer => ?_, fun taken stays => ?_, ?_⟩⟩
  · exact exec_refuses rfl taken (by simp [pagePin, gone])
  · refine exec_answers rfl taken ?_
    have page := State.page_setEntry (e' := { e with pins := e.pins + 1 }) there (State.page_some there).2.2.1 rfl
    simp only [pagePin, there, if_neg (by omega : ¬15 ≤ e.pins), pinFields_live page]
  · exact exec_refuses rfl taken (by simp [pagePin, there, most])
  · exact exec_refuses rfl taken (by simp [pageUnpin, there, none])
  · refine exec_answers rfl taken ?_
    have page := State.page_setEntry (e' := { e with pins := e.pins - 1 }) there (State.page_some there).2.2.1 rfl
    simp only [pageUnpin, there, if_neg (by omega : e.pins ≠ 0)]
    rw [releaseTest_stays page (stays.imp_right (Or.imp_right fun _ => by show 0 < e.pins - 1; omega)),
      scanRetry_eq (by exact quiet), unpinFields_live page]
  · obtain ⟨released, only, raises, docs, waiting, port⟩ := discardPage_spec (pageOf a b) (State.takes_job taken)
    have keeps : (discardPage (pageOf a b) s₁).scan = s₁.scan := only .scan (by decide)
    refine ⟨discardPage (pageOf a b) s₁, exec_answers rfl taken ?_, ?_, ?_, released.2.1, fun k => ?_, ?_,
      fun r waits => (waiting r waits).2, port, only, raises⟩
    · simp only [pageDrop, there, if_pos (And.intro opened writer)]
      rw [scanRetry_eq (by rwa [keeps]), unpinFields_gone released.page_none]
    · rw [(State.page_some there).2.1]; exact released.1
    · rw [(State.page_some there).2.1]; exact released.2.2
    · rw [docs]; exact Table.get_map ..
    · rw [docs]
  · refine exec_answers rfl taken ?_
    have page := State.page_setEntry (e' := { e with pins := 0 }) there (State.page_some there).2.2.1 rfl
    have upload : ¬(e.state = .opened ∧ e.writer = some .hostXfer) := by
      rintro ⟨opened, writer⟩
      rcases stays with ⟨-, closed⟩ | ⟨-, other⟩
      · rw [opened] at closed; cases closed
      · exact other writer
    simp only [pageDrop, there, if_neg upload]
    rw [releaseTest_stays page (stays.elim (fun h => .inr (.inl h.1)) fun h => .inl h.1),
      scanRetry_eq (by exact quiet), unpinFields_live page]
  · rintro kind i row taken closed refs
    have idle : s₁.link.job = none := State.takes_job taken
    obtain ⟨released, only, raises⟩ := releaseTest_setEntry_released (e' := { e with pins := 0 }) idle there closed refs rfl
      rfl rfl
    generalize freed : releaseTest (pageOf a b) (s₁.setEntry (pageOf a b).slot { e with pins := 0 }) = t at released only raises
    have keeps : t.scan = s₁.scan := only .scan (by decide)
    have retry : scanRetry t = t := scanRetry_eq (by rwa [keeps])
    refine ⟨t, ?_, released.1, released.2.2, released.2.1, only, raises⟩
    rcases row with ⟨rfl, rfl, last⟩ | ⟨rfl, rfl⟩
    · refine exec_answers rfl taken ?_
      simp only [pageUnpin, there, if_neg (by omega : e.pins ≠ 0)]
      rw [last, freed, retry, unpinFields_gone released.page_none]
    · refine exec_answers rfl taken ?_
      simp only [pageDrop, there, if_neg (by rw [closed]; nofun : ¬(e.state = .opened ∧ e.writer = some .hostXfer))]
      rw [freed, retry, unpinFields_gone released.page_none]

/-! ### SCAN-SET (R25) -/

theorem byte_of_lt_two {c : Byte} (small : c.toNat < 2) : c = 0 ∨ c = 1 := by
  rcases (by omega : c.toNat = 0 ∨ c.toNat = 1) with h | h
  · exact .inl (BitVec.eq_of_toNat_eq h)
  · exact .inr (BitVec.eq_of_toNat_eq h)

theorem modeOf_named {m : Byte} (named : m.toNat < 2) : ∃ mode, modeOf m = some mode ∧ mode.code = m := by
  rcases byte_of_lt_two named with rfl | rfl
  · exact ⟨.text, rfl, rfl⟩
  · exact ⟨.halftone, rfl, rfl⟩

theorem roundingOf_named {r : Byte} (named : r.toNat < 2) : ∃ rounding, roundingOf r = some rounding ∧ rounding.code = r := by
  rcases byte_of_lt_two named with rfl | rfl
  · exact ⟨.floor, rfl, rfl⟩
  · exact ⟨.nearestEven, rfl, rfl⟩

theorem modeOf_unnamed {m : Byte} (unnamed : 2 ≤ m.toNat) : modeOf m = none := by
  unfold modeOf
  rw [if_neg (by rintro rfl; simp at unnamed), if_neg (by rintro rfl; simp at unnamed)]

theorem roundingOf_unnamed {r : Byte} (unnamed : 2 ≤ r.toNat) : roundingOf r = none := by
  unfold roundingOf
  rw [if_neg (by rintro rfl; simp at unnamed), if_neg (by rintro rfl; simp at unnamed)]

theorem oct_of_toNat {n : Nat} {b : Byte} (same : n = b.toNat) : oct n = b := by
  subst same
  exact BitVec.eq_of_toNat_eq (oct_toNat b.isLt)

theorem no_target : readOpt 2 [0] = .ok (none, []) := rfl

/-- Settles O23. -/
theorem scanSettingsApplied : Obligations.ScanSettingsApplied := by
  intro tag c m b k r t s s₁ taken
  refine ⟨fun class_ mode_ rounding_ idle => ?_, fun class_ mode_ rounding_ busy => ?_, fun unnamed => ?_⟩
  · obtain ⟨cls, cls_named, cls_code⟩ := classOf_named class_
    obtain ⟨mode, mode_named, mode_code⟩ := modeOf_named mode_
    obtain ⟨rounding, rounding_named, rounding_code⟩ := roundingOf_named rounding_
    refine ⟨{ cls, mode, offset := clamp 0 127 b.toNat, gain := clamp 16 255 k.toNat, rounding,
              threshold := clamp 1 255 t.toNat, target := none }, exec_answers rfl taken ?_, cls_code, mode_code,
      rounding_code, ?_, ?_, ?_, rfl⟩
    · simp only [scanSet, no_target, cls_named, mode_named, rounding_named, docField, targetRefusal,
        if_neg (not_not_intro idle), scanSettingsFields, eClass, e8, oct_of_toNat cls_code, mode_code, rounding_code, eOpt]
      rfl
    · show clamp 0 127 b.toNat = min 127 b.toNat
      rw [clamp_eq, Nat.zero_max]
    · show clamp 16 255 k.toNat = max 16 k.toNat
      rw [clamp_eq, Nat.min_eq_right (by have := k.isLt; omega)]
    · show clamp 1 255 t.toNat = max 1 t.toNat
      rw [clamp_eq, Nat.min_eq_right (by have := t.isLt; omega)]
  · obtain ⟨cls, cls_named, -⟩ := classOf_named class_
    obtain ⟨mode, mode_named, -⟩ := modeOf_named mode_
    obtain ⟨rounding, rounding_named, -⟩ := roundingOf_named rounding_
    refine exec_refuses rfl taken ?_
    simp only [scanSet, no_target, cls_named, mode_named, rounding_named, docField, targetRefusal, if_pos busy]
  · refine exec_refuses rfl taken ?_
    rcases unnamed with class_ | mode_ | rounding_
    · simp only [scanSet, no_target, classOf_unnamed class_]
    · simp only [scanSet, no_target, modeOf_unnamed mode_]
      cases classOf c <;> rfl
    · simp only [scanSet, no_target, roundingOf_unnamed rounding_]
      cases classOf c <;> cases modeOf m <;> rfl

end Sys2Proof.Machine
end

section
/-! PROOFS. PAGE-READ and the completion of every block read (R11, R12, R22, R118, R140). -/

namespace Sys2Proof.Machine

/-! ### The check of a block read (R11) -/

/-- The page's entry after the check: as it was, but for DAMAGED. -/
theorem marked_page {s : State} {h : PageHandle} {e : PageEntry} (there : s.page h = some e) (k : Nat) (matched : Bool) :
    (s.marked h e k matched).page h = some { e with damaged := e.damaged || !matched } := by
  unfold State.marked
  split
  · rename_i fine
    have same : (e.damaged || !matched) = e.damaged := by revert fine; cases e.damaged <;> cases matched <;> simp
    rw [same, there]
  · rename_i wrong
    have set : (e.damaged || !matched) = true := by revert wrong; cases e.damaged <;> cases matched <;> simp
    rw [State.page_congr (s := s.setEntry h.slot { e with damaged := true }) (by rw [raise_store]), set]
    exact State.page_setEntry there (State.page_some there).2.2.1 rfl

/-- The check changes the page's entry and raises a notice, and nothing else. -/
theorem marked_frame (s : State) (h : PageHandle) (e : PageEntry) (k : Nat) (matched : Bool) :
    ∃ dir notices lost, s.marked h e k matched =
      { s with store := { s.store with dir }, link := { s.link with notices, lost } } := by
  unfold State.marked
  split
  · exact ⟨s.store.dir, s.link.notices, s.link.lost, rfl⟩
  · obtain ⟨notices, lost, raised⟩ := raise_frame .storeDamage (ePage h ++ e16 k)
      (s.setEntry h.slot { e with damaged := true })
    exact ⟨_, notices, lost, raised⟩

/-- A read of a page still there, as the row does it with no scan job held. -/
theorem exec_read {s : State} {c : Client} {level addr k : Nat} {h : PageHandle} {void : Bool} {e : PageEntry}
    {disturbed : List (Nat × Byte)} (on : s.power = true) (quiet : s.scan.state ≠ .held) (there : s.page h = some e)
    (granted : s.store.port = some { req := { client := c, level, op := .read h k }, addr, void }) :
    let whole := disturb (Memory.readBlock s.mem addr ++ checkOctets (checkAt s.store.checks addr)) disturbed
    let matched : Bool := decide (disturbed = []) || Config.checkWord (whole.take 256) == wordOf (whole.drop 256)
    let m : State := { s.marked h e k matched with store := { (s.marked h e k matched).store with port := none } }
    exec (.blockReadComplete disturbed) s =
      .next (if void then readGone c m else deliver c (whole.take 256) matched m) := by
  intro whole matched m
  have step := readStep_page disturbed granted there
  have keeps : (readStep disturbed s).scan = s.scan := by
    rw [step]
    obtain ⟨dir, notices, lost, marks⟩ := marked_frame s h e k matched
    have scan : m.scan = s.scan := by rw [show m.scan = (s.marked h e k matched).scan from rfl, marks]
    show (if void then readGone c m else deliver c (whole.take 256) matched m).scan = s.scan
    rw [← scan]
    cases void
    · exact deliver_scan ..
    · unfold readGone; simp only [if_true]; split <;> rfl
  rw [exec_event (i := .blockReadComplete disturbed) (act := fun s => scanRetry (readStep disturbed s)) on rfl,
    scanRetry_eq (by rwa [keeps]), step]

/-! ### The host's reads (R22) -/

theorem readOn_asks {tag : Byte} {h : PageHandle} {offset count next : Nat} {got : List Byte} {damaged : Bool} {s : State}
    {e : PageEntry} (more : 256 * next < offset + count) (there : s.page h = some e) (closed : e.state = .closed)
    (has : next < e.committed) :
    readOn tag h offset count next got damaged s =
      queueRequest { client := .hostXfer, level := 0, op := .read h next }
        (s.setJob (some (.readPage tag h offset count next got damaged))) := by
  unfold readOn
  rw [if_pos more]
  exact askRead_asked (e := e) .hostXfer (by exact there) closed has

theorem deliver_host {tag : Byte} {h : PageHandle} {offset count next : Nat} {got : List Byte} {damaged : Bool}
    {s : State} (data : List Byte) (matched : Bool)
    (waits : s.link.job = some (.readPage tag h offset count next got damaged)) :
    deliver .hostXfer data matched s = readOn tag h offset count (next + 1) (got ++ data) (damaged || !matched) s := by
  simp only [deliver, waits]

theorem readGone_idle {c : Client} {s : State} (idle : c = .hostXfer → s.link.job = none) : readGone c s = s := by
  unfold readGone
  split
  · rename_i job; rw [idle rfl] at job; cases job
  · rfl

/-! ### A line channel's reads (R118) -/

/-- The line with the block delivered into its transmit buffer. -/
theorem deliver_buffer {x : SendSide} {b : TxBuffer} (data : List Byte) (room : b.got.length < b.want)
    (waits : x.buf0 = some b ∨ x.buf1 = some b ∧ ∀ b₀, x.buf0 = some b₀ → b₀.want ≤ b₀.got.length) :
    x.deliver data =
      if x.buf0 = some b then { x with buf0 := some { b with got := b.got ++ [data] } }
      else { x with buf1 := some { b with got := b.got ++ [data] } } := by
  unfold SendSide.deliver SendSide.current
  by_cases zero : x.buf0 = some b
  · simp [zero, room]
  · obtain ⟨one, full⟩ := waits.resolve_left zero
    rw [if_neg zero]
    cases buf : x.buf0 with
    | none => simp [one, room]
    | some b₀ => simp [one, room, Nat.not_lt.2 (full b₀ buf)]

/-- Buffers in use keep their line block, and a buffer newly taken holds another one: the frame's data stay. -/
theorem frameData_fetched {y : Line} {f : Nat} {part : Option Nat} {octets : List Byte} {buf0 buf1 : Option TxBuffer}
    {fetch : Option (Nat × Nat)} (data : y.frameData f part = some octets)
    (keeps0 : y.send.buf0 ≠ none → buf0 = y.send.buf0) (keeps1 : y.send.buf1 ≠ none → buf1 = y.send.buf1)
    (new : y.send.buf0 = none → buf0 = none ∨ ∃ b, buf0 = some b ∧ y.send.fetch = some (b.pos, b.block))
    (other : y.send.buf0 ≠ none ∨ y.send.fetch ≠ some (y.params.pagePos, y.send.block)) :
    ({ y with send := { y.send with buf0, buf1, fetch } } : Line).frameData f part = some octets := by
  suffices same : ({ y with send := { y.send with buf0, buf1, fetch } } : Line).sendBuffer = y.sendBuffer by
    unfold Line.frameData at data ⊢
    rw [same]
    exact data
  have has : y.sendBuffer ≠ none := by
    intro none
    rw [Line.frameData, none] at data
    cases data
  unfold Line.sendBuffer at has ⊢
  dsimp only at has ⊢
  cases zero : y.send.buf0 with
  | some b =>
    rw [keeps0 (by rw [zero]; nofun), zero]
    rw [zero] at has
    dsimp only at has ⊢
    split
    · rfl
    · rename_i elsewhere
      rw [if_neg elsewhere] at has
      cases one : y.send.buf1 with
      | some c => rw [keeps1 (by rw [one]; nofun), one]
      | none => rw [one] at has; exact absurd rfl has
  | none =>
    rw [zero] at has
    dsimp only at has ⊢
    cases one : y.send.buf1 with
    | none => rw [one] at has; exact absurd rfl has
    | some c =>
      rw [keeps1 (by rw [one]; nofun), one]
      rcases new zero with still | ⟨b, taken, fetched⟩
      · rw [still]
      · rw [taken]
        have elsewhere : ¬((b.pos == y.params.pagePos && b.block == y.send.block) = true) := by
          intro here
          have unlike := other.resolve_left (not_not_intro zero)
          simp only [Bool.and_eq_true, beq_iff_eq] at here
          exact unlike (by rw [fetched, here.1, here.2])
        simp [elsewhere]

theorem beginSending_eq (l : LineNo) (what : Sending) (s : State) :
    beginSending l what s = s.setLine l ((s.line l).sends what) := by
  simp only [beginSending, State.modProc, State.modParams, State.modLine_eq, State.line_setLine_self,
    State.setLine_setLine, Line.sends]

/-- The frame that is next is sent with its data, fill otherwise, or BLOCK_END: all of it in the line, whose buffers
stay. -/
theorem nextFrame_line (l : LineNo) (s : State) : ∃ x, nextFrame l s = s.setLine l x ∧
    x.send.buf0 = (s.line l).send.buf0 ∧ x.send.buf1 = (s.line l).send.buf1 ∧
    ∀ f part rest octets, (s.line l).send.queue = (f, part) :: rest → (s.line l).frameData f part = some octets →
      x.send.filling = false ∧ x.proc.octets = inLineOrder (s.line l).params.order
        (pageFrame (s.line l).params.pageSeq (s.line l).params.block f part octets) := by
  unfold nextFrame
  dsimp only
  split
  · rename_i empty
    refine ⟨_, beginSending_eq l _ s, rfl, rfl, fun f part rest octets next => ?_⟩
    rw [empty] at next; cases next
  · rename_i f part rest queued
    split
    · rename_i data sent
      refine ⟨_, rfl, rfl, rfl, fun f' part' rest' octets next has => ?_⟩
      rw [queued] at next
      obtain ⟨⟨rfl, rfl⟩, rfl⟩ : (f = f' ∧ part = part') ∧ rest = rest' := by simpa using next
      obtain rfl : data = octets := by rw [sent] at has; exact Option.some.inj has
      exact ⟨rfl, rfl⟩
    · rename_i waits
      have unsent (f' part' rest' octets) (next : (s.line l).send.queue = (f', part') :: rest')
          (has : (s.line l).frameData f' part' = some octets) : False := by
        rw [queued] at next
        obtain ⟨⟨rfl, rfl⟩, rfl⟩ : (f = f' ∧ part = part') ∧ rest = rest' := by simpa using next
        rw [waits] at has; cases has
      split
      · exact ⟨_, (s.setLine_line l).symm, rfl, rfl, fun f' part' rest' octets next has =>
          (unsent f' part' rest' octets next has).elim⟩
      · exact ⟨_, rfl, rfl, rfl, fun f' part' rest' octets next has => (unsent f' part' rest' octets next has).elim⟩

/-- The fetches go on from a delivery and the fill period ends: the line's buffers in use stay, the frame that waited is
sent, and nothing but the line and the requests that wait changes. -/
theorem endFill_fetchOn (fuel : Nat) (l : LineNo) (s : State) :
    let y := s.line l
    let t := endFill l (fetchOn fuel l s)
    (∃ waiting x, t = { s.setLine l x with store := { s.store with waiting } }) ∧
      (y.send.buf0 ≠ none → (t.line l).send.buf0 = y.send.buf0) ∧
      (y.send.buf1 ≠ none → (t.line l).send.buf1 = y.send.buf1) ∧
      ∀ f part rest octets, y.send.filling = true → y.send.queue = (f, part) :: rest → y.frameData f part = some octets →
        (y.send.buf0 ≠ none ∨ y.send.fetch ≠ some (y.params.pagePos, y.send.block)) →
        (t.line l).send.filling = false ∧ (t.line l).proc.octets =
          inLineOrder y.params.order (pageFrame y.params.pageSeq y.params.block f part octets) := by
  intro y t
  obtain ⟨waiting, buf0, buf1, fetch, fetched, keeps0, keeps1, new⟩ := fetchOn_frame fuel l s
  let y' : Line := { y with send := { y.send with buf0, buf1, fetch } }
  have line : (fetchOn fuel l s).line l = y' := by rw [fetched]; exact s.line_setLine_self l _
  have ends : t = if y'.send.filling then nextFrame l (fetchOn fuel l s) else fetchOn fuel l s := by
    rw [← line]; rfl
  obtain ⟨x, next, same0, same1, sent⟩ := nextFrame_line l (fetchOn fuel l s)
  rw [line] at same0 same1 sent
  have after : nextFrame l (fetchOn fuel l s) = { s.setLine l x with store := { s.store with waiting } } := by
    rw [next, fetched]
    exact congrArg (fun u : State => { u with store := { s.store with waiting } }) (s.setLine_setLine l _ x)
  have reads : ({ s.setLine l x with store := { s.store with waiting } } : State).line l = x := s.line_setLine_self l x
  by_cases filling : y'.send.filling = true
  · rw [if_pos filling] at ends
    rw [ends, after, reads]
    refine ⟨⟨waiting, x, rfl⟩, fun used => same0.trans (keeps0 used), fun used => same1.trans (keeps1 used), ?_⟩
    intro f part rest octets _ queued data other
    exact sent f part rest octets queued (frameData_fetched data keeps0 keeps1 new other)
  · rw [if_neg filling] at ends
    rw [ends, line]
    refine ⟨⟨waiting, y', fetched⟩, keeps0, keeps1, fun f part rest octets fills => absurd fills filling⟩

/-- A delivery to a line channel (R118): the block joins the buffer being fetched, and the frame that waited is sent. -/
theorem deliver_line {l : LineNo} {b : TxBuffer} (s : State) (data : List Byte) (matched : Bool)
    (room : b.got.length < b.want)
    (waits : (s.line l).send.buf0 = some b ∨
      (s.line l).send.buf1 = some b ∧ ∀ b₀, (s.line l).send.buf0 = some b₀ → b₀.want ≤ b₀.got.length) :
    let x := s.line l
    let filled : TxBuffer := { b with got := b.got ++ [data] }
    let send : SendSide :=
      if x.send.buf0 = some b then { x.send with buf0 := some filled } else { x.send with buf1 := some filled }
    let y : Line := { x with send }
    ∃ waiting z, deliver (.lc l) data matched s = { s.setLine l z with store := { s.store with waiting } } ∧
      (if x.send.buf0 = some b then z.send.buf0 = some filled else z.send.buf1 = some filled) ∧
      ∀ f part rest octets, x.send.filling = true → x.send.queue = (f, part) :: rest →
        y.frameData f part = some octets → (x.send.buf0 ≠ none ∨ x.send.fetch ≠ some (x.params.pagePos, x.send.block)) →
        z.send.filling = false ∧ z.proc.octets =
          inLineOrder x.params.order (pageFrame x.params.pageSeq x.params.block f part octets) := by
  intro x filled send y
  obtain ⟨⟨waiting, z, goes⟩, keeps0, keeps1, sent⟩ := endFill_fetchOn 4 l (s.modSend l fun x => x.deliver data)
  have holds : (s.modSend l fun x => x.deliver data).line l = y := by
    simp only [State.modSend, State.modLine_eq, State.line_setLine_self]
    rw [deliver_buffer _ room waits]
  rw [holds] at keeps0 keeps1 sent
  have line : (endFill l (fetchOn 4 l (s.modSend l fun x => x.deliver data))).line l = z := by
    rw [goes]; exact State.line_setLine_self _ l z
  rw [line] at keeps0 keeps1 sent
  refine ⟨waiting, z, ?_, ?_, ?_⟩
  · refine Eq.trans goes ?_
    exact congrArg (fun u : State => { u with store := { s.store with waiting } }) (s.setLine_setLine l _ z)
  · by_cases zero : x.send.buf0 = some b
    · have buffer : y.send.buf0 = some filled := by simp only [y, send, if_pos zero]
      rw [if_pos zero, keeps0 (by rw [buffer]; nofun), buffer]
    · have buffer : y.send.buf1 = some filled := by simp only [y, send, if_neg zero]
      rw [if_neg zero, keeps1 (by rw [buffer]; nofun), buffer]
  · intro f part rest octets fills queued data other
    have same : y.send.filling = x.send.filling ∧ y.send.queue = x.send.queue ∧ y.send.fetch = x.send.fetch ∧
        y.send.block = x.send.block ∧ (x.send.buf0 ≠ none → y.send.buf0 ≠ none) := by
      by_cases zero : x.send.buf0 = some b
      · simp [y, send, zero]
      · simp [y, send, zero]
    obtain ⟨filling, queue, fetch, block, used⟩ := same
    exact sent f part rest octets (filling.trans fills) (queue.trans queued) data
      (other.imp used fun unlike => by rw [fetch, block]; exact unlike)

/-! ### The print engine's reads (R140) -/

/-- Asking for the engine's next block changes the engine's count of blocks asked for and the requests that wait. -/
theorem askBlock_page {s : State} {h : PageHandle} {e : PageEntry} (page : s.engine.page = some h)
    (there : s.page h = some e) :
    let d := s.engine.decoder
    let asks : Bool := !d.ended && decide (d.asked = d.delivered ∧ d.asked < e.committed ∧ d.asked < d.decoded / 256 + 2)
    ∃ waiting, askBlock s = { s with
      store := { s.store with waiting },
      engine := { s.engine with decoder := { d with asked := if asks then d.asked + 1 else d.asked } } } := by
  intro d asks
  rw [askBlock_eq page there]
  dsimp only
  by_cases ask : d.ended = false ∧ d.asked = d.delivered ∧ d.asked < e.committed ∧ d.asked < d.decoded / 256 + 2
  · obtain ⟨waiting, asked⟩ := askRead_frame .print h d.asked
      { s with engine := { s.engine with decoder := { d with asked := d.asked + 1 } } }
    have yes : asks = true := by simp only [asks]; rw [decide_eq_true ask.2, ask.1]; rfl
    rw [if_pos ask, yes]
    exact ⟨waiting, asked⟩
  · have no : asks = false := by
      simp only [asks, Bool.and_eq_false_iff, Bool.not_eq_false', decide_eq_false_iff_not]
      by_cases ended : d.ended = true
      · exact .inl ended
      · exact .inr fun rest => ask ⟨by simpa using ended, rest⟩
    rw [if_neg ask, no]
    exact ⟨s.store.waiting, rfl⟩

theorem pageRead_eq {tag a b o3 o2 o1 o0 n1 n0 : Byte} {e : PageEntry} {s : State} (there : s.page (pageOf a b) = some e)
    (size : 1 ≤ nat16 n1 n0 ∧ nat16 n1 n0 ≤ 1024) : pageRead tag [a, b, o3, o2, o1, o0, n1, n0] s =
      if e.state = .opened then refuse 0x13 tag .wrongState s
      else if e.byteLen ≤ nat32 o3 o2 o1 o0 then refuse 0x13 tag .badField s
      else readOn tag (pageOf a b) (nat32 o3 o2 o1 o0) (min (nat16 n1 n0) (e.byteLen - nat32 o3 o2 o1 o0))
        (nat32 o3 o2 o1 o0 / 256) [] false s := by
  unfold pageRead
  dsimp only
  rw [if_neg (by omega), there]

/-- Settles O19. -/
theorem pageReadDelivers : Obligations.PageReadDelivers := by
  constructor
  · intro tag a b o3 o2 o1 o0 n1 n0 e s s₁ taken there offset count
    refine ⟨fun one most closed inside has => ?_, fun one most opened => ?_, fun one most closed past => ?_, fun bad => ?_⟩ <;>
      refine exec_hostCommand rfl taken ?_
    · rw [pageRead_eq there ⟨one, most⟩, if_neg (by rw [closed]; nofun), if_neg (Nat.not_le.2 inside),
        readOn_asks (by omega) there closed has]
      rfl
    · rw [pageRead_eq there ⟨one, most⟩, if_pos opened]
    · rw [pageRead_eq there ⟨one, most⟩, if_neg (by rw [closed]; nofun), if_pos past]
    · exact if_pos bad
  · intro tag h e c level addr k offset count next got damaged disturbed s on quiet there whole matched marked
    have marks : marked = s.marked h e k matched := rfl
    obtain ⟨dir, notices, lost, frame⟩ := marked_frame s h e k matched
    rw [← marks] at frame
    have page : ({ marked with store := { marked.store with port := none } } : State).page h =
        some { e with damaged := e.damaged || !matched } := marked_page there k matched
    refine ⟨fun granted job last => ?_, fun granted job more closed has => ?_, ?_, ?_, fun granted gone => ?_⟩
    · have waits : ({ marked with store := { marked.store with port := none } } : State).link.job =
          some (.readPage tag h offset count next got damaged) := by rw [frame]; exact job
      rw [exec_read on quiet there granted, ← marks]
      simp only [Bool.false_eq_true, if_false]
      rw [deliver_host _ _ waits, readOn, if_neg (by omega)]
      rfl
    · have waits : ({ marked with store := { marked.store with port := none } } : State).link.job =
          some (.readPage tag h offset count next got damaged) := by rw [frame]; exact job
      rw [exec_read on quiet there granted, ← marks]
      simp only [Bool.false_eq_true, if_false]
      rw [deliver_host _ _ waits, readOn_asks more page closed has]
      rfl
    · intro l b x granted room waits filled send y
      obtain ⟨waiting, z, delivered, buffer, sent⟩ := deliver_line (l := l) (b := b)
        { marked with store := { marked.store with port := none } } (whole.take 256) matched room (by rw [frame]; exact waits)
      have same : ({ marked with store := { marked.store with port := none } } : State).line l = x := by rw [frame]; rfl
      rw [same] at buffer sent
      refine ⟨_, exec_read on quiet there granted, ?_⟩
      rw [← marks]
      simp only [Bool.false_eq_true, if_false]
      rw [delivered]
      have reads (u : State) (w : List Request) : ({ u.setLine l z with store := { u.store with waiting := w } } : State).line l
          = z := u.line_setLine_self l z
      simp only [reads]
      refine ⟨buffer, sent, rfl, trivial, trivial, fun k' other => ?_, ?_⟩
      · rw [frame]; exact s.line_setLine_ne _ other
      · rw [frame]
        intro p other
        cases p <;> first | rfl | exact absurd (by decide) other
    · intro granted inHand stopped g asks
      let m : State := { marked with store := { marked.store with port := none } }
      have engine : m.engine = s.engine := by simp only [m]; rw [frame]
      have goes : deliver .print (whole.take 256) matched m =
          let t : State := { m with engine := g }
          if g.decoder.ended then
            if g.ring.isEmpty then nextPage (endPage h (withdraw .print t)) else withdraw .print t
          else askBlock t := by
        have eqn := engineOn_eq (h := h) (s := m.modEngine fun e => { e with decoder := { e.decoder with
          delivered := e.decoder.delivered + 1, stream := e.decoder.stream ++ whole.take 256 } })
          (by simp only [State.modEngine, engine]; exact inHand) (by simp only [State.modEngine, engine]; exact stopped)
        have bytes : (m.entry h.slot).byteLen = e.byteLen := by rw [← (State.page_some page).2.1]
        refine eqn.trans ?_
        have same : decodeOn (m.entry h.slot).byteLen { m.engine with decoder := { m.engine.decoder with
            delivered := m.engine.decoder.delivered + 1, stream := m.engine.decoder.stream ++ whole.take 256 } } = g := by
          rw [bytes, engine]
        simp only [← same]
        rfl
      have done : exec (.blockReadComplete disturbed) s = .next (deliver .print (whole.take 256) matched m) :=
        exec_read on quiet there granted
      have hand : g.page = some h := (decodeOn_page _ _).trans inHand
      refine ⟨fun goesOn => ?_, fun ended empty => ?_⟩
      · by_cases ended : g.decoder.ended = true
        · have ring : g.ring.isEmpty = false := by simpa using goesOn.resolve_left (by simp [ended])
          have no : asks = false := by simp only [asks, ended]; rfl
          refine ⟨_, done, ?_⟩
          rw [goes]
          dsimp only
          rw [if_pos ended, if_neg (by rw [ring]; nofun), no]
          refine ⟨rfl, rfl, rfl, rfl, ?_⟩
          intro p other
          cases p <;> first | exact absurd (by decide) other | (simp only [m]; rw [frame]; rfl)
        · obtain ⟨waiting, asked⟩ := askBlock_page (s := { m with engine := g }) hand page
          refine ⟨_, done, ?_⟩
          rw [goes]
          dsimp only
          rw [if_neg ended, asked]
          refine ⟨rfl, rfl, rfl, rfl, ?_⟩
          intro p other
          cases p <;> first | exact absurd (by decide) other | (simp only [m]; rw [frame]; rfl)
      · have none : g.ring.isEmpty = true := by simp [empty]
        rw [done, goes]
        dsimp only
        rw [if_pos ended, if_pos none]
    · rw [exec_read on quiet there granted, ← marks]
      simp only [if_true]
      rw [readGone_idle fun host => by rw [frame]; exact gone host]

end Sys2Proof.Machine
end

section
/-! PROOFS. Documents: built, submitted, their times, and the outcome of an attempt (R46 to R52, R61 to R64). -/

namespace Sys2Proof.Machine

/-! ### Handles and the deadline (R46, R63) -/

theorem State.doc_some {s : State} {h : DocHandle} {d : Doc} (there : s.doc h = some d) :
    h.slot < 64 ∧ s.docs.docs.get h.slot = d ∧ d.state ≠ .free ∧ d.issue = h.issue := by
  unfold State.doc at there
  dsimp only at there
  split at there
  · rename_i named
    cases there
    exact ⟨named.1, rfl, named.2⟩
  · cases there

/-- Of a due document without RELEASE_PAGES and without cancel requested the waiting destinations expire, and nothing but
the document table and notices changes. -/
theorem expireDoc_spec {k : Nat} {s : State} (due : (s.docs.docs.get k).due s.now)
    (keeps : (s.docs.docs.get k).releasePages = false) (stays : (s.docs.docs.get k).cancelReq = false)
    (once : (s.docs.docs.get k).dests.Nodup) :
    (expireDoc k s).docs.docs.get k = { s.docs.docs.get k with
      state := if (s.docs.docs.get k).dests.any (onLineIn s.docs.pool) then (s.docs.docs.get k).state else .done,
      expired := (s.docs.docs.get k).expired + ((s.docs.docs.get k).dests.filter (waitsIn s.docs.pool)).length } ∧
    (∀ r, (expireDoc k s).dest r =
      if r ∈ (s.docs.docs.get k).dests then (s.dest r).map (Dest.leaves .expired) else s.dest r) ∧
    OnlyChanges [.docs, .link] s (expireDoc k s) ∧ LinkRaises s (expireDoc k s) := by
  obtain ⟨store, link, frame, ended, -⟩ := expireDoc_due due
  obtain ⟨sameStore, raises⟩ := expireDoc_keeps (k := k) (s := s) keeps
  refine ⟨?_, fun r => ?_, ?_, raises⟩
  · rw [ended, moveWaiting_count _ once]
    simp [Doc.expires, keeps, stays]
  · unfold State.dest
    rw [frame]
    exact moveWaiting_get rfl ..
  · intro p other
    cases p <;> first
      | exact absurd (by decide) other
      | exact sameStore
      | (rw [frame]; rfl)

theorem leaves_expired (x : Dest) :
    x.leaves .expired = if x.state.isWaiting then { x with state := .expired } else x := rfl

/-- Settles O33. -/
theorem timesReached : Obligations.TimesReached := by
  intro s on quiet
  refine ⟨fun slot before => ?_, ?_, fun r x there waits reached => ?_, fun r x there before => ?_⟩
  · rw [exec_event (i := .deadlineReached slot) (act := fun s => scanRetry (expireDoc slot s)) on rfl,
      expireDoc_not_due fun due => absurd (due.2.symm.trans before) nofun, scanRetry_eq quiet]
  · intro slot d reached live once keeps stays there waits online
    obtain ⟨doc, dests, only, raises⟩ := expireDoc_spec (k := slot) (s := s) ⟨live, reached⟩ keeps stays once
    refine ⟨expireDoc slot s, ?_, doc, fun r => ?_, only, raises⟩
    · rw [exec_event (i := .deadlineReached slot) (act := fun s => scanRetry (expireDoc slot s)) on rfl,
        scanRetry_eq (by rwa [only .scan (by decide)])]
    · exact dests r
  · rw [exec_event (i := .retryEligible r) (act := retryEligible r) on rfl, retryEligible, there]
    exact congrArg Host.Outcome.next (if_pos ⟨waits, decide_eq_true reached⟩)
  · rw [exec_event (i := .retryEligible r) (act := retryEligible r) on rfl, retryEligible, there]
    refine congrArg Host.Outcome.next (if_neg fun due => ?_)
    rcases before with other | before
    · exact other due.1
    · exact absurd (of_decide_eq_true due.2) (Nat.not_le.2 before)

/-! ### DOC-SUBMIT (R52, R64) -/

/-- The part with a DRAFT document queued, before its deadline is looked at. -/
def State.queuing (s : State) (slot : Nat) (d : Doc) : State :=
  { s with docs := { s.docs with
    docs := s.docs.docs.set slot { d with state := .queued, sequence := s.docs.counter },
    counter := (s.docs.counter + 1) % 65536 } }

theorem docSubmit_queues {a b : Byte} {d : Doc} {s : State} (there : s.doc (docOf a b) = some d) (draft : d.state = .draft)
    (pages : d.pages ≠ []) (dests : d.dests ≠ []) (closed : ∀ p ∈ d.pages, (s.entry p.slot).state ≠ .opened) :
    docSubmit [a, b] s =
      let t := askPass (expireDoc (docOf a b).slot (s.queuing (docOf a b).slot d))
      .ok (scanRetry t, e16 s.docs.counter ++ [(t.docs.docs.get (docOf a b).slot).state.code]) := by
  have none : ¬(d.pages.any fun p => decide ((s.entry p.slot).state = .opened)) = true := by
    rw [List.any_eq_true]
    rintro ⟨p, mem, opened⟩
    exact closed p mem (of_decide_eq_true opened)
  simp only [docSubmit, there, if_neg (not_not_intro draft), if_neg (not_or.2 ⟨pages, dests⟩), if_neg none]
  rfl

/-- Settles O30. -/
theorem documentSubmitted : Obligations.DocumentSubmitted := by
  intro tag a b d s s₁ taken there quiet
  refine ⟨fun draft pages dests closed => ⟨fun before => ?_, fun reached once keeps stays waiting => ?_⟩,
    fun draft empty => ?_, fun other => ?_, fun draft pages dests opened => ?_⟩
  · refine exec_answers rfl taken ?_
    have queued : (s₁.queuing (docOf a b).slot d).docs.docs.get (docOf a b).slot =
        { d with state := .queued, sequence := s₁.docs.counter } := Table.get_set_self ..
    have same : expireDoc (docOf a b).slot (s₁.queuing (docOf a b).slot d) = s₁.queuing (docOf a b).slot d :=
      expireDoc_not_due fun due => by rw [queued] at due; exact absurd (due.2.symm.trans before) nofun
    rw [docSubmit_queues there draft pages dests closed, same]
    simp only [askPass, queued]
    rw [scanRetry_eq (by exact quiet)]
    rfl
  · have queued : (s₁.queuing (docOf a b).slot d).docs.docs.get (docOf a b).slot =
        { d with state := .queued, sequence := s₁.docs.counter } := Table.get_set_self ..
    obtain ⟨doc, destinations, only, raises⟩ := expireDoc_spec (k := (docOf a b).slot)
      (s := s₁.queuing (docOf a b).slot d) (by rw [queued]; exact ⟨.inl rfl, reached⟩) (by rw [queued]; exact keeps)
      (by rw [queued]; exact stays) (by rw [queued]; exact once)
    rw [queued] at doc destinations
    have same : (s₁.queuing (docOf a b).slot d).docs.pool = s₁.docs.pool := rfl
    have offline : d.dests.any (onLineIn s₁.docs.pool) = false := List.any_eq_false.2 fun r mem => by
      obtain ⟨x, record, wait⟩ := waiting r mem
      simp [onLineIn, show s₁.docs.pool.get r = some x from record, wait]
    have wait : d.dests.filter (waitsIn s₁.docs.pool) = d.dests := List.filter_eq_self.2 fun r mem => by
      obtain ⟨x, record, wait⟩ := waiting r mem
      simp [waitsIn, show s₁.docs.pool.get r = some x from record, wait, DestState.isWaiting]
    simp only [same, offline, wait, Bool.false_eq_true, if_false] at doc
    generalize expired : expireDoc (docOf a b).slot (s₁.queuing (docOf a b).slot d) = u at doc destinations only raises
    have asks : OnlyChanges [.docs, .link] s₁ (askPass u) := by
      refine OnlyChanges.trans (t := u) (OnlyChanges.trans (t := s₁.queuing (docOf a b).slot d) ?_ only) ?_ <;>
        intro p other <;> cases p <;> first | rfl | exact absurd (by decide) other
    refine ⟨askPass u, exec_answers rfl taken ?_, doc, fun r mem => ?_, fun r other => ?_, rfl, asks, raises⟩
    · rw [docSubmit_queues there draft pages dests closed, expired]
      dsimp only
      rw [scanRetry_eq (by rw [asks .scan (by decide)]; exact quiet), show (askPass u).docs.docs = u.docs.docs from rfl, doc]
      rfl
    · obtain ⟨x, record, wait⟩ := waiting r mem
      have moved := destinations r
      rw [if_pos mem] at moved
      refine moved.trans ?_
      rw [show (s₁.queuing (docOf a b).slot d).dest r = s₁.dest r from rfl, record]
      simp [Dest.leaves, wait, DestState.isWaiting]
    · have moved := destinations r
      rw [if_neg other] at moved
      exact moved
  · refine exec_refuses rfl taken ?_
    simp only [docSubmit, there, if_neg (not_not_intro draft), if_pos empty]
  · refine exec_refuses rfl taken ?_
    simp only [docSubmit, there, if_pos other]
  · refine exec_refuses rfl taken ?_
    have some : (d.pages.any fun p => decide ((s₁.entry p.slot).state = .opened)) = true := by
      rw [List.any_eq_true]
      obtain ⟨p, mem, isOpen⟩ := opened
      exact ⟨p, mem, decide_eq_true isOpen⟩
    simp only [docSubmit, there, if_neg (not_not_intro draft), if_neg (not_or.2 ⟨pages, dests⟩), if_pos some]

/-! ### The outcome of an attempt (R61) -/

/-- The causes after which an attempt is not repeated: BARRED and DIAL_ERROR (R61). -/
def Cause.early : Cause → Bool
  | .barred | .dialError _ => true
  | _ => false

theorem Cause.early_iff (cause : Cause) : cause.early = true ↔ cause = .barred ∨ ∃ sub, cause = .dialError sub := by
  cases cause <;> simp [Cause.early]

/-- Where an outcome report sends a destination, in the order of R61's table. -/
theorem outcomeState_eq (d : Doc) (x : Dest) (cause : Cause) (now : DateTime) : outcomeState d x cause now =
    if x.confirmed = d.pages.length then .sent
    else if d.cancelReq then .cancelled
    else if cause.early then .failed
    else if d.retryLimit + 1 ≤ x.attempts then .failed
    else if d.deadlineReached now then .expired
    else if cause = .reset then .waiting
    else .retryWait := by
  cases cause <;> rfl

/-- A destination as an outcome report leaves it. -/
def Dest.reported (x : Dest) (d : Doc) (cause : Cause) (release : DateTime) (logged : Option Nat) (now : DateTime) : Dest :=
  let counted : Dest := { x with attempts := x.attempts + 1, lastCause := some cause, lastLog := logged.or x.lastLog }
  let st := outcomeState d counted cause now
  { counted with state := st, eligible := if st = .retryWait then release.plus (10 * d.retryInterval) else x.eligible }

theorem completeTest_pool (quiet cancelled : Bool) (slot : Nat) (s : State) :
    (completeTest quiet cancelled slot s).docs.pool = s.docs.pool := by
  unfold completeTest
  dsimp only
  split
  · split
    · obtain ⟨store, link, frame, -⟩ := endDoc_eq quiet slot (if cancelled then .cancelled else .done) s
      rw [frame]
    · rfl
  · rfl

theorem raiseUnless_docs (quiet : Bool) (kind : NoticeKind) (fields : List Byte) (s : State) :
    (raiseUnless quiet kind fields s).docs = s.docs := by
  unfold raiseUnless
  split
  · rfl
  · obtain ⟨_, _, raised⟩ := raise_frame kind fields s
    rw [raised]

/-- An outcome report changes its destination's record alone among the records, and asks for a pass. -/
theorem outcomeReport_pool {quiet : Bool} {h : DocHandle} {index r : Nat} {cause : Cause} {release : DateTime}
    {logged : Option Nat} {d : Doc} {x : Dest} {s : State} (there : s.doc h = some d) (listed : d.dests[index]? = some r)
    (record : s.dest r = some x) :
    (outcomeReport quiet h index cause release logged s).docs.pool =
        s.docs.pool.set r (some (x.reported d cause release logged s.now)) ∧
      (outcomeReport quiet h index cause release logged s).docs.passAsked = true := by
  refine ⟨?_, rfl⟩
  have ended (c : Bool) (a b : State) (pool : Table (Option Dest)) (ha : a.docs.pool = pool) (hb : b.docs.pool = pool) :
      (if c then a else b).docs.pool = pool := by cases c <;> assumption
  unfold outcomeReport
  rw [there]
  dsimp only
  rw [listed]
  dsimp only
  rw [record]
  cases logged <;>
    exact ended _ _ _ _ (by rw [completeTest_pool, raiseUnless_docs]; rfl) rfl

/-- Settles O34. -/
theorem attemptOutcome : Obligations.AttemptOutcome := by
  intro h index r cause release logged d x s there listed record t early
  obtain ⟨pool, asked⟩ := outcomeReport_pool (quiet := false) (cause := cause) (release := release) (logged := logged)
    there listed record
  refine ⟨x.reported d cause release logged s.now, ?_, asked, rfl, rfl, rfl, rfl, rfl, rfl, fun all => ?_, fun some => ?_,
    fun k other => ?_⟩
  · show (outcomeReport false h index cause release logged s).docs.pool.get r = _
    rw [pool, Table.get_set_self]
  · exact if_pos all
  · have state : (x.reported d cause release logged s.now).state = _ := outcomeState_eq d _ cause s.now
    rw [if_neg some] at state
    refine ⟨fun cancel => by rw [state, if_pos cancel], fun goesOn => ?_⟩
    rw [goesOn, if_neg nofun] at state
    refine ⟨fun failed => ?_, fun later few => ?_⟩
    · rw [state]
      by_cases barred : cause.early = true
      · rw [if_pos barred]
      · have limit : d.retryLimit ≤ x.attempts := failed.resolve_left fun e => barred ((Cause.early_iff cause).2 e)
        rw [if_neg barred, if_pos (Nat.succ_le_succ limit)]
    · rw [if_neg fun e => later ((Cause.early_iff cause).1 e), if_neg (by show ¬d.retryLimit + 1 ≤ x.attempts + 1; omega)]
        at state
      refine ⟨fun reached => by rw [state, if_pos reached], fun before reset => ?_, fun before other => ?_⟩
      · rw [state, before, if_neg nofun, if_pos reset]
      · rw [before, if_neg nofun, if_neg other] at state
        exact ⟨state, if_pos state⟩
  · show (outcomeReport false h index cause release logged s).docs.pool.get k = _
    rw [pool, Table.get_set_ne _ _ other]
    rfl

end Sys2Proof.Machine
end

section
/-! PROOFS. Building a document: DOC-CREATE, DOC-ADD-PAGES and DOC-ADD-DESTS (R47, R49 to R51). -/

namespace Sys2Proof.Machine

/-! ### The octets of handles, times and dial symbols (11.7.1) -/

theorem readOpt_eOpt_append {α : Type} {f : α → List Byte} {n : Nat} (size : ∀ a, (f a).length = n) (v : Option α)
    (rest : List Byte) : readOpt n (eOpt f v ++ rest) = .ok (v.map f, rest) := by
  cases v with
  | none => rfl
  | some a => simp [readOpt, eOpt, size a]

theorem timeOf_eTime {t : DateTime} (valid : t.valid = true) :
    timeOf (oct (t.year - 2000)) (oct t.month) (oct t.day) (oct t.hour) (oct t.minute) (oct t.second) (oct t.tenth) = t := by
  obtain ⟨date, hour, minute, second, tenth⟩ := (DateTime.valid_iff t).1 valid
  obtain ⟨⟨from2000, to2099⟩, ⟨-, month⟩, -, day⟩ := (Date.valid_iff t.date).1 date
  have days := monthDays_le t.date.year t.date.month
  have year : t.date.year = t.year := rfl
  have same : t.date.month = t.month ∧ t.date.day = t.day := ⟨rfl, rfl⟩
  rw [timeOf, oct_toNat (by omega), oct_toNat (by omega), oct_toNat (by omega), oct_toNat (by omega), oct_toNat (by omega),
    oct_toNat (by omega), oct_toNat (by omega), show 2000 + (t.year - 2000) = t.year by omega]

theorem timeField_eTime {v : Option DateTime} (valid : ∀ t, v = some t → t.valid = true) : timeField (v.map eTime) = v := by
  cases v with
  | none => rfl
  | some t => exact congrArg some (timeOf_eTime (valid t rfl))

theorem pageHandles_ePage {pages : List PageHandle} (fits : ∀ p ∈ pages, p.slot < 1024 ∧ p.issue < 64) :
    pageHandles (pages.flatMap ePage) = pages := by
  induction pages with
  | nil => rfl
  | cons p ps ih =>
    obtain ⟨slot, issue⟩ := fits p List.mem_cons_self
    have head : pageOf (oct ((p.slot * 64 + p.issue) / 256)) (oct (p.slot * 64 + p.issue)) = p := by
      rw [pageOf, nat16_e16 (by omega), show (p.slot * 64 + p.issue) / 64 = p.slot by omega,
        show (p.slot * 64 + p.issue) % 64 = p.issue by omega]
    have tail := ih fun q mem => fits q (List.mem_cons_of_mem p mem)
    show pageOf _ _ :: pageHandles (ps.flatMap ePage) = p :: ps
    rw [head, tail]

theorem flatMap_ePage_length (pages : List PageHandle) : (pages.flatMap ePage).length = 2 * pages.length := by
  induction pages with
  | nil => rfl
  | cons p ps ih => rw [List.flatMap_cons, List.length_append, ih]; simp [ePage]; omega

theorem symOf_digit {d : Nat} (decimal : d ≤ 9) : symOf (oct (48 + d)) = some (.digit d) := by
  have value : (oct (48 + d)).toNat = 48 + d := oct_toNat (by omega)
  unfold symOf
  rw [value, if_pos (by omega), Nat.add_sub_cancel_left]

/-- Dial symbols are read as they are written. -/
theorem readSyms_symOctets {dial : List DialSym} (allowed : dial.all DialSym.inRange = true) (rest : List Byte) :
    readSyms dial.length (dial.flatMap symOctets ++ rest) = some (dial.map some, rest) := by
  induction dial with
  | nil => rfl
  | cons x xs ih =>
    obtain ⟨first, others⟩ := by simpa only [List.all_cons, Bool.and_eq_true] using allowed
    have tail := ih others
    cases x with
    | digit d =>
      have decimal : d ≤ 9 := of_decide_eq_true first
      have notMacro : oct (48 + d) ≠ 0x4D := fun same => by
        have := congrArg BitVec.toNat same
        rw [oct_toNat (by omega)] at this
        simp at this
        omega
      simp only [List.length_cons, List.flatMap_cons, symOctets, List.cons_append, List.nil_append, readSyms, if_neg notMacro,
        tail, symOf_digit decimal, List.map_cons]
    | macroCall n =>
      have known : n ≤ 31 := of_decide_eq_true first
      simp only [List.length_cons, List.flatMap_cons, symOctets, List.cons_append, List.nil_append, readSyms, if_true, tail,
        oct_toNat (by omega : n < 256), if_pos known, List.map_cons]
    | star | hash | pause | wait | chargePoint =>
      simp only [List.length_cons, List.flatMap_cons, symOctets, List.cons_append, List.nil_append, readSyms, tail,
        List.map_cons]
      rfl

theorem allSome_some {α : Type} (l : List α) : allSome (l.map some) = some l := by
  have read := allSome_map (f := some) (g := id) (l := l) fun _ _ => rfl
  rwa [List.map_id] at read

/-! ### DOC-CREATE (R49) -/

theorem boolOf_named {b : Byte} (named : b.toNat < 2) : boolOf b = some (decide (b = 1)) := by
  rcases byte_of_lt_two named with rfl | rfl <;> rfl

/-! ### DOC-ADD-PAGES (R13, R50) -/

theorem eq_of_same_slot {s : State} {p q : PageHandle} {e f : PageEntry} (hp : s.page p = some e) (hq : s.page q = some f)
    (slot : q.slot = p.slot) : q = p := by
  obtain ⟨-, rfl, -, issueP⟩ := State.page_some hp
  obtain ⟨-, rfl, -, issueQ⟩ := State.page_some hq
  rw [slot] at issueQ
  cases p; cases q
  simp_all

theorem raiseRef_page {s : State} {p : PageHandle} {e : PageEntry} (there : s.page p = some e) :
    raiseRef p s =
      if e.refs < 4095 then .ok (s.setEntry p.slot { e with refs := e.refs + 1 }) else .error .tableFull := by
  simp [raiseRef, there]

/-- A reference taken on one page leaves every handle naming its page, with one more reference on that one. -/
theorem page_of_raised {s : State} {p q : PageHandle} {e f : PageEntry} (hp : s.page p = some e) (hq : s.page q = some f) :
    (s.setEntry p.slot { e with refs := e.refs + 1 }).page q =
      some { f with refs := f.refs + if q = p then 1 else 0 } := by
  by_cases same : q = p
  · subst same
    obtain rfl : e = f := by rw [hp] at hq; exact Option.some.inj hq
    rw [if_pos rfl]
    exact State.page_setEntry hp (State.page_some hp).2.2.1 rfl
  · have slot : q.slot ≠ p.slot := fun slot => same (eq_of_same_slot hp hq slot)
    rw [if_neg same]
    unfold State.page at hq ⊢
    rw [State.entry_setEntry_ne _ _ slot]
    exact hq

/-- References taken on every page of a list, one for each occurrence (R13). -/
theorem raiseRefs_ok (pages : List PageHandle) (s : State)
    (room : ∀ p ∈ pages, ∃ e, s.page p = some e ∧ e.refs + pages.count p ≤ 4095) :
    ∃ t, raiseRefs pages s = .ok t ∧ t = { s with store := { s.store with dir := t.store.dir } } ∧
      ∀ k, t.entry k = { s.entry k with
        refs := (s.entry k).refs + (pages.filter fun p => decide (p.slot = k)).length } := by
  induction pages generalizing s with
  | nil => exact ⟨s, rfl, rfl, fun k => rfl⟩
  | cons p ps ih =>
    obtain ⟨e, there, few⟩ := room p List.mem_cons_self
    rw [List.count_cons_self] at few
    have first : raiseRef p s = .ok (s.setEntry p.slot { e with refs := e.refs + 1 }) := by
      rw [raiseRef_page there, if_pos (by omega)]
    obtain ⟨t, rest, frame, entries⟩ := ih (s.setEntry p.slot { e with refs := e.refs + 1 }) fun q mem => by
      obtain ⟨f, named, few⟩ := room q (List.mem_cons_of_mem p mem)
      refine ⟨_, page_of_raised there named, ?_⟩
      rw [List.count_cons] at few
      by_cases same : q = p
      · subst same; simp at few ⊢; omega
      · rw [if_neg (by simpa using Ne.symm same)] at few
        simpa [same] using few
    refine ⟨t, by rw [raiseRefs, first]; exact rest, frame.trans (by rfl), fun k => ?_⟩
    rw [entries k]
    by_cases slot : k = p.slot
    · subst slot
      rw [State.entry_setEntry_self, (State.page_some there).2.1]
      simp only [List.filter_cons, decide_true, if_true, List.length_cons, PageEntry.mk.injEq, true_and, and_true]
      omega
    · rw [State.entry_setEntry_ne _ _ slot, List.filter_cons, if_neg (by simpa using Ne.symm slot)]

/-- A page whose count would pass 4095 refuses them all (R13). -/
theorem raiseRefs_full (pages : List PageHandle) (s : State) (named : ∀ p ∈ pages, (s.page p).isSome)
    (tooMany : ∃ p ∈ pages, 4095 < (s.entry p.slot).refs + pages.count p) : raiseRefs pages s = .error .tableFull := by
  induction pages generalizing s with
  | nil => obtain ⟨p, none, -⟩ := tooMany; cases none
  | cons p ps ih =>
    obtain ⟨e, there⟩ := Option.isSome_iff_exists.1 (named p List.mem_cons_self)
    rw [raiseRefs, raiseRef_page there]
    by_cases room : e.refs < 4095
    · rw [if_pos room]
      refine ih _ (fun q mem => ?_) ?_
      · obtain ⟨f, there'⟩ := Option.isSome_iff_exists.1 (named q (List.mem_cons_of_mem p mem))
        rw [page_of_raised there there']
        rfl
      · obtain ⟨q, mem, many⟩ := tooMany
        obtain ⟨f, there'⟩ := Option.isSome_iff_exists.1 (named q mem)
        have after := (State.page_some (page_of_raised there there')).2.1
        have before := (State.page_some there').2.1
        rw [← before, List.count_cons] at many
        by_cases same : q = p
        · subst same
          obtain rfl : e = f := by rw [there] at there'; exact Option.some.inj there'
          simp only [beq_self_eq_true, if_true] at many
          have some : q ∈ ps := List.count_pos_iff.1 (by omega)
          refine ⟨q, some, ?_⟩
          rw [← after]
          simp only [if_true]
          omega
        · rw [if_neg (by simpa using Ne.symm same)] at many
          refine ⟨q, (List.mem_cons.1 mem).resolve_left same, ?_⟩
          rw [← after]
          simpa [same] using many
    · rw [if_neg room]

theorem pagesCounted {pages : List PageHandle} (some : 1 ≤ pages.length) (most : pages.length ≤ 255) :
    ¬(oct pages.length = 0 ∨ (pages.flatMap ePage).length ≠ 2 * (oct pages.length).toNat) := by
  rintro (zero | other)
  · have := congrArg BitVec.toNat zero
    rw [oct_toNat (by omega)] at this
    simp at this
    simp [this] at some
  · rw [oct_toNat (by omega), flatMap_ePage_length] at other
    exact other rfl

/-- Settles O29. -/
theorem documentBuilt : Obligations.DocumentBuilt := by
  refine ⟨?_, ?_, ?_, ?_⟩
  · intro tag desk prio lim i1 i0 flag deadline s s₁ taken named valid
    have body : [desk, prio] ++ eOpt eTime deadline ++ [lim, i1, i0, flag] =
        desk :: prio :: (eOpt eTime deadline ++ [lim, i1, i0, flag]) := rfl
    rw [body] at taken ⊢
    have read := readOpt_eOpt_append (f := eTime) (n := 7) (fun _ => rfl) deadline [lim, i1, i0, flag]
    have inRange : (!deadline.all DateTime.valid) = false := by
      cases deadline with
      | none => rfl
      | some t => simp [valid t rfl]
    refine ⟨fun none => ?_, fun desks full => ?_, ?_⟩
    · refine exec_refuses rfl taken ?_
      simp only [docCreate, read, timeField_eTime valid, boolOf_named named, none, true_or, if_true]
    · have fine : ¬(15 < desk.toNat ∨ (!deadline.all DateTime.valid) = true) := by
        rw [inRange]; simp only [Bool.false_eq_true, or_false]; omega
      refine exec_refuses rfl taken ?_
      have found : (s₁.docs.docs.lowest 64 fun d => decide (d.state = .free)) = none :=
        Table.lowest_eq_none _ fun j below => decide_eq_false (full j below)
      simp only [docCreate, read, timeField_eTime valid, boolOf_named named, if_neg fine, found]
    · intro slot desks small free lowest interval
      have fine : ¬(15 < desk.toNat ∨ (!deadline.all DateTime.valid) = true) := by
        rw [inRange]; simp only [Bool.false_eq_true, or_false]; omega
      refine exec_answers rfl taken ?_
      have found : (s₁.docs.docs.lowest 64 fun d => decide (d.state = .free)) = some slot :=
        Table.lowest_eq_some _ small (decide_eq_true free) fun j below => decide_eq_false (lowest j below)
      simp only [docCreate, read, timeField_eTime valid, boolOf_named named, if_neg fine, found, clamp_eq, Nat.zero_max,
        nat16_eq, interval]
  · intro tag a b d pages s s₁ taken there draft some few room
    have fits : ∀ p ∈ pages, p.slot < 1024 ∧ p.issue < 64 := fun p mem => by
      obtain ⟨issue, e, page, -⟩ := room p mem
      exact ⟨(State.page_some page).1, issue⟩
    have named : ¬(pages.any fun p => (s₁.page p).isNone) = true := by
      rw [List.any_eq_true]
      rintro ⟨p, mem, none⟩
      obtain ⟨-, e, page, -⟩ := room p mem
      rw [page] at none
      cases none
    obtain ⟨t, raised, frame, entries⟩ := raiseRefs_ok pages s₁ fun p mem => (room p mem).2
    have docs : t.docs = s₁.docs := by rw [frame]
    refine ⟨t.setDoc (docOf a b).slot { d with pages := d.pages ++ pages }, exec_answers rfl taken ?_, Table.get_set_self ..,
      fun k other => ?_, entries, ?_, ?_, ?_⟩
    · show docAddPages (a :: b :: oct pages.length :: pages.flatMap ePage) s₁ = _
      simp only [docAddPages, if_neg (pagesCounted some (by omega)), pageHandles_ePage fits, if_neg named, there,
        if_neg (not_not_intro draft), if_neg (Nat.not_lt.2 few), raised, List.length_append]
    · exact (Table.get_set_ne _ _ other).trans (by rw [docs])
    · simp only [State.setDoc, docs]
    · show t.store = { s₁.store with dir := t.store.dir }
      exact congrArg State.store frame
    · rw [frame]
      intro p other
      cases p <;> first | rfl | exact absurd (by decide) other
  · intro tag a b pages s s₁ taken some most fits
    have counted := pagesCounted some most
    refine ⟨fun unnamed => ?_, fun named => ?_⟩
    · refine exec_refuses rfl taken ?_
      show docAddPages (a :: b :: oct pages.length :: pages.flatMap ePage) s₁ = _
      have unnamed : (pages.any fun p => (s₁.page p).isNone) = true := by
        rw [List.any_eq_true]
        obtain ⟨p, mem, none⟩ := unnamed
        exact ⟨p, mem, by rw [none]; rfl⟩
      simp only [docAddPages, if_neg counted, pageHandles_ePage fits, if_pos unnamed]
    · have all : ¬(pages.any fun p => (s₁.page p).isNone) = true := by
        rw [List.any_eq_true]
        rintro ⟨p, mem, none⟩
        have is := named p mem
        rw [Option.isNone_iff_eq_none.1 none] at is
        cases is
      have goes {status : Status} (refuses : docAddPages (a :: b :: oct pages.length :: pages.flatMap ePage) s₁ =
          .error status) : exec (.docAddPages tag ([a, b, oct pages.length] ++ pages.flatMap ePage)) s =
            .next (refuse 0x29 tag status s₁) := exec_refuses rfl taken refuses
      refine ⟨fun none => goes ?_, fun d there => ⟨fun other => goes ?_, fun draft why => goes ?_⟩⟩
      · simp only [docAddPages, if_neg counted, pageHandles_ePage fits, if_neg all, none]
      · simp only [docAddPages, if_neg counted, pageHandles_ePage fits, if_neg all, there, if_pos other]
      · by_cases long : 255 < d.pages.length + pages.length
        · simp only [docAddPages, if_neg counted, pageHandles_ePage fits, if_neg all, there, if_neg (not_not_intro draft),
            if_pos long]
        · simp only [docAddPages, if_neg counted, pageHandles_ePage fits, if_neg all, there, if_neg (not_not_intro draft),
            if_neg long, raiseRefs_full pages s₁ named (why.resolve_left long)]
  · intro tag a b d dial r s s₁ taken there draft few some most allowed small free lowest left
    have body : [a, b] ++ eSyms dial = a :: b :: oct dial.length :: dial.flatMap symOctets := rfl
    rw [body] at taken ⊢
    refine exec_answers rfl taken ?_
    have syms := readSyms_symOctets allowed []
    rw [List.append_nil] at syms
    have read : readStrings ((dial.flatMap symOctets).length + 1) (oct dial.length :: dial.flatMap symOctets) =
        .some [(dial.length, dial.map .some)] := by
      rw [readStrings, oct_toNat (by omega), syms]
      dsimp only
      cases (dial.flatMap symOctets).length <;> rfl
    have dials : dialStrings [(dial.length, dial.map .some)] = .some [dial] := by
      simp only [dialStrings, List.map_cons, List.map_nil, if_pos (And.intro some most), allSome_some, allSome, Option.map]
    have found : s₁.docs.pool.lowest 2048 Option.isNone = .some r :=
      Table.lowest_eq_some _ small (by rw [show s₁.docs.pool.get r = none from free]; rfl) fun k below => by
        obtain ⟨x, record⟩ := Option.isSome_iff_exists.1 (lowest k below)
        rw [show s₁.docs.pool.get k = .some x from record]; rfl
    have room : ¬(200 < d.dests.length + 1 ∨ s₁.docs.freeRecords < 1) := by omega
    simp only [docAddDests, read, there, if_neg (not_not_intro draft), dials, List.length_singleton, if_neg room,
      drawRecords, found, List.length_append]

end Sys2Proof.Machine
end

section
/-! PROOFS. The dispatcher's pass: free lines, the order of documents and the hand-off (R53 to R57). -/

namespace Sys2Proof.Machine

/-! ### Free lines, documents considered and eligible destinations (R54 to R56) -/

theorem CallState.inProgress_iff (st : CallState) :
    st.inProgress = true ↔ st ≠ .idle ∧ st ≠ .rest ∧ st ≠ .outOfService := by cases st <;> simp [CallState.inProgress]

theorem callsInProgress_eq (s : State) : s.callsInProgress = (([0, 1, 2, 3] : List LineNo).filter fun k =>
    decide ((s.line k).state ≠ .idle ∧ (s.line k).state ≠ .rest ∧ (s.line k).state ≠ .outOfService)).length := by
  refine congrArg List.length (List.filter_congr fun k _ => ?_)
  rw [Bool.eq_iff_iff, CallState.inProgress_iff, decide_eq_true_eq]

theorem Line.ableToAnswer_iff (x : Line) : x.ableToAnswer = true ↔
    x.state = .idle ∧ x.attempt = none ∧ (x.config.direction = .inOnly ∨ x.config.direction = .both) := by
  simp only [Line.ableToAnswer, Bool.and_eq_true, Bool.or_eq_true, decide_eq_true_eq, Option.isNone_iff_eq_none]
  tauto

theorem ableOthers_eq (s : State) (l : LineNo) : s.ableOthers l = (([0, 1, 2, 3] : List LineNo).filter fun k =>
    decide (k ≠ l ∧ (s.line k).state = .idle ∧ (s.line k).attempt = none ∧
      ((s.line k).config.direction = .inOnly ∨ (s.line k).config.direction = .both))).length := by
  refine congrArg List.length (List.filter_congr fun k _ => ?_)
  rw [Bool.eq_iff_iff, Bool.and_eq_true, Line.ableToAnswer_iff, decide_eq_true_eq, decide_eq_true_eq]

theorem freeForOutbound_iff (s : State) (l : LineNo) : s.freeForOutbound l = true ↔
    (s.line l).state = .idle ∧ (s.line l).attempt = none ∧
      ((s.line l).config.direction = .outOnly ∨ (s.line l).config.direction = .both) ∧
      s.log.records.length + s.callsInProgress < 256 ∧ s.cfg.inboundReserve ≤ s.ableOthers l := by
  simp only [State.freeForOutbound, State.logHasRoom, Bool.and_eq_true, Bool.or_eq_true, decide_eq_true_eq,
    Option.isNone_iff_eq_none]
  tauto

theorem dispatchable_iff (s : State) (d : Doc) : s.dispatchable d = true ↔
    (d.state = .queued ∨ d.state = .active) ∧ d.cancelReq = false ∧ (s.desks.get d.desk).reached = false := by
  simp only [State.dispatchable, Bool.and_eq_true, Bool.or_eq_true, decide_eq_true_eq, Bool.not_eq_true', and_assoc]

theorem isEligible_iff (x : Dest) (now : DateTime) : x.isEligible now = true ↔
    x.state = .waiting ∨ x.state = .retryWait ∧ x.eligible.tenths ≤ now.tenths := by
  simp only [Dest.isEligible, DateTime.le, Bool.or_eq_true, Bool.and_eq_true, decide_eq_true_eq]

/-- The first eligible destination is the one before which none is (R56). -/
theorem firstEligible_eq {s : State} (dests : List Nat) (n i r : Nat) (x : Dest) (listed : dests[i]? = some r)
    (record : s.dest r = some x) (eligible : x.isEligible s.now = true)
    (first : ∀ j q y, j < i → dests[j]? = some q → s.dest q = some y → y.isEligible s.now = false) :
    s.firstEligible n dests = some (n + i) := by
  induction dests generalizing n i with
  | nil => cases listed
  | cons q qs ih =>
    cases i with
    | zero =>
      obtain rfl : q = r := by simpa using listed
      simp [State.firstEligible, record, eligible]
    | succ i =>
      have rest := ih (n + 1) i (by simpa using listed) fun j q' y below => first (j + 1) q' y (by omega)
      have next : s.firstEligible n (q :: qs) = s.firstEligible (n + 1) qs := by
        cases record' : s.dest q with
        | none => simp [State.firstEligible, record']
        | some y => simp [State.firstEligible, record', first 0 q y (by omega) rfl record']
      rw [next, rest]
      congr 1
      omega

/-- With an eligible destination found the document has one. -/
theorem firstEligible_some {s : State} (dests : List Nat) (n : Nat) (found : (s.firstEligible n dests).isSome) :
    ∃ q ∈ dests, ∃ y, s.dest q = some y ∧ y.isEligible s.now = true := by
  induction dests generalizing n with
  | nil => cases found
  | cons q qs ih =>
    unfold State.firstEligible at found
    split at found
    · rename_i y record
      by_cases eligible : y.isEligible s.now = true
      · exact ⟨q, List.mem_cons_self, y, record, eligible⟩
      · rw [if_neg eligible] at found
        obtain ⟨r, mem, rest⟩ := ih _ found
        exact ⟨r, List.mem_cons_of_mem q mem, rest⟩
    · obtain ⟨r, mem, rest⟩ := ih _ found
      exact ⟨r, List.mem_cons_of_mem q mem, rest⟩

/-! ### The order of documents (R55) -/

theorem seqBefore_iff (a b : Nat) : seqBefore a b = true ↔
    1 ≤ ((b : Int) - a) % 65536 ∧ ((b : Int) - a) % 65536 ≤ 32767 := by
  have gap : (((b + 65536 - a % 65536) % 65536 : Nat) : Int) = ((b : Int) - a) % 65536 := by omega
  simp only [seqBefore, Bool.and_eq_true, decide_eq_true_eq]
  omega

theorem docBefore_of_ahead {d d' : Doc} {k k' : Nat} (ahead : d.ahead k d' k') :
    docBefore (k, d) (k', d') = true ∧ docBefore (k', d') (k, d) = false := by
  rcases ahead with higher | ⟨same, earlier | ⟨deadlines, gap⟩⟩
  · simp [docBefore, higher, Nat.ne_of_gt higher, Nat.ne_of_lt higher, Nat.not_lt.2 higher.le]
  · obtain ⟨t, mine, none | ⟨t', other, before⟩⟩ := earlier
    · simp [docBefore, same, mine, none]
    · simp [docBefore, same, mine, other, Nat.ne_of_gt before, Nat.ne_of_lt before, before, before.le]
  · have decided : docBefore (k, d) (k', d') = (if seqBefore d.sequence d'.sequence then true
          else if seqBefore d'.sequence d.sequence then false else decide (k < k')) ∧
        docBefore (k', d') (k, d) = (if seqBefore d'.sequence d.sequence then true
          else if seqBefore d.sequence d'.sequence then false else decide (k' < k)) := by
      cases mine : d.deadline <;> cases other : d'.deadline <;> simp_all [docBefore]
    rw [decided.1, decided.2]
    have forth := seqBefore_iff d.sequence d'.sequence
    have back := seqBefore_iff d'.sequence d.sequence
    rcases gap with ⟨near, far⟩ | ⟨equal, slots⟩
    · have yes : seqBefore d.sequence d'.sequence = true := forth.2 ⟨near, far⟩
      have no : seqBefore d'.sequence d.sequence = false := by rw [← Bool.not_eq_true, back]; omega
      simp [yes, no]
    · have no : seqBefore d.sequence d'.sequence = false := by rw [← Bool.not_eq_true, forth]; omega
      have no' : seqBefore d'.sequence d.sequence = false := by rw [← Bool.not_eq_true, back]; omega
      simp [no, no', slots, slots.le]

/-- Comparisons made from the first candidate on end with the one that stands before every other. -/
theorem best_of_ahead {b : Nat × Doc} (l : List (Nat × Doc)) (c : Nat × Doc) (mem : b ∈ c :: l)
    (before : ∀ x ∈ c :: l, x ≠ b → docBefore b x = true ∧ docBefore x b = false) :
    l.foldl (fun b x => if docBefore x b then x else b) c = b := by
  induction l generalizing c with
  | nil => exact (List.mem_singleton.1 mem).symm
  | cons x xs ih =>
    have atC : c ≠ b → docBefore b c = true ∧ docBefore c b = false := before c List.mem_cons_self
    have atX : x ≠ b → docBefore b x = true ∧ docBefore x b = false :=
      before x (List.mem_cons_of_mem c List.mem_cons_self)
    have either : (if docBefore x c then x else c) = x ∨ (if docBefore x c then x else c) = c := by
      split <;> simp
    have wins : b = c ∨ b = x → (if docBefore x c then x else c) = b := by
      rintro (rfl | rfl)
      · by_cases same : x = b
        · subst same; exact ite_self _
        · rw [(atX same).2]; rfl
      · by_cases same : c = b
        · subst same; exact ite_self _
        · rw [(atC same).1]; rfl
    rw [List.foldl_cons]
    refine ih _ ?_ fun y among other => ?_
    · rcases List.mem_cons.1 mem with first | rest
      · rw [wins (.inl first)]; exact List.mem_cons_self
      · rcases List.mem_cons.1 rest with second | later
        · rw [wins (.inr second)]; exact List.mem_cons_self
        · exact List.mem_cons_of_mem _ later
    · rcases List.mem_cons.1 among with first | later
      · rcases either with isX | isC
        · exact before y (by rw [first, isX]; simp) other
        · exact before y (by rw [first, isC]; simp) other
      · exact before y (by simp [later]) other

/-- The dispatcher takes the first document of the order that has an eligible destination, and of it the first (R55, R56). -/
theorem choose_eq {s : State} {slot i : Nat} (small : slot < 64) (considered : s.dispatchable (s.docs.docs.get slot) = true)
    (found : s.firstEligible 0 (s.docs.docs.get slot).dests = some i)
    (order : ∀ k q y, k < 64 → k ≠ slot → s.dispatchable (s.docs.docs.get k) = true → q ∈ (s.docs.docs.get k).dests →
      s.dest q = some y → y.isEligible s.now = true → (s.docs.docs.get slot).ahead slot (s.docs.docs.get k) k) :
    s.choose = some (slot, i) := by
  have mem : (slot, s.docs.docs.get slot) ∈ ((List.range 64).map fun k => (k, s.docs.docs.get k)).filter fun c =>
      s.dispatchable c.2 && (s.firstEligible 0 c.2.dests).isSome := by
    simp [small, considered, found]
  have before : ∀ x ∈ ((List.range 64).map fun k => (k, s.docs.docs.get k)).filter fun c =>
      s.dispatchable c.2 && (s.firstEligible 0 c.2.dests).isSome, x ≠ (slot, s.docs.docs.get slot) →
      docBefore (slot, s.docs.docs.get slot) x = true ∧ docBefore x (slot, s.docs.docs.get slot) = false := by
    intro x among other
    simp only [List.mem_filter, List.mem_map, List.mem_range, Bool.and_eq_true] at among
    obtain ⟨⟨k, below, rfl⟩, considered', some⟩ := among
    obtain ⟨q, listed, y, record, eligible⟩ := firstEligible_some _ 0 some
    exact docBefore_of_ahead (order k q y below (fun same => other (by rw [same])) considered' listed record eligible)
  unfold State.choose
  dsimp only
  generalize ((List.range 64).map fun k => (k, s.docs.docs.get k)).filter _ = candidates at mem before
  cases candidates with
  | nil => cases mem
  | cons c cs =>
    dsimp only
    rw [best_of_ahead cs c mem before, found]
    rfl

/-! ### A pass (R53) -/

theorem passLine_taken {s : State} {l : LineNo} (busy : s.freeForOutbound l = false) : passLine s l = s := by
  simp [passLine, busy]

/-- A hand-off to one line makes no other line free. -/
theorem freeForOutbound_handedOff {s t : State} {k l : LineNo} (other : k ≠ l) (others : ∀ j, j ≠ l → t.line j = s.line j)
    (state : (t.line l).state = (s.line l).state) (held : (t.line l).attempt.isSome) (log : t.log = s.log)
    (cfg : t.cfg = s.cfg) (busy : s.freeForOutbound k = false) : t.freeForOutbound k = false := by
  have states (j : LineNo) : (t.line j).state = (s.line j).state := by
    by_cases mine : j = l
    · rw [mine, state]
    · rw [others j mine]
  have calls : t.callsInProgress = s.callsInProgress :=
    congrArg List.length (List.filter_congr fun j _ => by rw [states j])
  have able : t.ableOthers k ≤ s.ableOthers k := by
    refine List.Sublist.length_le (List.monotone_filter_right allLines fun j free => ?_)
    by_cases mine : j = l
    · have none := ((Line.ableToAnswer_iff _).1 (Bool.and_eq_true_iff.1 free).2).2.1
      rw [mine] at none
      rw [none] at held
      cases held
    · rwa [others j mine] at free
  rw [← Bool.not_eq_true, freeForOutbound_iff] at busy ⊢
  rintro ⟨idle, attempt, direction, room, reserve⟩
  rw [others k other] at idle attempt direction
  exact busy ⟨idle, attempt, direction, by rw [← calls, ← log]; exact room, by rw [← cfg]; omega⟩

/-- With one line free before its turn and none after it the pass is that line's turn. -/
theorem dispatcherPass_one {s : State} (l : LineNo)
    (before : ∀ k, k ≠ l → State.freeForOutbound { s with docs := { s.docs with passAsked := false } } k = false)
    (after : ∀ k, k ≠ l →
      (passLine { s with docs := { s.docs with passAsked := false } } l).freeForOutbound k = false) :
    dispatcherPass s = passLine { s with docs := { s.docs with passAsked := false } } l := by
  unfold dispatcherPass allLines
  simp only [List.foldl]
  generalize ({ s with docs := { s.docs with passAsked := false } } : State) = u at before after
  obtain rfl | rfl | rfl | rfl : l = 0 ∨ l = 1 ∨ l = 2 ∨ l = 3 := by fin_cases l <;> decide
  · rw [passLine_taken (after 1 (by decide)), passLine_taken (after 2 (by decide)), passLine_taken (after 3 (by decide))]
  · rw [passLine_taken (before 0 (by decide)), passLine_taken (after 2 (by decide)), passLine_taken (after 3 (by decide))]
  · rw [passLine_taken (before 0 (by decide)), passLine_taken (before 1 (by decide)), passLine_taken (after 3 (by decide))]
  · rw [passLine_taken (before 0 (by decide)), passLine_taken (before 1 (by decide)), passLine_taken (before 2 (by decide))]

/-- Settles O32. -/
theorem dispatcherHandsOff : Obligations.DispatcherHandsOff := by
  intro s on
  have pass : exec .dispatcherPass s = .next (if s.docs.passAsked then dispatcherPass s else s) := exec_event on rfl
  refine ⟨fun l => ?_, dispatchable_iff s, fun x => isEligible_iff x s.now, fun unasked => ?_, fun asked busy => ?_, ?_⟩
  · rw [freeForOutbound_iff, callsInProgress_eq, ableOthers_eq]
  · rw [pass, unasked]; rfl
  · rw [pass, asked]
    have taken (k : LineNo) : passLine { s with docs := { s.docs with passAsked := false } } k =
        { s with docs := { s.docs with passAsked := false } } := passLine_taken (busy k)
    simp only [if_true, dispatcherPass, allLines, List.foldl, taken]
  · intro l slot i r x asked free others small considered listed record eligible first order d
    let u : State := { s with docs := { s.docs with passAsked := false } }
    have found : u.firstEligible 0 d.dests = some i := by
      simpa using firstEligible_eq (s := u) d.dests 0 i r x listed record eligible first
    have chosen : u.choose = some (slot, i) := choose_eq (s := u) small considered found order
    have turn : passLine u l = { s.setLine l { s.line l with
        attempt := some { doc := ⟨slot, d.issue⟩, index := i, dial := x.dial, desk := d.desk, priority := d.priority,
                          firstPage := x.confirmed, expanded := false },
        expander := .reset, charged := [] } with
        docs := { s.docs with
          pool := s.docs.pool.set r (some { x with state := .onLine, lastLine := some l }),
          docs := s.docs.docs.set slot { d with state := if d.state = .queued then .active else d.state },
          passAsked := false } } := by
      have isFree : u.freeForOutbound l = true := free
      have recordU : u.dest r = some x := record
      have listedU : (u.docs.docs.get slot).dests[i]? = some r := listed
      rw [passLine, if_pos isFree, chosen]
      simp only [handOff, listedU, recordU]
      rfl
    rw [pass, asked, if_pos rfl, dispatcherPass_one l others fun k other => ?_]
    · rw [turn]
    · show (passLine u l).freeForOutbound k = false
      rw [turn]
      refine freeForOutbound_handedOff (s := s) (l := l) other (fun j mine => s.line_setLine_ne _ mine) ?_ ?_ rfl rfl
        (others k other)
      · show ((s.setLine l _).line l).state = _
        rw [State.line_setLine_self]
      · show ((s.setLine l _).line l).attempt.isSome = true
        rw [State.line_setLine_self]
        rfl

end Sys2Proof.Machine
end

section
/-! PROOFS. Line frames: carried in either bit order, and refused with one octet changed (R95, R103, R104, R217). -/

namespace Sys2Proof.Machine

/-! ### The CRC tells one changed octet (R95) -/

/-- A step of the register is linear in the register and the bit. -/
theorem crcBit_xor (c d : Word16) (a b : Bool) : crcBit (c ^^^ d) (a ^^ b) = crcBit c a ^^^ crcBit d b := by
  have msb : (c ^^^ d).msb = (c.msb ^^ d.msb) := BitVec.msb_xor ..
  have shift : (c ^^^ d) <<< 1 = (c <<< 1) ^^^ (d <<< 1) := BitVec.shiftLeft_xor_distrib ..
  have cancel (x y p : Word16) : x ^^^ y = x ^^^ p ^^^ (y ^^^ p) := by
    rw [BitVec.xor_comm y p, BitVec.xor_assoc, ← BitVec.xor_assoc p p y, BitVec.xor_self, BitVec.zero_xor]
  unfold crcBit
  rw [msb, shift]
  generalize c <<< 1 = x
  generalize d <<< 1 = y
  have one (x y p : Word16) : x ^^^ y ^^^ p = x ^^^ p ^^^ y := by rw [BitVec.xor_assoc, BitVec.xor_comm y, BitVec.xor_assoc]
  have bit : ((c.msb ^^ d.msb) ^^ (a ^^ b)) = ((c.msb ^^ a) ^^ (d.msb ^^ b)) := by
    cases c.msb <;> cases d.msb <;> cases a <;> cases b <;> rfl
  rw [bit]
  generalize (c.msb ^^ a) = p
  generalize (d.msb ^^ b) = q
  cases p <;> cases q
  · rfl
  · exact BitVec.xor_assoc x y _
  · exact one x y _
  · exact cancel x y _

theorem crcOctet_xor (c d : Word16) (o p : Byte) : crcOctet (c ^^^ d) (o ^^^ p) = crcOctet c o ^^^ crcOctet d p := by
  simp only [crcOctet, BitVec.getLsbD_xor, crcBit_xor]

/-- No register but 0 becomes 0 by a bit 0: the bit shifted out comes back at the low end. -/
theorem crcBit_eq_zero {c : Word16} (zero : crcBit c false = 0) : c = 0 := by
  have low : (c <<< 1).getLsbD 0 = false := by simp
  unfold crcBit at zero
  rw [Bool.xor_false] at zero
  cases out : c.msb with
  | true =>
    rw [out, if_pos rfl] at zero
    have bit := congrArg (fun x : Word16 => x.getLsbD 0) zero
    simp at bit
  | false =>
    rw [out, if_neg nofun] at zero
    have value := congrArg BitVec.toNat zero
    rw [BitVec.toNat_shiftLeft, Nat.shiftLeft_eq] at value
    have small : c.toNat < 32768 := by simpa [BitVec.msb_eq_decide] using out
    refine BitVec.eq_of_toNat_eq ?_
    simp at value ⊢
    omega

theorem crcOctet_zero_bit {c : Word16} (zero : crcOctet c 0 = 0) : c = 0 := by
  have none (i : Nat) : (0 : Byte).getLsbD i = false := by simp
  unfold crcOctet at zero
  simp only [none] at zero
  iterate 8 replace zero := crcBit_eq_zero zero
  exact zero

/-- From register 0 no octet but 0 leads back to 0. -/
theorem crcBits_eq_zero : ∀ b₇ b₆ b₅ b₄ b₃ b₂ b₁ b₀ : Bool,
    crcBit (crcBit (crcBit (crcBit (crcBit (crcBit (crcBit (crcBit 0 b₇) b₆) b₅) b₄) b₃) b₂) b₁) b₀ = 0 →
      (b₀ || b₁ || b₂ || b₃ || b₄ || b₅ || b₆ || b₇) = false := by decide

theorem crcOctet_eq_zero {o : Byte} (zero : crcOctet 0 o = 0) : o = 0 := by
  have bits := crcBits_eq_zero _ _ _ _ _ _ _ _ zero
  simp only [Bool.or_eq_false_iff] at bits
  obtain ⟨⟨⟨⟨⟨⟨⟨b₀, b₁⟩, b₂⟩, b₃⟩, b₄⟩, b₅⟩, b₆⟩, b₇⟩ := bits
  refine BitVec.eq_of_getLsbD_eq fun i small => ?_
  interval_cases i <;> simpa

theorem crcOctet_inj {c d : Word16} {o : Byte} (same : crcOctet c o = crcOctet d o) : c = d := by
  have diff : crcOctet (c ^^^ d) (o ^^^ o) = 0 := by rw [crcOctet_xor, same]; exact BitVec.xor_self
  rw [BitVec.xor_self] at diff
  exact BitVec.xor_eq_zero_iff.1 (crcOctet_zero_bit diff)

theorem crcOctet_octet_inj {c : Word16} {o p : Byte} (same : crcOctet c o = crcOctet c p) : o = p := by
  have diff : crcOctet (c ^^^ c) (o ^^^ p) = 0 := by rw [crcOctet_xor, same]; exact BitVec.xor_self
  rw [BitVec.xor_self] at diff
  exact BitVec.xor_eq_zero_iff.1 (crcOctet_eq_zero diff)

theorem crcFold_inj (octets : List Byte) {c d : Word16} (same : octets.foldl crcOctet c = octets.foldl crcOctet d) :
    c = d := by
  induction octets generalizing c d with
  | nil => exact same
  | cons o os ih => exact crcOctet_inj (ih same)

/-- One changed octet changes the CRC. -/
theorem crcFold_set (octets : List Byte) (c : Word16) (i : Nat) (v : Byte) (inside : i < octets.length)
    (same : (octets.set i v).foldl crcOctet c = octets.foldl crcOctet c) : octets[i]? = some v := by
  induction octets generalizing c i with
  | nil => cases inside
  | cons o os ih =>
    cases i with
    | zero => simpa using (crcOctet_octet_inj (crcFold_inj os same)).symm
    | succ i => simpa using ih (crcOctet c o) i (by simpa using inside) same

theorem crcOctets_inj {xs ys : List Byte} (same : crcOctets xs = crcOctets ys) : crc16 xs = crc16 ys := by
  simp only [crcOctets, List.cons.injEq, and_true] at same
  obtain ⟨high, low⟩ := same
  have halves (c : Word16) : c.extractLsb' 8 8 ++ c.extractLsb' 0 8 = c := by
    refine BitVec.eq_of_getLsbD_eq fun i small => ?_
    rw [BitVec.getLsbD_append]
    split
    · rename_i below
      simp [below]
    · rename_i above
      simp only [BitVec.getLsbD_extractLsb']
      rw [show 8 + (i - 8) = i by omega]
      simp; omega
  rw [← halves (crc16 xs), ← halves (crc16 ys), high, low]

/-! ### Frames as stored (R103, R217) -/

/-- A frame that reads carries the CRC of its header and data. -/
theorem readLineFrame_checked {octets : List Byte} (reads : (readLineFrame octets).isSome) :
    2 ≤ octets.length ∧ crcOctets (octets.take (octets.length - 2)) = octets.drop (octets.length - 2) := by
  unfold readLineFrame at reads
  split at reads
  · rename_i sequence block frame cls rest
    dsimp only at reads
    by_cases check : crcOctets ([sequence, block, frame, cls] ++ rest.take (rest.length - 2)) = rest.drop (rest.length - 2)
    · have two : 2 ≤ rest.length := by
        have size := congrArg List.length check
        rw [List.length_drop] at size
        have : (crcOctets ([sequence, block, frame, cls] ++ rest.take (rest.length - 2))).length = 2 := rfl
        omega
      refine ⟨by simp only [List.length_cons]; omega, ?_⟩
      have count : (sequence :: block :: frame :: cls :: rest).length - 2 = (rest.length - 2) + 4 := by
        simp only [List.length_cons]; omega
      rw [count]
      exact check
    · rw [if_pos (by simpa using check)] at reads
      cases reads
  · cases reads

theorem readLineFrame_set {octets : List Byte} {i : Nat} {v : Byte} (reads : (readLineFrame octets).isSome)
    (inside : i < octets.length) (changed : octets[i]? ≠ some v) : readLineFrame (octets.set i v) = none := by
  by_contra still
  obtain ⟨two, check⟩ := readLineFrame_checked reads
  obtain ⟨-, check'⟩ := readLineFrame_checked (Option.ne_none_iff_isSome.1 still)
  rw [List.length_set] at check'
  by_cases covered : i < octets.length - 2
  · have front : (octets.set i v).take (octets.length - 2) = (octets.take (octets.length - 2)).set i v :=
      List.take_set ..
    have back : (octets.set i v).drop (octets.length - 2) = octets.drop (octets.length - 2) := by
      rw [List.drop_set, if_pos covered]
    rw [front, back, ← check] at check'
    have same := crcFold_set (octets.take (octets.length - 2)) 0xFFFF#16 i v (by rw [List.length_take]; omega)
      (crcOctets_inj check')
    rw [List.getElem?_take, if_pos covered] at same
    exact changed same
  · have front : (octets.set i v).take (octets.length - 2) = octets.take (octets.length - 2) := by
      rw [List.take_set, List.set_eq_of_length_le (by rw [List.length_take]; omega)]
    rw [front, check] at check'
    have at_i := congrArg (fun l : List Byte => l[i - (octets.length - 2)]?) check'
    simp only [List.getElem?_drop] at at_i
    rw [show octets.length - 2 + (i - (octets.length - 2)) = i by omega, List.getElem?_set_self inside] at at_i
    exact changed at_i

theorem classOctet_some {p : Nat} (small : p < 4) : (classOctet (some p)).toNat = 128 + p := by
  obtain rfl | rfl | rfl | rfl : p = 0 ∨ p = 1 ∨ p = 2 ∨ p = 3 := by omega
  all_goals rfl

theorem readLineFrame_pageFrame {sequence block frame : Nat} {part : Option Nat} {data : List Byte}
    (seq_small : sequence < 256) (block_small : block < 256) (frame_small : frame < 64)
    (size : part = none ∧ data.length = 256 ∨ ∃ p, p < 4 ∧ part = some p ∧ data.length = 64) :
    readLineFrame (pageFrame sequence block frame part data) = some ⟨sequence, block, frame, part, data⟩ := by
  have body : pageFrame sequence block frame part data = oct sequence :: oct block :: oct frame :: classOctet part ::
      (data ++ crcOctets ([oct sequence, oct block, oct frame, classOctet part] ++ data)) := rfl
  generalize crc : crcOctets ([oct sequence, oct block, oct frame, classOctet part] ++ data) = check at body
  have two : check.length = 2 := by rw [← crc]; rfl
  have count : (data ++ check).length - 2 = data.length := by rw [List.length_append, two, Nat.add_sub_cancel]
  have frame_no : (oct frame).toNat = frame := oct_toNat (by omega)
  rw [body]
  simp only [readLineFrame, count, List.take_left, List.drop_left, crc, bne_self_eq_false, Bool.false_eq_true, if_false,
    frame_no, oct_toNat seq_small, oct_toNat block_small, if_neg (by omega : ¬frame > 63)]
  rcases size with ⟨rfl, whole⟩ | ⟨p, small, rfl, quarter⟩
  · simp [classOctet, whole]
  · have value := classOctet_some small
    have chopped : ¬classOctet (some p) = 0x00 := fun zero => by rw [zero] at value; simp at value; omega
    rw [if_neg chopped, value, if_pos quarter]
    simp; omega

theorem flagBit_getLsbD {k i : Nat} (b : Bool) (small : k < 8) : (flagBit k b).getLsbD i = (b && decide (i = k)) := by
  cases b with
  | false => simp [flagBit]
  | true =>
    by_cases same : i = k
    · subst same; simp [flagBit, small]
    · simp [flagBit, same]; omega

theorem reverseOctet_getLsbD {o : Byte} {i : Nat} (small : i < 8) : (reverseOctet o).getLsbD i = o.getLsbD (7 - i) := by
  unfold reverseOctet
  simp only [BitVec.getLsbD_or, flagBit_getLsbD _ (by decide : (0 : Nat) < 8), flagBit_getLsbD _ (by decide : 1 < 8),
    flagBit_getLsbD _ (by decide : 2 < 8), flagBit_getLsbD _ (by decide : 3 < 8), flagBit_getLsbD _ (by decide : 4 < 8),
    flagBit_getLsbD _ (by decide : 5 < 8), flagBit_getLsbD _ (by decide : 6 < 8), flagBit_getLsbD _ (by decide : 7 < 8)]
  interval_cases i <;> simp

theorem reverseOctet_reverseOctet (o : Byte) : reverseOctet (reverseOctet o) = o := by
  refine BitVec.eq_of_getLsbD_eq fun i small => ?_
  rw [reverseOctet_getLsbD small, reverseOctet_getLsbD (by omega), show 7 - (7 - i) = i by omega]

theorem inLineOrder_inLineOrder (order : Option BitOrder) (octets : List Byte) :
    inLineOrder order (inLineOrder order octets) = octets := by
  unfold inLineOrder
  split
  · rw [List.map_map]
    conv_rhs => rw [← List.map_id octets]
    exact List.map_congr_left fun o _ => reverseOctet_reverseOctet o
  · rfl

/-- Settles O45. -/
theorem framesCarriedOrRefused : Obligations.FramesCarriedOrRefused :=
  ⟨fun order sequence block frame part data seq_small block_small frame_small size => by
    rw [inLineOrder_inLineOrder]
    exact readLineFrame_pageFrame seq_small block_small frame_small size,
    fun octets i v reads inside changed => readLineFrame_set reads inside changed⟩

end Sys2Proof.Machine
end

section
/-! PROOFS. The strikes of a head line (R144). -/

namespace Sys2Proof.Machine

/-- The groups of head blocks that the strikes are formed of, `g` being the one begun. -/
def formGroups (limit : Nat) (g : List Nat) : List Nat → List (List Nat)
  | [] => [g]
  | b :: bs => if g.sum + b ≤ limit then formGroups limit (g ++ [b]) bs else g :: formGroups limit [b] bs

theorem formStrikes_eq (limit : Nat) (blocks g : List Nat) :
    formStrikes limit g.sum blocks = (formGroups limit g blocks).map List.sum := by
  induction blocks generalizing g with
  | nil => rfl
  | cons b bs ih =>
    unfold formStrikes formGroups
    split
    · rw [← ih (g ++ [b]), List.sum_append, List.sum_singleton]
    · rw [List.map_cons, ← ih [b], List.sum_singleton]

theorem formGroups_flatten (limit : Nat) (blocks g : List Nat) : (formGroups limit g blocks).flatten = g ++ blocks := by
  induction blocks generalizing g with
  | nil => simp [formGroups]
  | cons b bs ih =>
    unfold formGroups
    split
    · rw [ih, List.append_assoc]; rfl
    · rw [List.flatten_cons, ih]; rfl

theorem formGroups_ne_nil (limit : Nat) (blocks : List Nat) {g : List Nat} (begun : g ≠ []) :
    ∀ x ∈ formGroups limit g blocks, x ≠ [] := by
  induction blocks generalizing g with
  | nil => intro x mem; rw [List.mem_singleton.1 mem]; exact begun
  | cons b bs ih =>
    intro x mem
    unfold formGroups at mem
    split at mem
    · exact ih (by simp) x mem
    · rcases List.mem_cons.1 mem with rfl | later
      · exact begun
      · exact ih (by simp) x later

theorem formGroups_within {limit : Nat} {blocks g : List Nat} (fits : ∀ b ∈ blocks, b ≤ limit) (begun : g.sum ≤ limit) :
    ∀ x ∈ formGroups limit g blocks, x.sum ≤ limit := by
  induction blocks generalizing g with
  | nil => intro x mem; rw [List.mem_singleton.1 mem]; exact begun
  | cons b bs ih =>
    have later : ∀ c ∈ bs, c ≤ limit := fun c mem => fits c (List.mem_cons_of_mem b mem)
    intro x mem
    unfold formGroups at mem
    split at mem
    · rename_i joins
      exact ih later (by simpa using joins) x mem
    · rcases List.mem_cons.1 mem with rfl | rest
      · exact begun
      · exact ih later (by simpa using fits b List.mem_cons_self) x rest

/-- The first group begins with the one begun. -/
theorem formGroups_head (limit : Nat) (blocks : List Nat) (b : Nat) (g : List Nat) :
    ∃ x rest, formGroups limit (b :: g) blocks = x :: rest ∧ x.headD 0 = b := by
  induction blocks generalizing g with
  | nil => exact ⟨_, _, rfl, rfl⟩
  | cons c cs ih =>
    unfold formGroups
    split
    · exact ih (g ++ [c])
    · exact ⟨_, _, rfl, rfl⟩

/-- A block that begins the next strike did not fit the one before. -/
theorem formGroups_greedy (limit : Nat) (blocks g : List Nat) : ∀ i x y,
    (formGroups limit g blocks)[i]? = some x → (formGroups limit g blocks)[i + 1]? = some y →
      limit < x.sum + y.headD 0 := by
  induction blocks generalizing g with
  | nil => intro i x y _ next; simp [formGroups] at next
  | cons b bs ih =>
    unfold formGroups
    split
    · exact ih (g ++ [b])
    · rename_i full
      intro i x y here next
      cases i with
      | zero =>
        obtain ⟨z, rest, first, head⟩ := formGroups_head limit bs b []
        rw [first] at next
        obtain rfl : g = x := by simpa using here
        obtain rfl : z = y := by simpa using next
        rw [head]
        omega
      | succ i => exact ih [b] i x y (by simpa using here) (by simpa using next)

theorem headBlocks_le (dots : DotLine) : ∀ b ∈ headBlocks dots, b ≤ 216 := by
  intro b mem
  obtain ⟨k, -, rfl⟩ := List.mem_map.1 mem
  exact List.count_le_length.trans (by rw [List.length_take]; omega)

theorem sum_blocks (dots : DotLine) (n : Nat) :
    ((List.range n).map fun h => ((dots.drop (216 * h)).take 216).count true).sum = (dots.take (216 * n)).count true := by
  induction n with
  | zero => rfl
  | succ n ih =>
    rw [List.range_succ, List.map_append, List.sum_append, ih, Nat.mul_succ, List.take_add, List.count_append]
    simp

theorem sum_filter_pos (l : List Nat) : (l.filter fun n => n != 0).sum = l.sum := by
  induction l with
  | nil => rfl
  | cons n ns ih => by_cases zero : n = 0 <;> simp [zero, ih]

/-- Settles O52. -/
theorem strikesWithinLimit : Obligations.StrikesWithinLimit := by
  intro limit dots least most whole
  obtain ⟨b, bs, blocks⟩ : ∃ b bs, headBlocks dots = b :: bs := ⟨_, _, rfl⟩
  have fits : ∀ c ∈ b :: bs, c ≤ limit := fun c mem => (headBlocks_le dots c (blocks ▸ mem)).trans least
  have first : b ≤ limit := fits b List.mem_cons_self
  have groups : formStrikes limit 0 (headBlocks dots) = (formGroups limit [b] bs).map List.sum := by
    rw [blocks, ← formStrikes_eq, formStrikes, if_pos (by omega), List.sum_singleton, Nat.zero_add]
  have flat : (formGroups limit [b] bs).flatten = headBlocks dots := by rw [formGroups_flatten, blocks]; rfl
  refine ⟨fun n fired => ?_, ?_, formGroups limit [b] bs, flat, formGroups_ne_nil limit bs (by simp), ?_,
    formGroups_greedy limit bs [b]⟩
  · rw [strikes, groups, List.mem_filter] at fired
    obtain ⟨⟨g, mem, rfl⟩, some⟩ := And.imp_left List.mem_map.1 fired
    refine ⟨Nat.pos_of_ne_zero (by simpa using some), ?_⟩
    exact formGroups_within (fun c mem => fits c (List.mem_cons_of_mem b mem)) (by simpa using first) g mem
  · rw [strikes, sum_filter_pos, groups, ← List.sum_flatten, flat]
    have all := sum_blocks dots 8
    rw [List.take_of_length_le (by omega)] at all
    exact all
  · rw [strikes, groups]
    refine List.filter_congr fun n _ => ?_
    cases n <;> rfl

end Sys2Proof.Machine
end

section
/-! PROOFS. The page code: what every token gives, and the lines coded that come out of the decoder again (R32 to R34,
R141). -/

namespace Sys2Proof.Machine

/-! ### Tokens (R141) -/

theorem Engine.eat_zero (e : Engine) : e.eat 0 = e := rfl

/-- The dots of the line begun, and the colour of its next run. -/
def Engine.begunDots (e : Engine) : DotLine := (e.decoder.line.getD ([], false)).1
def Engine.begunColour (e : Engine) : Bool := (e.decoder.line.getD ([], false)).2

theorem padWhite_eq (dots : DotLine) : padWhite dots = dots ++ List.replicate (1728 - dots.length) false := rfl

theorem undefinedToken_eq (e : Engine) :
    undefinedToken e = completeLine (e.begunDots ++ List.replicate (1728 - e.begunDots.length) false) 1 true e := by
  unfold undefinedToken Engine.begunDots
  cases e.decoder.line <;> rfl

theorem controlToken_begun {act : Engine → Engine} {e : Engine} (begun : e.decoder.line.isSome = true) :
    controlToken act e = completeLine (e.begunDots ++ List.replicate (1728 - e.begunDots.length) false) 1 true e := by
  unfold controlToken Engine.begunDots
  cases line : e.decoder.line with
  | none => rw [line] at begun; cases begun
  | some x => rfl

theorem controlToken_between {act : Engine → Engine} {e : Engine} (between : e.decoder.line = none) :
    controlToken act e = act e := by
  unfold controlToken; rw [between]

theorem runToken_short {n : Nat} {e : Engine} (short : e.begunDots.length + n < 1728) :
    runToken n e = { e with decoder := { e.decoder with
      line := some (e.begunDots ++ List.replicate n e.begunColour, !e.begunColour) } } := by
  unfold runToken
  unfold Engine.begunDots Engine.begunColour at *
  generalize e.decoder.line.getD ([], false) = begun at *
  obtain ⟨dots, colour⟩ := begun
  dsimp only at short ⊢
  rw [if_neg (by unfold lineDots; omega), if_neg (by unfold lineDots; omega)]

theorem runToken_whole {n : Nat} {e : Engine} (whole : e.begunDots.length + n = 1728) :
    runToken n e = completeLine (e.begunDots ++ List.replicate n e.begunColour) 1 false e := by
  unfold runToken
  unfold Engine.begunDots Engine.begunColour at *
  generalize e.decoder.line.getD ([], false) = begun at *
  obtain ⟨dots, colour⟩ := begun
  dsimp only at whole ⊢
  rw [if_neg (by unfold lineDots; omega), if_pos (show dots.length + n = lineDots from whole)]

theorem runToken_cut {n : Nat} {e : Engine} (past : 1728 < e.begunDots.length + n) :
    runToken n e = completeLine (e.begunDots ++ List.replicate (1728 - e.begunDots.length) e.begunColour) 1 true e := by
  unfold runToken
  unfold Engine.begunDots Engine.begunColour at *
  generalize e.decoder.line.getD ([], false) = begun at *
  obtain ⟨dots, colour⟩ := begun
  exact if_pos past

/-- A run token of one octet, or of two. -/
theorem oneToken_run {byteLen k len : Nat} {e : Engine}
    (run : (1 ≤ byteLen - e.decoder.decoded ∧ k = 1 ∧ ∃ o rest, e.decoder.stream = o :: rest ∧ o < 0x80 ∧ len = o.toNat) ∨
      (2 ≤ byteLen - e.decoder.decoded ∧ k = 2 ∧ ∃ o p rest, e.decoder.stream = o :: p :: rest ∧ 0x80 ≤ o ∧ o < 0xC0 ∧
        len = (o.toNat - 128) * 256 + p.toNat)) : oneToken byteLen e = some (runToken len (e.eat k)) := by
  rcases run with ⟨left, rfl, o, rest, code, low, rfl⟩ | ⟨left, rfl, o, p, rest, code, low, high, rfl⟩
  · have value : o.toNat < 0x80 := low
    simp only [oneToken, code, if_neg (by omega : byteLen - e.decoder.decoded ≠ 0), if_pos value]
  · have least : 0x80 ≤ o.toNat := low
    have most : o.toNat < 0xC0 := high
    simp only [oneToken, code, if_neg (by omega : byteLen - e.decoder.decoded ≠ 0), if_neg (by omega : ¬o.toNat < 0x80),
      if_pos most, if_neg (by omega : byteLen - e.decoder.decoded ≠ 1)]

theorem oneToken_undefined {byteLen k : Nat} {e : Engine}
    (undefined : (1 ≤ byteLen - e.decoder.decoded ∧ k = 1 ∧
        ∃ o rest, e.decoder.stream = o :: rest ∧ (o = 0xC0 ∨ 0xC4 ≤ o ∧ o ≤ 0xCE ∨ 0xD0 ≤ o)) ∨
      (2 ≤ byteLen - e.decoder.decoded ∧ k = 2 ∧ ∃ rest, e.decoder.stream = 0xC2 :: 0 :: rest) ∨
      (byteLen - e.decoder.decoded = 1 ∧ k = 1 ∧
        ∃ o rest, e.decoder.stream = o :: rest ∧ (o = 0xC2 ∨ 0x80 ≤ o ∧ o < 0xC0))) :
    oneToken byteLen e = some (undefinedToken (e.eat k)) := by
  rcases undefined with ⟨left, rfl, o, rest, code, which⟩ | ⟨left, rfl, rest, code⟩ | ⟨left, rfl, o, rest, code, which⟩
  · have value : o.toNat = 0xC0 ∨ 0xC4 ≤ o.toNat ∧ o.toNat ≤ 0xCE ∨ 0xD0 ≤ o.toNat :=
      which.imp (fun same => by rw [same]; rfl) id
    simp only [oneToken, code, if_neg (by omega : byteLen - e.decoder.decoded ≠ 0), if_neg (by omega : ¬o.toNat < 0x80),
      if_neg (by omega : ¬o.toNat < 0xC0), if_neg (by omega : o.toNat ≠ 0xC1), if_neg (by omega : o.toNat ≠ 0xC2),
      if_neg (by omega : o.toNat ≠ 0xC3), if_neg (by omega : o.toNat ≠ 0xCF)]
  · simp only [oneToken, code, if_neg (by omega : byteLen - e.decoder.decoded ≠ 0),
      if_neg (by omega : byteLen - e.decoder.decoded ≠ 1)]
    rfl
  · have value : o.toNat = 0xC2 ∨ 0x80 ≤ o.toNat ∧ o.toNat < 0xC0 := which.imp (fun same => by rw [same]; rfl) id
    rcases value with c2 | ⟨least, most⟩
    · simp only [oneToken, code, left, Nat.one_ne_zero, if_false, c2, if_true]
      rfl
    · simp only [oneToken, code, left, Nat.one_ne_zero, if_false, if_neg (by omega : ¬o.toNat < 0x80), if_pos most, if_true]

theorem oneToken_ends {byteLen k : Nat} {e : Engine} (ends : byteLen - e.decoder.decoded = 0 ∧ k = 0 ∨
      1 ≤ byteLen - e.decoder.decoded ∧ k = 1 ∧ ∃ rest, e.decoder.stream = 0xCF :: rest) :
    oneToken byteLen e = some (controlToken (fun e => endToken (e.eat k)) e) := by
  rcases ends with ⟨left, rfl⟩ | ⟨left, rfl, rest, code⟩
  · exact if_pos left
  · simp only [oneToken, code, if_neg (by omega : byteLen - e.decoder.decoded ≠ 0)]
    rfl

theorem oneToken_repeats {byteLen k n : Nat} {e : Engine} (repeats :
      (1 ≤ byteLen - e.decoder.decoded ∧ k = 1 ∧ n = 1 ∧ ∃ rest, e.decoder.stream = 0xC1 :: rest) ∨
      (2 ≤ byteLen - e.decoder.decoded ∧ k = 2 ∧ ∃ p rest, e.decoder.stream = 0xC2 :: p :: rest ∧ p ≠ 0 ∧ n = p.toNat)) :
    1 ≤ n ∧ oneToken byteLen e = some (controlToken (fun e => repeatToken n (e.eat k)) e) := by
  rcases repeats with ⟨left, rfl, rfl, rest, code⟩ | ⟨left, rfl, p, rest, code, some, rfl⟩
  · refine ⟨Nat.le_refl 1, ?_⟩
    simp only [oneToken, code, if_neg (by omega : byteLen - e.decoder.decoded ≠ 0)]
    rfl
  · have pos : p.toNat ≠ 0 := fun zero => some (BitVec.eq_of_toNat_eq zero)
    refine ⟨Nat.pos_of_ne_zero pos, ?_⟩
    simp only [oneToken, code, if_neg (by omega : byteLen - e.decoder.decoded ≠ 0),
      if_neg (by omega : byteLen - e.decoder.decoded ≠ 1), if_neg pos]
    rfl

theorem oneToken_allWhite {byteLen : Nat} {e : Engine} (left : 1 ≤ byteLen - e.decoder.decoded)
    (code : ∃ rest, e.decoder.stream = 0xC3 :: rest) :
    oneToken byteLen e = some (controlToken (fun e => completeLine whiteLine 1 false (e.eat 1)) e) := by
  obtain ⟨rest, code⟩ := code
  simp only [oneToken, code, if_neg (by omega : byteLen - e.decoder.decoded ≠ 0)]
  rfl

/-! ### The lines coded come out again (R34, R141) -/

/-- From `e` to `e'` the decoder gives the lines. -/
def Decodes (byteLen : Nat) (e : Engine) (lines : List DotLine) (e' : Engine) : Prop :=
  ∃ n, ∀ fuel, decodeLines byteLen (fuel + n) e =
    (lines ++ (decodeLines byteLen fuel e').1, (decodeLines byteLen fuel e').2)

theorem Decodes.refl (byteLen : Nat) (e : Engine) : Decodes byteLen e [] e := ⟨0, fun _ => rfl⟩

theorem Decodes.trans {byteLen : Nat} {e e' e'' : Engine} {xs ys : List DotLine} (first : Decodes byteLen e xs e')
    (second : Decodes byteLen e' ys e'') : Decodes byteLen e (xs ++ ys) e'' := by
  obtain ⟨n, first⟩ := first
  obtain ⟨m, second⟩ := second
  refine ⟨m + n, fun fuel => ?_⟩
  rw [← Nat.add_assoc, first, second, List.append_assoc]

theorem Decodes.token {byteLen : Nat} {e e' : Engine} (goes : e.decoder.ended = false) (free : e.decoder.owed = none)
    (token : oneToken byteLen e = some e') : Decodes byteLen e [] e' :=
  ⟨1, fun fuel => decodeLines_token goes free token fuel⟩

/-- The decoder stands between lines: `rest` of the code ahead, `taken` octets of it taken, `count` lines given, no fault
counted. -/
structure Between (e : Engine) (rest : List Byte) (taken : Nat) (last : Option DotLine) (count : Nat) : Prop where
  stream : e.decoder.stream = rest
  decoded : e.decoder.decoded = taken
  line : e.decoder.line = none
  previous : e.decoder.previous = last
  lines : e.decoder.lines = count
  owed : e.decoder.owed = none
  ended : e.decoder.ended = decide (count = 6912)
  damaged : e.damaged = 0

/-- A token that completes a sound line, `n` times. -/
theorem Decodes.complete {byteLen n : Nat} {e : Engine} {dots : DotLine} {code rest : List Byte}
    (owed : e.decoder.owed = none) (goes : e.decoder.ended = false) (sound : e.damaged = 0)
    (stream : e.decoder.stream = code ++ rest) (given : 1 ≤ n) (room : e.decoder.lines + n ≤ 6912)
    (token : oneToken byteLen e = some (completeLine dots n false (e.eat code.length))) :
    ∃ e', Decodes byteLen e (List.replicate n dots) e' ∧
      Between e' rest (e.decoder.decoded + code.length) (some dots) (e.decoder.lines + n) := by
  obtain ⟨e', decoder, damaged, gives⟩ := decodeLines_complete given goes owed (by omega) token
  have times : min n (6912 - e.decoder.lines) = n := by omega
  rw [times] at decoder damaged gives
  exact ⟨e', ⟨n + 1, fun fuel => gives fuel⟩,
    { stream := by rw [decoder, stream]; exact List.drop_left ..
      decoded := by rw [decoder]
      line := by rw [decoder]
      previous := by rw [decoder]
      lines := by rw [decoder]
      owed := by rw [decoder]; exact owed
      ended := by rw [decoder]
      damaged := by rw [damaged]; exact sound }⟩

/-- Code that gives the lines `ls`, the last of them `dots`, from between lines with `last` the line before. -/
def Gives (code : List Byte) (last : Option DotLine) (ls : List DotLine) (dots : DotLine) : Prop :=
  ∀ (byteLen k m : Nat) (rest : List Byte) (e : Engine), Between e (code ++ rest) k last m → m + ls.length ≤ 6912 →
    k + code.length ≤ byteLen →
    ∃ e', Decodes byteLen e ls e' ∧ Between e' rest (k + code.length) (some dots) (m + ls.length)

theorem gives_allWhite (last : Option DotLine) : Gives [0xC3] last [whiteLine] whiteLine := by
  intro byteLen k m rest e between room left
  obtain ⟨stream, rfl, line, -, rfl, owed, ended, damaged⟩ := between
  have token := oneToken_allWhite (byteLen := byteLen) (e := e) (by simp at left; omega) ⟨rest, stream⟩
  rw [controlToken_between line] at token
  exact Decodes.complete owed (by rw [ended]; simp at room ⊢; omega) damaged stream (Nat.le_refl 1) room token

theorem gives_repeats (dots : DotLine) {n : Nat} (given : 1 ≤ n) (most : n ≤ 255) :
    Gives (repeatCode n) (some dots) (List.replicate n dots) dots := by
  intro byteLen k m rest e between room left
  obtain ⟨stream, rfl, line, previous, rfl, owed, ended, damaged⟩ := between
  have goes : e.decoder.ended = false := by
    rw [ended]; simp at room ⊢; omega
  have token : oneToken byteLen e = some (controlToken (fun e => repeatToken n (e.eat (repeatCode n).length)) e) := by
    unfold repeatCode at stream left ⊢
    rw [if_neg (by omega)] at stream left ⊢
    by_cases one : n = 1
    · rw [if_pos one] at stream left ⊢
      refine (oneToken_repeats (.inl ⟨?_, rfl, one, rest, stream⟩)).2
      simp at left; omega
    · rw [if_neg one] at stream left ⊢
      refine (oneToken_repeats (.inr ⟨?_, rfl, oct n, rest, stream, ?_, (oct_toNat (by omega)).symm⟩)).2
      · simp at left; omega
      · intro zero
        have := congrArg BitVec.toNat zero
        rw [oct_toNat (by omega)] at this
        simp at this
        omega
  rw [controlToken_between line, repeatToken, show (e.eat (repeatCode n).length).decoder.previous = some dots from previous]
    at token
  rw [List.length_replicate] at room ⊢
  exact Decodes.complete owed goes damaged stream given room token

theorem oneToken_runOctets {byteLen n : Nat} {e : Engine} {rest : List Byte} (small : n ≤ 1728)
    (stream : e.decoder.stream = runOctets n ++ rest) (left : e.decoder.decoded + (runOctets n).length ≤ byteLen) :
    oneToken byteLen e = some (runToken n (e.eat (runOctets n).length)) := by
  unfold runOctets at stream left ⊢
  by_cases short : n < 128
  · rw [if_pos short] at stream left ⊢
    have value : (oct n).toNat = n := oct_toNat (by omega)
    refine oneToken_run (.inl ⟨?_, rfl, oct n, rest, stream, ?_, value.symm⟩)
    · simp at left; omega
    · show (oct n).toNat < 0x80
      omega
  · rw [if_neg short] at stream left ⊢
    have high : (oct (0x80 + n / 256)).toNat = 0x80 + n / 256 := oct_toNat (by omega)
    have low : (oct (n % 256)).toNat = n % 256 := oct_toNat (by omega)
    refine oneToken_run (.inr ⟨?_, rfl, _, _, rest, stream, ?_, ?_, ?_⟩)
    · simp at left; omega
    · show 0x80 ≤ (oct (0x80 + n / 256)).toNat
      omega
    · show (oct (0x80 + n / 256)).toNat < 0xC0
      omega
    · omega

/-- The runs of the rest of a line complete it. -/
theorem decodes_runs (byteLen : Nat) (dots : DotLine) : ∀ (colour : Bool) (n : Nat) (e : Engine) (rest : List Byte),
    e.begunColour = colour → e.begunDots.length + n + dots.length = 1728 →
    e.decoder.stream = (runsFrom colour n dots).flatMap runOctets ++ rest → e.decoder.owed = none →
    e.decoder.ended = false → e.damaged = 0 → e.decoder.lines < 6912 →
    e.decoder.decoded + ((runsFrom colour n dots).flatMap runOctets).length ≤ byteLen →
    ∃ e', Decodes byteLen e [e.begunDots ++ List.replicate n colour ++ dots] e' ∧
      Between e' rest (e.decoder.decoded + ((runsFrom colour n dots).flatMap runOctets).length)
        (some (e.begunDots ++ List.replicate n colour ++ dots)) (e.decoder.lines + 1) := by
  induction dots with
  | nil =>
    intro colour n e rest next size stream owed goes sound room left
    simp only [runsFrom, List.flatMap_cons, List.flatMap_nil, List.append_nil, List.length_nil] at size stream left ⊢
    have token := oneToken_runOctets (byteLen := byteLen) (by omega) stream left
    rw [runToken_whole (by exact size), show (e.eat (runOctets n).length).begunColour = colour from next] at token
    exact Decodes.complete owed goes sound stream (Nat.le_refl 1) room token
  | cons d ds ih =>
    intro colour n e rest next size stream owed goes sound room left
    rw [List.length_cons] at size
    by_cases same : d = colour
    · have one : runsFrom colour n (d :: ds) = runsFrom colour (n + 1) ds := by rw [runsFrom, if_pos same]
      have line : e.begunDots ++ List.replicate n colour ++ d :: ds =
          e.begunDots ++ List.replicate (n + 1) colour ++ ds := by
        rw [same, List.replicate_succ', List.append_assoc, List.append_assoc, List.append_assoc]; rfl
      rw [one] at stream left ⊢
      rw [line]
      exact ih colour (n + 1) e rest next (by omega) stream owed goes sound room left
    · have more : runsFrom colour n (d :: ds) = n :: runsFrom d 1 ds := by rw [runsFrom, if_neg same]
      rw [more, List.flatMap_cons] at stream left ⊢
      rw [List.append_assoc] at stream
      rw [List.length_append] at left ⊢
      have token := oneToken_runOctets (byteLen := byteLen) (by omega) stream (by omega)
      have begins : (e.eat (runOctets n).length).begunColour = colour := next
      rw [runToken_short (by show e.begunDots.length + n < 1728; omega), begins] at token
      have other : (!colour) = d := by cases colour <;> cases d <;> simp_all
      let e₁ : Engine := { (e.eat (runOctets n).length) with decoder :=
        { (e.eat (runOctets n).length).decoder with line := some (e.begunDots ++ List.replicate n colour, !colour) } }
      have begun : e₁.begunDots = e.begunDots ++ List.replicate n colour := rfl
      have ahead : e₁.decoder.stream = (runsFrom d 1 ds).flatMap runOctets ++ rest := by
        show e.decoder.stream.drop (runOctets n).length = _
        rw [stream]
        exact List.drop_left ..
      have taken : e₁.decoder.decoded = e.decoder.decoded + (runOctets n).length := rfl
      obtain ⟨e', goesOn, between⟩ := ih d 1 e₁ rest other
        (by rw [begun, List.length_append, List.length_replicate]; omega) ahead owed goes sound room (by rw [taken]; omega)
      have line : e.begunDots ++ List.replicate n colour ++ List.replicate 1 d ++ ds =
          e.begunDots ++ List.replicate n colour ++ d :: ds := by simp
      rw [begun, line] at goesOn between
      rw [taken] at between
      refine ⟨e', (Decodes.token goes owed token).trans goesOn, ?_⟩
      rw [← Nat.add_assoc]
      exact between

theorem gives_runs {dots : DotLine} (whole : dots.length = 1728) (last : Option DotLine) :
    Gives (runsCode dots) last [dots] dots := by
  intro byteLen k m rest e between room left
  obtain ⟨stream, rfl, line, -, rfl, owed, ended, damaged⟩ := between
  have empty : e.begunDots = [] ∧ e.begunColour = false := by simp [Engine.begunDots, Engine.begunColour, line]
  have runs := decodes_runs byteLen dots false 0 e rest empty.2 (by rw [empty.1]; simpa using whole) stream owed
    (by rw [ended]; simp at room ⊢; omega) damaged (by simp at room; omega) left
  rw [empty.1] at runs
  exact runs

/-- Code from the page's start that gives the lines `ls` and leaves `last` as the line before. -/
def Codes (code : List Byte) (ls : List DotLine) (last : Option DotLine) : Prop :=
  ∀ (byteLen : Nat) (rest : List Byte) (e : Engine), Between e (code ++ rest) 0 none 0 → ls.length ≤ 6912 →
    code.length ≤ byteLen → ∃ e', Decodes byteLen e ls e' ∧ Between e' rest code.length last ls.length

theorem Codes.nil : Codes [] [] none := fun byteLen _ e between _ _ => ⟨e, Decodes.refl byteLen e, between⟩

theorem Codes.append {code more : List Byte} {ls ms : List DotLine} {last : Option DotLine} {dots : DotLine}
    (first : Codes code ls last) (second : Gives more last ms dots) : Codes (code ++ more) (ls ++ ms) (some dots) := by
  intro byteLen rest e between room left
  rw [List.append_assoc] at between
  rw [List.length_append] at room left ⊢
  obtain ⟨e', decodes, between'⟩ := first byteLen (more ++ rest) e between (by omega) (by omega)
  obtain ⟨e'', decodes', between''⟩ := second byteLen _ _ rest e' between' (by omega) (by omega)
  refine ⟨e'', decodes.trans decodes', ?_⟩
  rw [List.length_append]
  exact between''

/-- The coder holds the lines: some of them as code, and the pending repeat of the last (R34). -/
def Holds (u : Scan) (ls : List DotLine) : Prop :=
  u.repeats ≤ 255 ∧ ∃ head, Codes u.backlog head u.previous ∧ (u.repeats = 0 → ls = head) ∧
    (u.repeats ≠ 0 → ∃ dots, u.previous = some dots ∧ ls = head ++ List.replicate u.repeats dots)

theorem emit_backlog (code : List Byte) (n : Nat) (u : Scan) : (emit code n u).backlog = u.backlog ++ code := by
  unfold emit
  split
  · rename_i empty; rw [empty, List.append_nil]
  · rfl

theorem emit_keeps (code : List Byte) (n : Nat) (u : Scan) :
    (emit code n u).repeats = u.repeats ∧ (emit code n u).previous = u.previous := by
  unfold emit; split <;> exact ⟨rfl, rfl⟩

/-- The pending repeat written, all the lines are code. -/
theorem Holds.flush {u : Scan} {ls : List DotLine} (holds : Holds u ls) :
    Codes (flushRepeat u).backlog ls (flushRepeat u).previous := by
  obtain ⟨most, head, codes, settled, pending⟩ := holds
  have backlog : (flushRepeat u).backlog = u.backlog ++ repeatCode u.repeats := emit_backlog ..
  have previous : (flushRepeat u).previous = u.previous := (emit_keeps ..).2
  rw [backlog, previous]
  by_cases none : u.repeats = 0
  · rw [none, settled none, repeatCode, if_pos rfl, List.append_nil]
    exact codes
  · obtain ⟨dots, last, rfl⟩ := pending none
    rw [last] at codes ⊢
    exact codes.append (gives_repeats dots (Nat.pos_of_ne_zero none) most)

theorem allWhite_eq {dots : DotLine} (whole : dots.length = 1728) (white : dots.all (! ·) = true) : dots = whiteLine :=
  List.eq_replicate_iff.2 ⟨whole, fun d mem => by simpa using List.all_eq_true.1 white d mem⟩

/-- A line coded joins those held (R34). -/
theorem Holds.codeLine {u : Scan} {ls : List DotLine} {dots : DotLine} (holds : Holds u ls) (whole : dots.length = 1728) :
    Holds (codeLine dots u) (ls ++ [dots]) := by
  have flushed : (flushRepeat u).repeats = 0 := rfl
  have coded (code : List Byte) (gives : ∀ last, Gives code last [dots] dots) :
      Holds { emit code 1 (flushRepeat u) with lineWaits := true, previous := some dots } (ls ++ [dots]) := by
    have settled : (emit code 1 (flushRepeat u)).repeats = 0 := (emit_keeps ..).1.trans flushed
    refine ⟨by show (emit code 1 (flushRepeat u)).repeats ≤ 255; omega, ls ++ [dots], ?_, fun _ => rfl,
      fun pending => absurd settled pending⟩
    show Codes (emit code 1 (flushRepeat u)).backlog (ls ++ [dots]) (some dots)
    rw [emit_backlog]
    exact holds.flush.append (gives _)
  by_cases white : dots.all (! ·) = true
  · have same : Machine.codeLine dots u =
        { emit [0xC3] 1 (flushRepeat u) with lineWaits := true, previous := some dots } := by
      unfold Machine.codeLine; rw [if_pos white]
    rw [same]
    refine coded [0xC3] fun last => ?_
    rw [allWhite_eq whole white]
    exact gives_allWhite last
  by_cases again : u.previous = some dots
  · obtain ⟨most, head, codes, settled, pending⟩ := holds
    have held : ls = head ++ List.replicate u.repeats dots := by
      by_cases none : u.repeats = 0
      · rw [none, settled none]; simp
      · obtain ⟨dots', last, eq⟩ := pending none
        rw [again] at last
        rw [Option.some.inj last, eq]
    by_cases room : u.repeats < 255
    · have same : Machine.codeLine dots u =
          { u with repeats := u.repeats + 1, coded := satAdd 6912 u.coded 1, previous := some dots } := by
        unfold Machine.codeLine; rw [if_neg white, if_pos again, if_pos room]
      rw [same]
      refine ⟨room, head, again ▸ codes, nofun, fun _ => ⟨dots, rfl, ?_⟩⟩
      rw [held, List.replicate_succ', List.append_assoc]
    · have full : u.repeats = 255 := by omega
      have same : Machine.codeLine dots u =
          { emit [0xC2, 0xFF] 255 u with repeats := 1, lineWaits := true, previous := some dots } := by
        unfold Machine.codeLine; rw [if_neg white, if_pos again, if_neg room]
      rw [same]
      refine ⟨show 1 ≤ 255 by decide, head ++ List.replicate 255 dots, ?_, nofun, fun _ => ⟨dots, rfl, ?_⟩⟩
      · show Codes (emit [0xC2, 0xFF] 255 u).backlog _ (some dots)
        rw [emit_backlog]
        rw [again] at codes
        exact codes.append (gives_repeats dots (n := 255) (by decide) (by decide))
      · rw [held, full]; rfl
  · have same : Machine.codeLine dots u =
        { emit (runsCode dots) 1 (flushRepeat u) with lineWaits := true, previous := some dots } := by
      unfold Machine.codeLine; rw [if_neg white, if_neg again]
    rw [same]
    exact coded _ (gives_runs whole)

theorem holds_codeLines (lines : List DotLine) (whole : ∀ l ∈ lines, l.length = 1728) :
    Holds (lines.foldl (fun u dots => codeLine dots u) Scan.reset) lines := by
  induction lines using List.reverseRecOn with
  | nil => exact ⟨by decide, [], Codes.nil, fun _ => rfl, fun pending => absurd rfl pending⟩
  | append_singleton ls dots ih =>
    rw [List.foldl_append]
    exact (ih fun l mem => whole l (by simp [mem])).codeLine (whole dots (by simp))

/-- Past the last octet nothing more comes. -/
theorem decodeLines_spent {byteLen count : Nat} {e : Engine} {last : Option DotLine}
    (between : Between e [] byteLen last count) (fuel : Nat) : decodeLines byteLen fuel e = ([], 0) := by
  obtain ⟨-, decoded, line, -, -, owed, -, damaged⟩ := between
  have stopped (e : Engine) (ended : e.decoder.ended = true) (sound : e.damaged = 0) (fuel : Nat) :
      decodeLines byteLen fuel e = ([], 0) := by
    cases fuel with
    | zero => simp [decodeLines, sound]
    | succ n => simp [decodeLines, ended, sound]
  cases fuel with
  | zero => simp [decodeLines, damaged]
  | succ n =>
    cases ended : e.decoder.ended with
    | true => exact stopped e ended damaged _
    | false =>
      have token := oneToken_ends (byteLen := byteLen) (k := 0) (e := e) (.inl ⟨by omega, rfl⟩)
      rw [controlToken_between line] at token
      rw [decodeLines_token ended owed token]
      exact stopped (endToken (e.eat 0)) rfl damaged n

/-- Settles O25. -/
theorem pageCodeRoundTrip : Obligations.PageCodeRoundTrip := by
  constructor
  · intro lines whole few
    have codes : Codes (codeLines lines) lines _ := (holds_codeLines lines whole).flush
    obtain ⟨e', ⟨n, decodes⟩, between⟩ := codes (codeLines lines).length []
      { Engine.reset with decoder := { Decoder.reset with stream := codeLines lines } }
      ⟨(List.append_nil _).symm, rfl, rfl, rfl, rfl, rfl, rfl, rfl⟩ few le_rfl
    refine ⟨n, fun more => ?_⟩
    rw [Nat.add_comm, decodes, decodeLines_spent between, List.append_nil]
  · intro byteLen k e goes owed room left code begun b c white run ends repeats allWhite undefined gives
    have given {took n : Nat} {faulty : Bool} {dots : DotLine} (some : 1 ≤ n)
        (token : oneToken byteLen e = .some (completeLine dots n faulty (e.eat took))) : gives took n faulty dots :=
      decodeLines_complete some goes owed room token
    have idle (no : ¬begun) : e.decoder.line = none := by simpa [begun] using no
    have fresh (no : ¬begun) : b = [] ∧ white = whiteLine := by simp [white, b, idle no, whiteLine, lineDots]
    refine ⟨fun len token short fuel => ?_, fun len token size => ?_, fun len token past => ?_, fun yes token => ?_,
      fun token => ?_, fun no token fuel => ?_, fun no token => ?_, fun n no token first => ?_, fun n dots no token last => ?_⟩
    · have runs := oneToken_run token
      rw [runToken_short (by exact short)] at runs
      rw [decodeLines_token goes owed runs]
      rfl
    · have runs := oneToken_run token
      rw [runToken_whole (by exact size)] at runs
      exact given le_rfl runs
    · have runs := oneToken_run token
      rw [runToken_cut (by exact past)] at runs
      exact given le_rfl runs
    · have begins : ∃ act, oneToken byteLen e = .some (controlToken act e) := by
        rcases token with token | token | ⟨n, token⟩
        · exact ⟨_, oneToken_ends token⟩
        · exact ⟨_, oneToken_allWhite token.1 token.2.2⟩
        · exact ⟨_, (oneToken_repeats token).2⟩
      obtain ⟨act, token⟩ := begins
      rw [controlToken_begun yes] at token
      exact given (took := 0) le_rfl token
    · have pads := oneToken_undefined token
      rw [undefinedToken_eq] at pads
      exact given le_rfl pads
    · have stops := oneToken_ends token
      rw [controlToken_between (idle no)] at stops
      rw [decodeLines_token goes owed stops]
      cases fuel <;> simp [decodeLines, endToken, Engine.eat]
    · obtain ⟨one, rfl, at_c3⟩ := token
      have whites := oneToken_allWhite one at_c3
      rw [controlToken_between (idle no)] at whites
      rw [(fresh no).2]
      exact given le_rfl whites
    · obtain ⟨some, token⟩ := oneToken_repeats token
      rw [controlToken_between (idle no), repeatToken, show (e.eat k).decoder.previous = none from first] at token
      rw [(fresh no).2]
      exact given some token
    · obtain ⟨some, token⟩ := oneToken_repeats token
      rw [controlToken_between (idle no), repeatToken, show (e.eat k).decoder.previous = .some dots from last] at token
      exact given some token

end Sys2Proof.Machine
end

section
/-! PROOFS. Dial strings, macros and their expansion (R73 to R78), and the play of the dial buffer (R85). -/

namespace Sys2Proof.Machine

/-! ### Expansion (R76 to R78) -/

section
variable {sym : DialSym → Expander → Expander × Option DialSub}

theorem walkList_ok {xs : List DialSym} {e e' : Expander} (walked : walkList sym xs e = (e', none)) (ys : List DialSym) :
    walkList sym (xs ++ ys) e = walkList sym ys e' := by
  induction xs generalizing e with
  | nil => cases walked; rfl
  | cons x xs ih =>
    rcases step : sym x e with ⟨e₁, _ | err⟩
    · simp only [walkList, List.cons_append, step] at walked ⊢
      exact ih walked
    · simp [walkList, step] at walked

theorem walkList_error {xs : List DialSym} {e e' : Expander} {err : DialSub} (walked : walkList sym xs e = (e', some err))
    (ys : List DialSym) : walkList sym (xs ++ ys) e = (e', some err) := by
  induction xs generalizing e with
  | nil => cases walked
  | cons x xs ih =>
    rcases step : sym x e with ⟨e₁, _ | err'⟩
    · simp only [walkList, List.cons_append, step] at walked ⊢
      exact ih walked
    · simp only [walkList, List.cons_append, step] at walked ⊢
      exact walked

end

/-- Symbols without `macroCall`s are walked alike whatever the stack's room. -/
theorem walkSym_plain {macros : Table (Option (List DialSym))} {x : DialSym} (plain : ∀ n, x ≠ .macroCall n)
    (inner inner' : Option (List DialSym → Expander → Expander × Option DialSub)) (e : Expander) :
    walkSym macros inner x e = walkSym macros inner' x e := by
  cases x with
  | macroCall n => exact absurd rfl (plain n)
  | digit | star | hash | pause | wait | chargePoint => rfl

theorem walkList_plain {macros : Table (Option (List DialSym))} {xs : List DialSym} (plain : ∀ n, .macroCall n ∉ xs)
    (inner inner' : Option (List DialSym → Expander → Expander × Option DialSub)) (e : Expander) :
    walkList (walkSym macros inner) xs e = walkList (walkSym macros inner') xs e := by
  induction xs generalizing e with
  | nil => rfl
  | cons x xs ih =>
    have head := walkSym_plain (x := x) (macros := macros) (fun n same => plain n (same ▸ List.mem_cons_self)) inner inner' e
    simp only [walkList, head, ih fun n mem => plain n (List.mem_cons_of_mem x mem)]

theorem walk_plain {macros : Table (Option (List DialSym))} {xs : List DialSym} (plain : ∀ n, .macroCall n ∉ xs)
    (room room' : Nat) (e : Expander) : walk macros room xs e = walk macros room' xs e := by
  cases room <;> cases room' <;> exact walkList_plain plain _ _ e

/-- Symbols without `macroCall`s fill the buffer with all but the charge points. -/
theorem walkList_fills {macros : Table (Option (List DialSym))}
    (inner : Option (List DialSym → Expander → Expander × Option DialSub)) {xs : List DialSym}
    (plain : ∀ n, .macroCall n ∉ xs) (e : Expander)
    (room : (e.buffer ++ xs.filter fun x => decide (x ≠ DialSym.chargePoint)).length ≤ 64) :
    ∃ charge, walkList (walkSym macros inner) xs e =
        ({ e with buffer := e.buffer ++ xs.filter fun x => decide (x ≠ DialSym.chargePoint), charge }, none) ∧
      (.chargePoint ∉ xs → charge = e.charge) := by
  induction xs generalizing e with
  | nil => exact ⟨e.charge, by simp [walkList], fun _ => rfl⟩
  | cons x xs ih =>
    have rest (e : Expander) := ih (e := e) fun n mem => plain n (List.mem_cons_of_mem x mem)
    by_cases point : x = .chargePoint
    · subst point
      have skip : (DialSym.chargePoint :: xs).filter (fun x => decide (x ≠ DialSym.chargePoint)) =
          xs.filter fun x => decide (x ≠ DialSym.chargePoint) := by simp
      rw [skip] at room ⊢
      obtain ⟨charge, walked, -⟩ := rest { e with charge := e.buffer.length } room
      exact ⟨charge, walked, fun absent => absurd List.mem_cons_self absent⟩
    · have keep : (x :: xs).filter (fun x => decide (x ≠ DialSym.chargePoint)) =
          x :: xs.filter fun x => decide (x ≠ DialSym.chargePoint) := by simp [point]
      rw [keep] at room ⊢
      have placed : walkSym macros inner x e = ({ e with buffer := e.buffer ++ [x] }, none) := by
        have short : e.buffer.length < 64 := by
          rw [List.length_append, List.length_cons] at room; omega
        cases x with
        | macroCall n => exact absurd List.mem_cons_self (plain n)
        | chargePoint => exact absurd rfl point
        | digit | star | hash | pause | wait => exact if_pos short
      obtain ⟨charge, walked, same⟩ := rest { e with buffer := e.buffer ++ [x] } (by
        rw [List.append_assoc]; exact room)
      refine ⟨charge, ?_, fun absent => same fun mem => absent (List.mem_cons_of_mem x mem)⟩
      simp only [walkList, placed, walked, List.append_assoc, List.singleton_append]

/-- A string without `macroCall`s, its charge point standing at the last of them. -/
theorem expand_plain {macros : Table (Option (List DialSym))} {pre post : List DialSym}
    (ends : pre = [] ∨ pre.getLast? = some .chargePoint) (past : .chargePoint ∉ post)
    (plain : ∀ n, .macroCall n ∉ pre ++ post)
    (room : ((pre ++ post).filter fun x => decide (x ≠ DialSym.chargePoint)).length ≤ 64) :
    walk macros 4 (pre ++ post) .reset =
      (⟨(pre ++ post).filter fun x => decide (x ≠ DialSym.chargePoint), (pre.filter fun x => decide (x ≠ DialSym.chargePoint)).length, []⟩,
        none) := by
  rw [List.filter_append, List.length_append] at room
  have plainPre : ∀ n, .macroCall n ∉ pre := fun n mem => plain n (List.mem_append_left post mem)
  have plainPost : ∀ n, .macroCall n ∉ post := fun n mem => plain n (List.mem_append_right pre mem)
  have first : walkList (walkSym macros (some (walk macros 3))) pre .reset =
      (⟨pre.filter fun x => decide (x ≠ DialSym.chargePoint), (pre.filter fun x => decide (x ≠ DialSym.chargePoint)).length, []⟩, none) := by
    rcases ends with rfl | last
    · rfl
    · obtain ⟨front, rfl⟩ := List.getLast?_eq_some_iff.1 last
      obtain ⟨charge, walked, -⟩ := walkList_fills (macros := macros) (some (walk macros 3)) (xs := front)
        (fun n mem => plainPre n (List.mem_append_left _ mem)) .reset (by
          have : (Expander.reset).buffer = [] := rfl
          rw [this, List.nil_append]
          simp only [List.filter_append, List.length_append] at room
          omega)
      rw [walkList_ok walked]
      simp [walkList, walkSym, Expander.reset]
  obtain ⟨charge, walked, same⟩ := walkList_fills (macros := macros) (some (walk macros 3)) (xs := post) plainPost
    ⟨pre.filter fun x => decide (x ≠ DialSym.chargePoint), (pre.filter fun x => decide (x ≠ DialSym.chargePoint)).length, []⟩
    (by rw [List.length_append]; exact room)
  show walkList (walkSym macros (some (walk macros 3))) (pre ++ post) .reset = _
  rw [walkList_ok first, walked, same past, List.filter_append]

/-- A `macroCall` whose body has no calls of its own is walked as its body. -/
theorem walk_macro {macros : Table (Option (List DialSym))} {pre body post : List DialSym} {n : Nat}
    (defined : macros.get n = some body) (plain : ∀ m, .macroCall m ∉ body) (e : Expander) :
    walk macros 4 (pre ++ .macroCall n :: post) e = walk macros 4 (pre ++ body ++ post) e := by
  show walkList (walkSym macros (some (walk macros 3))) _ e = walkList (walkSym macros (some (walk macros 3))) _ e
  rcases front : walkList (walkSym macros (some (walk macros 3))) pre e with ⟨e₁, _ | err⟩
  · have call : walkSym macros (some (walk macros 3)) (.macroCall n) e₁ = walk macros 4 body e₁ := by
      rw [walk_plain plain 4 3]
      simp only [walkSym, defined]
    rw [List.append_assoc, walkList_ok front, walkList_ok front]
    rcases inside : walk macros 4 body e₁ with ⟨e₂, _ | err⟩
    · rw [walkList_ok (e' := e₂) inside]
      simp only [walkList, call, inside]
    · rw [walkList_error (e' := e₂) (err := err) inside]
      simp only [walkList, call, inside]
  · rw [List.append_assoc, walkList_error front, walkList_error front]

/-! ### The outcome of an attempt leaves the lines alone (R61) -/

/-- From `s` to `t` nothing changes but the documents, the page store and the host link. -/
def DocsStoreLink (s t : State) : Prop := ∃ store link docs, t = { s with store, link, docs }

theorem DocsStoreLink.refl (s : State) : DocsStoreLink s s := ⟨s.store, s.link, s.docs, rfl⟩

theorem DocsStoreLink.trans {s t u : State} (h : DocsStoreLink s t) (g : DocsStoreLink t u) : DocsStoreLink s u := by
  obtain ⟨_, _, _, rfl⟩ := h
  obtain ⟨store, link, docs, rfl⟩ := g
  exact ⟨store, link, docs, rfl⟩

theorem raiseUnless_docsStoreLink (quiet : Bool) (kind : NoticeKind) (fields : List Byte) (s : State) :
    DocsStoreLink s (raiseUnless quiet kind fields s) := by
  unfold raiseUnless
  split
  · exact .refl s
  · obtain ⟨notices, lost, raised⟩ := raise_frame kind fields s
    exact ⟨s.store, _, s.docs, raised⟩

theorem completeTest_docsStoreLink (quiet cancelled : Bool) (slot : Nat) (s : State) :
    DocsStoreLink s (completeTest quiet cancelled slot s) := by
  unfold completeTest
  dsimp only
  split
  · split
    · obtain ⟨store, link, frame, -⟩ := endDoc_eq quiet slot (if cancelled then .cancelled else .done) s
      exact ⟨store, link, _, frame⟩
    · exact .refl s
  · exact .refl s

/-- An outcome report changes the documents, and with RELEASE_PAGES the page store and the host link. -/
theorem outcomeReport_docsStoreLink (quiet : Bool) (h : DocHandle) (index : Nat) (cause : Cause) (release : DateTime)
    (logged : Option Nat) (s : State) : DocsStoreLink s (outcomeReport quiet h index cause release logged s) := by
  have asks (t : State) (done : DocsStoreLink s t) : DocsStoreLink s (askPass t) :=
    done.trans ⟨t.store, t.link, _, rfl⟩
  unfold outcomeReport
  refine asks _ ?_
  split
  · exact .refl s
  · rename_i d _
    split
    · exact .refl s
    · rename_i r _
      split
      · exact .refl s
      · rename_i x _
        have moved (y : Dest) (st : DestState) :
            DocsStoreLink s ((s.setDest r (some y)).setDoc h.slot (d.addTally st 1)) := ⟨_, _, _, rfl⟩
        cases logged <;> dsimp only <;> split
        · exact (moved _ _).trans ((raiseUnless_docsStoreLink ..).trans (completeTest_docsStoreLink ..))
        · exact moved _ _
        · exact (moved _ _).trans ((raiseUnless_docsStoreLink ..).trans (completeTest_docsStoreLink ..))
        · exact moved _ _

/-- A line's change after a report is the report's after the line's change: they are of different parts. -/
theorem DocsStoreLink.line {s t : State} (h : DocsStoreLink s t) (l : LineNo) : t.line l = s.line l := by
  obtain ⟨_, _, _, rfl⟩ := h
  rfl

/-! ### An attempt ended before seizure (R78, R79) -/

theorem deferredDecision_none {l : LineNo} {s : State} (undeferred : (s.line l).deferred = false) : deferredDecision l s = s :=
  if_neg (by rw [undeferred]; exact nofun)

/-- An attempt that ends before seizure leaves its line alone and counts at its destination. -/
theorem endUnseized_effect {l : LineNo} {a : Attempt} {cause : Cause} {d : Doc} {r : Nat} {x : Dest} {s : State}
    (undeferred : (s.line l).deferred = false) (there : s.doc a.doc = some d) (listed : d.dests[a.index]? = some r)
    (record : s.dest r = some x) :
    (endUnseized l a cause s).line l = { s.line l with attempt := none } ∧ OtherLines l s (endUnseized l a cause s) ∧
      (endUnseized l a cause s).dest r = some (x.reported d cause s.now none s.now) ∧
      OnlyChanges [.docs, .store, .link, .lines] s (endUnseized l a cause s) := by
  obtain ⟨pool, -⟩ := outcomeReport_pool (quiet := false) (cause := cause) (release := s.now) (logged := none) there
    listed record
  unfold endUnseized
  obtain ⟨store, link, docs, reports⟩ := outcomeReport_docsStoreLink false a.doc a.index cause s.now none s
  rw [reports] at pool ⊢
  obtain ⟨notices, lost, raised⟩ := raise_frame .lineState (lineStateFields l .idle .idle s.now (some cause))
    (letGo l { s with store, link, docs })
  have line : (letGo l { s with store, link, docs }).line l = { s.line l with attempt := none } := State.line_setLine_self ..
  have told : reportUnseized l cause (letGo l { s with store, link, docs }) =
      { letGo l { s with store, link, docs } with
        link := { (letGo l { s with store, link, docs }).link with notices := notices, lost := lost } } := raised
  rw [told, deferredDecision_none (by exact (congrArg Line.deferred line).trans undeferred)]
  refine ⟨line, fun k other => State.line_setLine_ne _ _ other, ?_, ?_⟩
  · show docs.pool.get r = _
    rw [pool]
    exact Table.get_set_self ..
  · intro p other
    cases p <;> first | rfl | exact absurd (by decide) other

/-- A destination whose cause ends it early is FAILED, unless all its pages are confirmed or its document is cancelled. -/
theorem Dest.reported_early {x : Dest} {d : Doc} {cause : Cause} {release now : DateTime} (early : cause.early = true)
    (unsent : x.confirmed ≠ d.pages.length) (goesOn : d.cancelReq = false) :
    x.reported d cause release none now =
      { x with attempts := x.attempts + 1, state := .failed, lastCause := some cause } := by
  have state (y : Dest) (confirmed : y.confirmed = x.confirmed) : outcomeState d y cause now = .failed := by
    rw [outcomeState_eq, if_neg (confirmed ▸ unsent), goesOn, early]
    rfl
  unfold Dest.reported
  dsimp only
  rw [state _ (by rfl)]
  rfl

/-! ### MACRO-SET and a hand-off's expansion (R75, R76, R78) -/

/-- Settles O36. -/
theorem dialStringsExpanded : Obligations.DialStringsExpanded := by
  refine ⟨?_, ?_, ?_, ?_, ?_⟩
  · intro macros pre post ends past plain buffer e room digits
    have walked : walk macros 4 (pre ++ post) .reset = (e, none) := expand_plain ends past plain room
    unfold expand
    rw [walked]
    exact if_neg (Nat.not_lt.2 digits)
  · intro macros pre body post n defined plain
    unfold expand
    rw [walk_macro defined plain]
  · intro macros post n
    refine ⟨fun unset => ?_, fun rest own => ?_⟩
    · simp [expand, walk, walkList, walkSym, unset]
    · simp [expand, walk, walkList, walkSym, own]
  · intro tag n syms s s₁ allowed few
    refine ⟨fun taken small => ?_, fun taken small => ?_, fun taken large => ?_⟩
    · have body : [n, 1] ++ eSyms syms = n :: 1 :: oct syms.length :: syms.flatMap symOctets := rfl
      have read := readSyms_symOctets allowed []
      rw [List.append_nil] at read
      have count : (oct syms.length).toNat = syms.length := oct_toNat (by omega)
      rw [body] at taken ⊢
      refine exec_answers rfl taken ?_
      simp only [macroSet, count, read, if_neg (by omega : ¬31 < n.toNat), if_neg (by omega : ¬40 < syms.length),
        allSome_some, setMacro]
      rfl
    · refine exec_answers rfl taken ?_
      simp only [macroSet, if_true, setMacro, if_neg (by omega : ¬31 < n.toNat)]
      rfl
    · refine exec_refuses rfl taken ?_
      simp only [macroSet, if_true, setMacro, if_pos large]
  · intro l a e s on quiet idle attempt fresh
    have row : exec (.dialExpansion l) s = .next (scanRetry (dialExpansion l s)) :=
      exec_event (i := .dialExpansion l) (act := fun s => scanRetry (dialExpansion l s)) on rfl
    have due : ¬((s.line l).state ≠ .idle ∨ a.expanded = true) := by simp [idle, fresh]
    refine ⟨fun expands => ?_, fun sub d r x fails undeferred there listed record unsent goesOn => ?_⟩
    · have done : dialExpansion l s = s.setLine l { s.line l with
          expander := e, charged := chargedDigits e, attempt := some { a with expanded := true } } := by
        simp only [dialExpansion, attempt, if_neg due, expands, State.modLine_eq]
      rw [row, done, scanRetry_eq (by exact quiet)]
    · have ends : dialExpansion l s = endUnseized l a (.dialError sub)
          (s.setLine l { s.line l with expander := e, charged := [] }) := by
        simp only [dialExpansion, attempt, if_neg due, fails, State.modLine_eq]
      have mine : (s.setLine l { s.line l with expander := e, charged := [] }).line l =
          { s.line l with expander := e, charged := [] } := s.line_setLine_self l _
      obtain ⟨line, others, dest, only⟩ := endUnseized_effect (cause := .dialError sub)
        (s := s.setLine l { s.line l with expander := e, charged := [] }) (by rw [mine]; exact undeferred) there listed record
      rw [Dest.reported_early rfl unsent goesOn] at dest
      rw [mine] at line
      have still : (endUnseized l a (.dialError sub) (s.setLine l { s.line l with expander := e, charged := [] })).scan =
          s.scan := only .scan (by decide)
      refine ⟨_, row, ?_⟩
      rw [ends, scanRetry_eq (by rw [still]; exact quiet)]
      exact ⟨line, fun k other => (others k other).trans (s.line_setLine_ne _ other), dest, only .log (by decide)⟩

end Sys2Proof.Machine
end

section
/-! PROOFS. A line's call state and the play of its dial buffer (R82, R85). -/

namespace Sys2Proof.Machine

/-! ### A change of call state, and the symbol at the position -/

theorem changeState_setLine (l : LineNo) (new : CallState) (cause : Option Cause) (s : State) (x : Line) :
    changeState l new cause (s.setLine l x) = if x.state = new then s.setLine l x
      else raise .lineState (lineStateFields l x.state new s.now cause) (s.setLine l { x with state := new }) := by
  unfold changeState
  simp only [State.modLine_eq, State.line_setLine_self, State.setLine_setLine]
  rfl

/-- From a W on, the waits that follow one another are counted to the first symbol that is none. -/
theorem takeWhile_waits {b : List DialSym} {pos n : Nat} (waits : ∀ k < n, b[pos + k]? = some .wait)
    (ends : b[pos + n]? ≠ some .wait) : ((b.drop pos).takeWhile fun y => decide (y = .wait)).length = n := by
  induction n generalizing pos with
  | zero =>
    cases h : b.drop pos with
    | nil => rfl
    | cons y ys =>
      have first : b[pos]? = some y := by rw [← List.head?_drop, h]; rfl
      have other : y ≠ .wait := fun e => ends (first.trans (congrArg some e))
      simp [other]
  | succ n ih =>
    have first : b[pos]? = some .wait := waits 0 (by omega)
    obtain ⟨inside, here⟩ := List.getElem?_eq_some_iff.1 first
    rw [List.drop_eq_getElem_cons inside, here, List.takeWhile_cons_of_pos (by decide), List.length_cons,
      ih (pos := pos + 1) (fun k hk => by rw [← waits (k + 1) (by omega)]; congr 1; omega)
        (fun e => ends (by rw [← e]; congr 1; omega))]

/-- A line with dial tone present plays on at the first symbol from its position that is no W. -/
theorem Line.skipWaits_to {x : Line} {p : Nat} (tone : x.dialTone = true) (ahead : x.playPos ≤ p)
    (waits : ∀ k, x.playPos ≤ k → k < p → x.expander.buffer[k]? = some .wait) (ends : x.expander.buffer[p]? ≠ some .wait) :
    x.skipWaits = { x with playPos := p } := by
  obtain ⟨n, rfl⟩ := Nat.exists_eq_add_of_le ahead
  unfold Line.skipWaits
  rw [if_pos tone, takeWhile_waits (fun k hk => waits _ (by omega) (by omega)) ends]

/-- The symbol that begins, and the call state that it brings. -/
theorem beginSymbol_eq {l : LineNo} {s : State} {x : Line} {p : Nat} (skip : x.skipWaits = { x with playPos := p }) :
    beginSymbol l (s.setLine l x) = if (x.atSymbol p).state = x.state then s.setLine l (x.atSymbol p)
      else raise .lineState (lineStateFields l x.state (x.atSymbol p).state s.now none) (s.setLine l (x.atSymbol p)) := by
  have begun : (s.setLine l x).modLine l Line.skipWaits = s.setLine l { x with playPos := p } := by
    rw [State.modLine_eq, State.line_setLine_self, State.setLine_setLine, skip]
  have here : ((s.setLine l { x with playPos := p }).line l).symbol = x.expander.buffer[p]? := by
    rw [State.line_setLine_self]
    rfl
  have into (new : CallState) (y : Line) (same : y.state = x.state) : changeState l new none (s.setLine l y) =
      if new = x.state then s.setLine l { y with state := new }
      else raise .lineState (lineStateFields l x.state new s.now none) (s.setLine l { y with state := new }) := by
    rw [changeState_setLine, same]
    by_cases already : x.state = new
    · rw [if_pos already, if_pos already.symm]
      exact congrArg (s.setLine l) (by cases y; cases same.trans already; rfl)
    · rw [if_neg already, if_neg (Ne.symm already)]
  unfold beginSymbol
  rw [begun]
  dsimp only
  rw [here]
  unfold Line.atSymbol
  cases x.expander.buffer[p]? with
  | none => exact into .alerting _ rfl
  | some y =>
    rw [State.modLine_eq, State.line_setLine_self, State.setLine_setLine]
    cases y with
    | pause | wait => exact (if_pos rfl).symm
    | digit _ | star | hash | chargePoint | macroCall _ => exact into .dialling _ rfl

/-- Settles O38: the end of a symbol and the dial tone each go on to the next symbol that is no W at dial tone. -/
theorem dialBufferPlayed : Obligations.DialBufferPlayed := by
  intro i l s on x
  have symbolEnd (h : i = .dialSymbolEnd l) : exec i s = .next (dialSymbolEnd l s) := exec_event on (by rw [h]; rfl)
  have toneReport (h : i = .dialToneReport l) : exec i s = .next (dialToneReport l s) := exec_event on (by rw [h]; rfl)
  have playing (h : x.state = .seized ∨ x.state = .dialling) : x.state.playing = true := by
    obtain h | h := h <;> rw [h] <;> rfl
  refine ⟨fun tone p plays which ahead waits ends => ?_, fun row plays none => ?_, fun row wait => ?_,
    fun row seized dialling => ?_⟩
  · have fields : [oct l.val, x.state.code, ({ x with dialTone := tone }.atSymbol p).state.code] ++ eTime s.now ++ [0] =
        lineStateFields l x.state ({ x with dialTone := tone }.atSymbol p).state s.now none := rfl
    dsimp only
    rw [fields]
    obtain ⟨row, kept, y, other, here⟩ | ⟨row, tone_eq, here⟩ := which
    · subst kept
      have symbol : x.symbol = some y := here
      have goes : (x.state.playing && x.symbol.isSome && !decide (x.symbol = some .wait)) = true := by
        simp [playing plays, symbol, other]
      have skip : Line.skipWaits { x with playPos := x.playPos + 1 } = { x with playPos := p } := by
        by_cases tone : x.dialTone = true
        · exact Line.skipWaits_to (x := { x with playPos := x.playPos + 1 }) tone ahead
            (fun k h₁ h₂ => (waits k h₁ h₂).2) (ends tone)
        · have last : p = x.playPos + 1 := by
            by_contra more
            exact tone (waits (x.playPos + 1) (by omega) (by omega)).1
          rw [last]
          exact Line.skipWaits_silent (Bool.eq_false_iff.2 tone)
      rw [symbolEnd row]
      show Host.Outcome.next (if x.state.playing && x.symbol.isSome && !(x.symbol = some .wait) then nextSymbol l s else s) = _
      rw [if_pos goes]
      exact congrArg _ (beginSymbol_eq skip)
    · subst tone_eq
      have symbol : x.symbol = some .wait := here
      have skip : Line.skipWaits { x with dialTone := true } = { x with dialTone := true, playPos := p } :=
        Line.skipWaits_to (x := { x with dialTone := true }) rfl (Nat.le_of_lt ahead) (fun k h₁ h₂ => by
          obtain same | later := Nat.eq_or_lt_of_le h₁
          · exact same ▸ here
          · exact (waits k later h₂).2) (ends rfl)
      rw [toneReport row]
      show Host.Outcome.next (if x.state.playing then
        if x.symbol = some .wait then beginSymbol l (s.modLine l fun x => { x with dialTone := true })
        else s.modLine l fun x => { x with dialTone := true } else s) = _
      rw [if_pos (playing plays), if_pos symbol]
      exact congrArg _ (beginSymbol_eq skip)
  · have symbol : x.symbol ≠ some .wait := none
    rw [toneReport row]
    exact congrArg _ ((if_pos (playing plays)).trans (if_neg symbol))
  · have symbol : x.symbol = some .wait := wait
    rw [symbolEnd row]
    exact congrArg _ (if_neg (by show ¬(_ && !decide (x.symbol = some .wait)) = true; simp [symbol]))
  · have silent : x.state.playing = false := by
      cases h : x.state <;> first | rfl | exact absurd h seized | exact absurd h dialling
    obtain row | row := row
    · rw [symbolEnd row]
      exact congrArg _ (if_neg (by show ¬(x.state.playing && _ && _) = true; simp [silent]))
    · rw [toneReport row]
      exact congrArg _ (if_neg (by show ¬x.state.playing = true; simp [silent]))

end Sys2Proof.Machine
end

section
/-! PROOFS. Rings, the answer decision and rest (R80 to R82, R88 to R92). -/

namespace Sys2Proof.Machine

/-! ### A line's change of call state, framed -/

/-- A change of call state sets the state of its line and touches only the host link besides. -/
theorem changeState_frame (l : LineNo) (new : CallState) (cause : Option Cause) (s : State) :
    ∃ notices lost, changeState l new cause s =
      { s.setLine l { s.line l with state := new } with link := { s.link with notices, lost } } := by
  unfold changeState
  by_cases already : (s.line l).state = new
  · refine ⟨s.link.notices, s.link.lost, ?_⟩
    have same : s.setLine l { s.line l with state := new } = s := by rw [← already]; exact s.setLine_line l
    rw [same]
    exact if_pos already
  · obtain ⟨notices, lost, raised⟩ := raise_frame .lineState (lineStateFields l (s.line l).state new s.now cause)
      (s.setLine l { s.line l with state := new })
    exact ⟨notices, lost, (if_neg already).trans raised⟩

theorem changeState_line (l : LineNo) (new : CallState) (cause : Option Cause) (s : State) :
    (changeState l new cause s).line l = { s.line l with state := new } := by
  obtain ⟨_, _, changed⟩ := changeState_frame l new cause s
  rw [changed]
  exact s.line_setLine_self l _

theorem changeState_others (l : LineNo) (new : CallState) (cause : Option Cause) (s : State) :
    OtherLines l s (changeState l new cause s) := by
  obtain ⟨_, _, changed⟩ := changeState_frame l new cause s
  rw [changed]
  exact fun k other => s.line_setLine_ne _ other

theorem changeState_only (l : LineNo) (new : CallState) (cause : Option Cause) (s : State) :
    OnlyChanges [.lines, .link] s (changeState l new cause s) := by
  obtain ⟨_, _, changed⟩ := changeState_frame l new cause s
  rw [changed]
  intro p other
  cases p <;> first | rfl | exact absurd (by decide) other

theorem OtherLines.trans {l : LineNo} {s t u : State} (h : OtherLines l s t) (g : OtherLines l t u) : OtherLines l s u :=
  fun k other => (g k other).trans (h k other)

theorem setLine_others (l : LineNo) (x : Line) (s : State) : OtherLines l s (s.setLine l x) :=
  fun _ other => s.line_setLine_ne x other

theorem setLine_only (l : LineNo) (x : Line) (s : State) : OnlyChanges [.lines] s (s.setLine l x) := by
  intro p other
  cases p <;> first | rfl | exact absurd (by decide) other

theorem askPass_only (s : State) : OnlyChanges [.docs] s (askPass s) := by
  intro p other
  cases p <;> first | rfl | exact absurd (by decide) other

theorem raise_others (l : LineNo) (kind : NoticeKind) (fields : List Byte) (s : State) :
    OtherLines l s (raise kind fields s) := fun k _ => raise_line kind fields s k

/-! ### The answer (R90) -/

/-- A line that has answered, with the record of its incoming call, its burst over. -/
def Line.answered (x : Line) (h : Option InHandle) (t : DateTime) : Line :=
  { x with
    call := some { out := none, inbound := h, charged := [], zone := none, reserved := true, start := t, connect := none,
                   release := none, cause := none, pages := 0, flags := .none },
    ringCount := 0, burst := false, refused := false, deferred := false, proc := .reset, send := .reset, recv := .reset }

/-- Reception opens its document in the lowest FREE slot, where there is one. -/
theorem openInbound_effect (l : LineNo) (t : DateTime) (s : State) :
    ∃ h notices lost recept, openInbound l t s = ({ s with recept, link := { s.link with notices, lost } }, h) ∧
      ∀ slot, slot < 32 → (s.recept.docs.get slot).state = .free → (∀ k, k < slot → (s.recept.docs.get k).state ≠ .free) →
        h = some ⟨slot, (s.recept.docs.get slot).issue⟩ ∧ recept = { s.recept with
          docs := s.recept.docs.set slot { InDoc.freeWith (s.recept.docs.get slot).issue with
            state := .receiving, line := l.val, answer := t } } := by
  unfold openInbound
  cases found : s.recept.docs.lowest 32 fun d => decide (d.state = .free) with
  | none =>
    refine ⟨none, s.link.notices, s.link.lost, s.recept, rfl, fun slot small free first => ?_⟩
    rw [Table.lowest_eq_some _ small (by simpa using free) (fun k before => by simpa using first k before)] at found
    exact nomatch found
  | some k =>
    dsimp only
    generalize opened : s.setInDoc k _ = u
    obtain ⟨notices, lost, raised⟩ := raise_frame .inboundStart
      (inboundStartFields ⟨k, (s.recept.docs.get k).issue⟩ l t) u
    refine ⟨_, notices, lost, u.recept, Prod.ext (raised.trans (by rw [← opened]; rfl)) rfl, fun slot small free first => ?_⟩
    rw [Table.lowest_eq_some _ small (by simpa using free) (fun k before => by simpa using first k before)] at found
    obtain rfl := Option.some.inj found
    exact ⟨rfl, by rw [← opened]; rfl⟩

/-- What an answer does to its line, to reception and to the log. -/
theorem answer_effect (l : LineNo) (passed : Bool) (cause : Option Cause) (s : State) :
    ∃ h, (answer l passed cause s).line l = { s.line l with state := .answering : Line }.answered h s.now ∧ OtherLines l s (answer l passed cause s) ∧
      OnlyChanges [.lines, .link, .recept, .log] s (answer l passed cause s) ∧
      (passed = true → (answer l passed cause s).log = s.log) ∧
      (passed = false → s.log.records.length + s.log.reserved < 256 →
        (answer l passed cause s).log = { s.log with reserved := s.log.reserved + 1 }) ∧
      ∀ slot, slot < 32 → (s.recept.docs.get slot).state = .free → (∀ k, k < slot → (s.recept.docs.get k).state ≠ .free) →
        h = some ⟨slot, (s.recept.docs.get slot).issue⟩ ∧ (answer l passed cause s).recept = { s.recept with
          docs := s.recept.docs.set slot { InDoc.freeWith (s.recept.docs.get slot).issue with
            state := .receiving, line := l.val, answer := s.now } } := by
  obtain ⟨notices, lost, changed⟩ := changeState_frame l .answering cause s
  have reserves (u : State) : ∃ log, (if passed then u else (logReserve u).getD u) = { u with log } ∧
      (passed = true → log = u.log) ∧ (passed = false → u.log.records.length + u.log.reserved < 256 →
        log = { u.log with reserved := u.log.reserved + 1 }) := by
    cases passed with
    | true => exact ⟨u.log, rfl, fun _ => rfl, nofun⟩
    | false =>
      by_cases room : u.log.records.length + u.log.reserved < 256
      · exact ⟨_, by rw [if_neg nofun, logReserve, if_pos room]; rfl, nofun, fun _ _ => rfl⟩
      · exact ⟨u.log, by rw [if_neg nofun, logReserve, if_neg room]; rfl, nofun, fun _ fits => absurd fits room⟩
  obtain ⟨log, reserved, kept, more⟩ := reserves
    { s.setLine l { s.line l with state := .answering } with link := { s.link with notices, lost } }
  obtain ⟨h, notices', lost', recept, opened, slots⟩ := openInbound_effect l s.now
    { s.setLine l { s.line l with state := .answering } with link := { s.link with notices, lost }, log := log }
  have done : answer l passed cause s =
      { s.setLine l ({ s.line l with state := .answering : Line }.answered h s.now) with
        link := { s.link with notices := notices', lost := lost' }, log := log, recept := recept } := by
    have twice : (s.setLine l { s.line l with state := .answering }).setLine l
        (((s.setLine l { s.line l with state := .answering }).line l).answered h s.now) =
          s.setLine l ({ s.line l with state := .answering : Line }.answered h s.now) := by
      rw [s.line_setLine_self, State.setLine_setLine]
    have steps (u : State) (at_ : (if passed then changeState l .answering cause s
        else (logReserve (changeState l .answering cause s)).getD (changeState l .answering cause s)) = u) :
        answer l passed cause s =
          (openInbound l s.now u).1.modLine l fun x => x.answered (openInbound l s.now u).2 s.now := by
      rw [← at_]
      rfl
    rw [changed, reserved] at steps
    rw [steps _ rfl, opened]
    exact congrArg (fun lines => { s with
      lines, link := { s.link with notices := notices', lost := lost' }, log, recept }) (congrArg State.lines twice)
  rw [done]
  refine ⟨h, s.line_setLine_self l _, setLine_others l _ s, ?_, kept, more, slots⟩
  intro p other
  cases p <;> first | rfl | exact absurd (by decide) other

/-! ### The answer decision (R89) -/

/-- The two states show the answer decision the same room: store, inbound slots, log and calls in progress. -/
def SameRoom (s t : State) : Prop :=
  t.store = s.store ∧ t.cfg = s.cfg ∧ t.recept = s.recept ∧ t.log = s.log ∧ t.callsInProgress = s.callsInProgress

theorem callsInProgress_setLine {l : LineNo} {x : Line} {s : State}
    (same : x.state.inProgress = (s.line l).state.inProgress) : (s.setLine l x).callsInProgress = s.callsInProgress := by
  refine congrArg List.length (List.filter_congr fun k _ => ?_)
  by_cases mine : k = l
  · rw [mine, s.line_setLine_self, same]
  · rw [s.line_setLine_ne _ mine]

theorem SameRoom.setLine {l : LineNo} {x : Line} {s : State} (same : x.state.inProgress = (s.line l).state.inProgress) :
    SameRoom s (s.setLine l x) := ⟨rfl, rfl, rfl, rfl, callsInProgress_setLine same⟩

theorem SameRoom.raise {s t : State} (h : SameRoom s t) (kind : NoticeKind) (fields : List Byte) :
    SameRoom s (raise kind fields t) := by
  obtain ⟨_, _, raised⟩ := raise_frame kind fields t
  rw [raised]
  exact h

/-- The condition that refuses the ring, by the room of a state like this one. -/
theorem ringRefusal_eq {s t : State} (room : SameRoom s t) (resting : Bool) (l : LineNo) :
    ringRefusal resting l t = if (t.line l).config.direction = .outOnly then some .direction
      else if resting ∨ (t.line l).state = .idle ∧ (t.line l).attempt = none then
        if s.freeCount < s.cfg.receptionReserve then some .store
        else if s.freeInSlots = 0 then some .inboundSlots
        else if s.logHasRoom then none else some .log
      else some .lineState := by
  obtain ⟨store, cfg, recept, log, calls⟩ := room
  have stores : storeRefusal t = if s.freeCount < s.cfg.receptionReserve then some .store
      else if s.freeInSlots = 0 then some .inboundSlots else none := by
    simp only [storeRefusal, State.freeCount, State.freeInSlots, store, cfg, recept]
    rfl
  have logs : t.logHasRoom = s.logHasRoom := by simp only [State.logHasRoom, log, calls]
  unfold ringRefusal
  simp only [stores, logs]
  by_cases out : (t.line l).config.direction = .outOnly
  · rw [if_pos out, if_pos out]
  rw [if_neg out, if_neg out]
  by_cases stands : resting ∨ (t.line l).state = .idle ∧ (t.line l).attempt = none
  · have open' : ¬(!(resting || (decide ((t.line l).state = .idle) && (t.line l).attempt.isNone))) = true := by
      simpa [← Option.isNone_iff_eq_none, or_iff_not_imp_left] using stands
    rw [if_neg open', if_pos stands]
    split_ifs <;> rfl
  · have shut : (!(resting || (decide ((t.line l).state = .idle) && (t.line l).attempt.isNone))) = true := by
      simpa [← Option.isNone_iff_eq_none, or_iff_not_imp_left] using stands
    rw [if_pos shut, if_neg stands]

theorem answerDecision_answers {resting : Bool} {l : LineNo} {s : State} (free : ringRefusal resting l s = none) :
    answerDecision resting l s = (answer l false none s, true) := by
  unfold answerDecision
  rw [free]

theorem answerDecision_refuses {resting : Bool} {l : LineNo} {s : State} {r : RingRefusal}
    (refused : ringRefusal resting l s = some r) : answerDecision resting l s = (refuseRing l r s, false) := by
  unfold answerDecision
  rw [refused]

/-- A ring is refused once in a burst. -/
theorem refuseRing_setLine {l : LineNo} {r : RingRefusal} {s : State} {x : Line} (burst : x.burst = true) :
    refuseRing l r (s.setLine l x) = if x.refused then s.setLine l x
      else raise .ringRefused [oct l.val, oct x.ringCount, r.code] (s.setLine l { x with refused := true }) := by
  unfold refuseRing
  simp only [State.line_setLine_self, State.modLine_eq, State.setLine_setLine, burst]
  rfl

theorem refuseRing_raised {l : LineNo} {r : RingRefusal} {kind : NoticeKind} {fields : List Byte} {s : State} {x : Line}
    (burst : x.burst = true) :
    refuseRing l r (raise kind fields (s.setLine l x)) = if x.refused then raise kind fields (s.setLine l x)
      else raise .ringRefused [oct l.val, oct x.ringCount, r.code]
        (raise kind fields (s.setLine l { x with refused := true })) := by
  unfold refuseRing
  simp only [raise_line, State.line_setLine_self, State.modLine_eq, raise_setLine, State.setLine_setLine, burst]
  rfl

theorem refuseRing_state (l : LineNo) (r : RingRefusal) (s : State) :
    ((refuseRing l r s).line l).state = (s.line l).state := by
  unfold refuseRing
  dsimp only
  by_cases before : (s.line l).refused = true
  · rw [if_pos before]
  · rw [if_neg before, raise_line, State.modLine_eq, State.line_setLine_self]

theorem Line.ringDue_burst {x : Line} (due : x.ringDue = true) : x.burst = true := (Bool.and_eq_true_iff.1 due).1

/-! ### LINE-CONFIG, LINE-HOLD and LINE-RELEASE (R80 to R82) -/

theorem lineOf_large {n : Byte} (large : 4 ≤ n.toNat) : lineOf n = none := dif_neg (by omega)

theorem lineOf_of_toNat {n : Byte} {l : LineNo} (number : n.toNat = l.val) : lineOf n = some l := by
  rw [← oct_of_toNat number.symm]
  exact lineOf_val l

theorem directionOf_named {d : Byte} (named : d.toNat < 3) : ∃ direction, directionOf d = some direction ∧ direction.code = d := by
  rcases byte_of_lt_three named with rfl | rfl | rfl
  · exact ⟨.inOnly, rfl, rfl⟩
  · exact ⟨.outOnly, rfl, rfl⟩
  · exact ⟨.both, rfl, rfl⟩

/-- A line released from out of service, before its ring test. -/
theorem released {l : LineNo} {s : State} (out : (s.line l).state = .outOfService) :
    changeState l .idle none s =
      raise .lineState ([oct l.val, 12, 0] ++ eTime s.now ++ [0]) (s.setLine l { s.line l with state := .idle }) := by
  unfold changeState
  rw [out]
  rfl

theorem released_line (l : LineNo) (s : State) :
    (changeState l .idle none s).line l = { s.line l with state := .idle } := changeState_line l .idle none s

theorem released_room {l : LineNo} {s : State} (out : (s.line l).state = .outOfService) :
    SameRoom s (changeState l .idle none s) := by
  rw [released out]
  exact .raise (.setLine (by rw [out]; rfl)) ..

/-- LINE-RELEASE of a line out of service: IDLE, the ring test, a pass. -/
theorem lineReleaseOf_out {l : LineNo} {s : State} (out : (s.line l).state = .outOfService) :
    lineReleaseOf [oct l.val] s = .ok
      (askPass (if (s.line l).ringDue then (answerDecision false l (changeState l .idle none s)).1
        else changeState l .idle none s),
       [((if (s.line l).ringDue then (answerDecision false l (changeState l .idle none s)).1
        else changeState l .idle none s).line l).state.code]) := by
  simp only [lineReleaseOf, lineOf_val]
  refine (if_neg (not_not_intro out)).trans ?_
  have due : ((changeState l .idle none s).line l).ringDue = (s.line l).ringDue := by rw [released_line]; rfl
  rw [due]

theorem lineReleaseOf_quiet {l : LineNo} {s : State} (out : (s.line l).state = .outOfService)
    (quiet : (s.line l).ringDue = false) :
    lineReleaseOf [oct l.val] s = .ok (askPass (changeState l .idle none s), [0]) := by
  rw [lineReleaseOf_out out, quiet, if_neg nofun, released_line]
  rfl

theorem lineReleaseOf_refuses {l : LineNo} {s : State} {r : RingRefusal} (out : (s.line l).state = .outOfService)
    (due : (s.line l).ringDue = true) (refused : ringRefusal false l (changeState l .idle none s) = some r) :
    lineReleaseOf [oct l.val] s = .ok (askPass (refuseRing l r (changeState l .idle none s)), [0]) := by
  rw [lineReleaseOf_out out, due, if_pos rfl, answerDecision_refuses refused]
  dsimp only
  rw [refuseRing_state, released_line]
  rfl

theorem lineReleaseOf_answers {l : LineNo} {s : State} (out : (s.line l).state = .outOfService)
    (due : (s.line l).ringDue = true) (free : ringRefusal false l (changeState l .idle none s) = none) :
    lineReleaseOf [oct l.val] s = .ok (askPass (answer l false none (changeState l .idle none s)), [4]) := by
  obtain ⟨h, line, -⟩ := answer_effect l false none (changeState l .idle none s)
  rw [lineReleaseOf_out out, due, if_pos rfl, answerDecision_answers free]
  dsimp only
  rw [line]
  rfl

/-- Settles O35. -/
theorem linesConfiguredAndHeld : Obligations.LinesConfiguredAndHeld := by
  intro tag n d m rest rings timeout l s s₁
  refine ⟨fun large taken => exec_refuses rfl taken ?_, fun large taken => exec_refuses rfl taken ?_,
    fun large taken => exec_refuses rfl taken ?_, fun number => ?_⟩
  · simp only [lineConfigure, lineOf_large large]
  · simp only [lineHoldOf, lineOf_large large]
  · simp only [lineReleaseOf, lineOf_large large]
  have named := lineOf_of_toNat number
  obtain rfl : oct l.val = n := oct_of_toNat number.symm
  intro x
  refine ⟨fun taken direction_ metered_ => ?_, fun taken busy => exec_refuses rfl taken ?_, fun taken out attempt => ?_,
    fun taken free attempt => ?_, fun taken out quiet => ?_, fun taken out due attempt => ?_,
    fun taken inService => exec_refuses rfl taken ?_⟩
  · obtain ⟨direction, direction_named, direction_code⟩ := directionOf_named direction_
    refine ⟨fun busy => exec_refuses rfl taken ?_, fun free =>
      ⟨{ direction, metered := decide (m = 1), restTime := clamp 1 10 rest.toNat, ringsToAnswer := clamp 1 9 rings.toNat,
         answerTimeout := clamp 30 120 timeout.toNat }, exec_answers rfl taken ?_, direction_code, rfl, clamp_eq .., clamp_eq ..,
        clamp_eq ..⟩⟩
    · simp only [lineConfigure, named, direction_named, boolOf_named metered_]
      exact if_pos busy
    · simp only [lineConfigure, named, direction_named, boolOf_named metered_]
      refine (if_neg (ne_true_of_eq_false free)).trans ?_
      rw [lineConfigFields, direction_code]
      rcases byte_of_lt_two metered_ with rfl | rfl <;> rfl
  · simp only [lineHoldOf, named]
    exact if_pos busy
  · have free : ¬x.inCall = true := by simp [Line.inCall, out, attempt, CallState.inProgress]
    refine exec_answers rfl taken ?_
    simp only [lineHoldOf, named]
    refine (if_neg free).trans ?_
    have same : changeState l .outOfService none s₁ = s₁ := if_pos out
    rw [same]
    exact congrArg (fun st : CallState => Except.ok (s₁, [st.code])) out
  · have idle : ¬x.inCall = true := by
      obtain free | free := free <;> simp [Line.inCall, free, attempt, CallState.inProgress]
    have other : x.state ≠ .outOfService := by obtain free | free := free <;> rw [free] <;> nofun
    have changed : changeState l .outOfService none s₁ = _ := if_neg other
    refine exec_answers rfl taken ?_
    simp only [lineHoldOf, named]
    refine (if_neg idle).trans ?_
    rw [changeState_line, changed]
    rfl
  · refine exec_answers rfl taken ?_
    rw [lineReleaseOf_quiet out quiet, released out]
  · have room := ringRefusal_eq (released_room out) false l
    rw [released_line] at room
    refine ⟨fun reason why => ?_, fun slot small free first slots direction store calls log => ?_⟩
    · intro told
      have refuses (r : RingRefusal) (code : r.code = reason)
          (refused : ringRefusal false l (changeState l .idle none s₁) = some r) :
          exec (.lineRelease tag [oct l.val]) s = .next (reply 0x33 tag .ok [0] (askPass
            (if x.refused then told { x with state := .idle }
             else raise .ringRefused [oct l.val, oct x.ringCount, reason]
              (told { x with state := .idle, refused := true })))) := by
        refine exec_answers rfl taken ?_
        rw [lineReleaseOf_refuses out due refused, released out, refuseRing_raised (by exact Line.ringDue_burst due), code]
      obtain ⟨direction, rfl⟩ | ⟨direction, ⟨store, rfl⟩ | ⟨store, ⟨slots, rfl⟩ | ⟨slots, log, rfl⟩⟩⟩ := why
      · exact refuses .direction rfl (room.trans (if_pos direction))
      all_goals rw [if_neg (by exact direction), if_pos (by exact .inr ⟨rfl, attempt⟩)] at room
      · exact refuses .store rfl (room.trans (if_pos store))
      · exact refuses .inboundSlots rfl (room.trans ((if_neg (Nat.not_lt.2 store)).trans (if_pos slots)))
      · refine refuses .log rfl (room.trans ((if_neg (Nat.not_lt.2 store)).trans ((if_neg slots).trans ?_)))
        rw [log]
        rfl
    · have free' : ringRefusal false l (changeState l .idle none s₁) = none := by
        rw [room, if_neg (by exact direction), if_pos (by exact .inr ⟨rfl, attempt⟩), if_neg (Nat.not_lt.2 store),
          if_neg slots, if_pos calls]
      obtain ⟨notices, lost, before⟩ := changeState_frame l .idle none s₁
      have idle := changeState_only l .idle none s₁
      obtain ⟨h, line, others, only, -, reserves, opens⟩ := answer_effect l false none (changeState l .idle none s₁)
      have answered := exec_answers (i := .lineRelease tag [oct l.val]) rfl taken (lineReleaseOf_answers out due free')
      generalize answer l false none (changeState l .idle none s₁) = t at *
      rw [before] at line others only reserves opens idle
      obtain ⟨rfl, opened⟩ := opens slot small free first
      have here : (s₁.setLine l { s₁.line l with state := .idle }).line l = { s₁.line l with state := .idle } :=
        s₁.line_setLine_self l _
      have docs : t.docs = s₁.docs := only .docs (by decide)
      refine ⟨askPass t, answered, ?_, ?_, ?_, ?_, ?_, reserves rfl log, ?_, ?_, ?_⟩
      · exact congrArg Line.state line
      · exact congrArg Line.ringCount line
      · exact congrArg Line.burst line
      · exact congrArg Line.call line
      · show t.recept.docs.get slot = _
        rw [opened]
        exact Table.get_set_self ..
      · show { t.docs with passAsked := true } = _
        rw [docs]
      · exact OtherLines.trans (setLine_others l _ s₁) others
      · exact ((idle.mono (by decide)).trans (only.mono (by decide))).trans ((askPass_only t).mono (by decide))
  · simp only [lineReleaseOf, named]
    exact if_pos inService

end Sys2Proof.Machine
end

section
/-! PROOFS. Rings answered or refused, glares, the ends of bursts, answer tones and rests (R88 to R92). -/

namespace Sys2Proof.Machine

/-! ### A withdrawn attempt (R59) -/

/-- A withdrawn attempt whose document goes on has its destination WAITING again. -/
theorem withdrawAttempt_waits {h : DocHandle} {index r : Nat} {d : Doc} {x : Dest} {s : State} (there : s.doc h = some d)
    (listed : d.dests[index]? = some r) (record : s.dest r = some x) (goesOn : d.cancelReq = false)
    (before : d.deadlineReached s.now = false) :
    ∃ docs, withdrawAttempt h index s = { s with docs } ∧ docs.pool = s.docs.pool.set r (some { x with state := .waiting }) ∧
      docs.passAsked = true := by
  have waits : withdrawnState d s.now = .waiting := by rw [withdrawnState, goesOn, before]; rfl
  unfold withdrawAttempt
  rw [there]
  dsimp only
  rw [listed]
  dsimp only
  rw [record]
  dsimp only
  rw [waits, if_neg nofun]
  exact ⟨_, rfl, rfl, rfl⟩

/-! ### Rings on hook (R88, R89) -/

/-- A line on hook that has counted a ring. -/
def Line.rung (x : Line) : Line := { x with burst := true, ringCount := satAdd 255 x.ringCount 1 }

theorem Line.rung_due {x : Line} : x.rung.ringDue = true ↔ x.config.ringsToAnswer ≤ min 255 (x.ringCount + 1) := by
  show (true && Nat.ble _ _) = true ↔ _
  rw [Bool.true_and, Nat.ble_eq]
  rfl

theorem ring_onHook {l : LineNo} {s : State} (onHook : (s.line l).state = .idle ∨ (s.line l).state = .outOfService) :
    ring l s = if !(s.line l).rung.ringDue then s.setLine l (s.line l).rung
      else if (s.line l).attempt.isSome then s.setLine l { (s.line l).rung with deferred := true }
      else (answerDecision false l (s.setLine l (s.line l).rung)).1 := by
  unfold ring
  dsimp only
  obtain hook | hook := onHook <;> rw [hook] <;> dsimp only <;>
    simp only [State.modLine_eq, State.line_setLine_self, State.setLine_setLine] <;> rfl

theorem ring_counts {l : LineNo} {s : State} (onHook : (s.line l).state = .idle ∨ (s.line l).state = .outOfService)
    (few : ¬(s.line l).rung.ringDue = true) : ring l s = s.setLine l (s.line l).rung := by
  rw [ring_onHook onHook, if_pos (by rw [Bool.eq_false_iff.2 few]; rfl)]

theorem ring_decides {l : LineNo} {s : State} (onHook : (s.line l).state = .idle ∨ (s.line l).state = .outOfService)
    (due : (s.line l).rung.ringDue = true) (attempt : (s.line l).attempt = none) :
    ring l s = (answerDecision false l (s.setLine l (s.line l).rung)).1 := by
  rw [ring_onHook onHook, due, attempt]
  rfl

/-- A line that has counted enough rings and stands in the way of no other call answers. -/
theorem rung_room (l : LineNo) (s : State) : SameRoom s (s.setLine l (s.line l).rung) := .setLine rfl

/-! ### Glares (R91) -/

/-- A line at a glare, its attempt let go. -/
def Line.glared (x : Line) : Line := { x with burst := true, attempt := none, send := .reset }

/-- How a glare ends, its attempt let go: the line answers on its reservation, or refuses the ring and rests. -/
def glareEnd (l : LineNo) (u : State) : State :=
  match storeRefusal u with
  | none => answer l true (some .glare) u
  | some r => (changeState l .rest (some .glare) (refuseRing l r (logGiveBack u))).modLine l fun x =>
      { x with call := none, proc := .reset, recv := .reset }

theorem glareEnd_answers {l : LineNo} {u : State} (room : u.cfg.receptionReserve ≤ u.freeCount) (slots : u.freeInSlots ≠ 0) :
    glareEnd l u = answer l true (some .glare) u := by
  unfold glareEnd storeRefusal
  rw [if_neg (Nat.not_lt.2 room), if_neg slots]

theorem glareEnd_refuses {l : LineNo} {u : State} (full : u.freeCount < u.cfg.receptionReserve) :
    glareEnd l u = (changeState l .rest (some .glare) (refuseRing l .store (logGiveBack u))).modLine l fun x =>
      { x with call := none, proc := .reset, recv := .reset } := by
  unfold glareEnd storeRefusal
  rw [if_pos full]

theorem glare_eq {l : LineNo} {a : Attempt} {d : Doc} {r : Nat} {y : Dest} {s : State}
    (attempt : (s.line l).attempt = some a) (there : s.doc a.doc = some d) (listed : d.dests[a.index]? = some r)
    (record : s.dest r = some y) (goesOn : d.cancelReq = false) (before : d.deadlineReached s.now = false) :
    ∃ docs, docs.pool = s.docs.pool.set r (some { y with state := .waiting }) ∧ docs.passAsked = true ∧
      glare l s = glareEnd l (withdraw (.lc l) (State.setLine { s with docs } l (s.line l).glared)) := by
  obtain ⟨docs, withdrawn, pool, asked⟩ := withdrawAttempt_waits (s := s.setLine l { s.line l with burst := true })
    there listed record goesOn before
  refine ⟨docs, pool, asked, ?_⟩
  have held : ((s.setLine l { s.line l with burst := true }).line l).attempt = some a := by
    rw [s.line_setLine_self]
    exact attempt
  have step (o : Option Attempt) (line : ((s.setLine l { s.line l with burst := true }).line l).attempt = o) :
      glare l s = glareEnd l (withdraw (.lc l)
        ((match o with
          | some a => withdrawAttempt a.doc a.index (s.setLine l { s.line l with burst := true })
          | none => s.setLine l { s.line l with burst := true }).modLine l fun x =>
            { x with attempt := none, send := .reset })) := by
    subst line
    rfl
  have twice : (State.modLine { s.setLine l { s.line l with burst := true } with docs } l fun x =>
      { x with attempt := none, send := .reset }) = State.setLine { s with docs } l (s.line l).glared := by
    show State.setLine (State.setLine { s with docs } l { s.line l with burst := true }) l
      { (s.setLine l { s.line l with burst := true }).line l with attempt := none, send := .reset } = _
    rw [State.setLine_setLine, State.line_setLine_self]
    rfl
  rw [step _ held]
  dsimp only
  rw [withdrawn, twice]

/-- A refused ring leaves its mark on the line for the burst. -/
theorem refuseRing_frame {l : LineNo} {s : State} (r : RingRefusal) (burst : (s.line l).burst = true) :
    ∃ notices lost, refuseRing l r s =
      { s.setLine l { s.line l with refused := true } with link := { s.link with notices, lost } } := by
  have step := refuseRing_setLine (l := l) (r := r) (s := s) burst
  rw [s.setLine_line] at step
  rw [step]
  by_cases before : (s.line l).refused = true
  · have same : s.setLine l { s.line l with refused := true } = s := by rw [← before]; exact s.setLine_line l
    rw [if_pos before, same]
    exact ⟨s.link.notices, s.link.lost, rfl⟩
  · rw [if_neg before]
    exact raise_frame ..

/-- A glare that the store refuses: the line rests, its reservation given back. -/
theorem glareEnd_rests {l : LineNo} {u : State} (burst : (u.line l).burst = true) (full : u.freeCount < u.cfg.receptionReserve) :
    (glareEnd l u).line l = { u.line l with refused := true, state := .rest, call := none, proc := .reset, recv := .reset } ∧
      OtherLines l u (glareEnd l u) ∧ (glareEnd l u).log = { u.log with reserved := u.log.reserved - 1 } ∧
      (glareEnd l u).recept = u.recept ∧ (glareEnd l u).docs = { u.docs with passAsked := true } ∧
      (glareEnd l u).scan = u.scan := by
  rw [glareEnd_refuses full]
  obtain ⟨notices, lost, refused⟩ := refuseRing_frame (l := l) (s := logGiveBack u) .store burst
  rw [refused]
  obtain ⟨notices', lost', changed⟩ := changeState_frame l .rest (some .glare)
    { (logGiveBack u).setLine l { (logGiveBack u).line l with refused := true } with
      link := { (logGiveBack u).link with notices, lost } }
  rw [changed]
  have first : (State.setLine u l { u.line l with refused := true }).line l = { u.line l with refused := true } :=
    u.line_setLine_self l _
  refine ⟨?_, fun k other => ?_, rfl, rfl, rfl, rfl⟩
  · rw [State.modLine_eq, State.line_setLine_self]
    show ({ ((State.setLine u l { u.line l with refused := true }).setLine l
      { (State.setLine u l { u.line l with refused := true }).line l with state := .rest }).line l with
      call := none, proc := .reset, recv := .reset } : Line) = _
    rw [State.line_setLine_self, first]
  · exact (State.line_setLine_ne _ _ other).trans ((State.line_setLine_ne _ _ other).trans (State.line_setLine_ne _ _ other))

theorem ring_seized {l : LineNo} {s : State} (seized : (s.line l).state = .seized)
    (both : (s.line l).config.direction = .both) : ring l s = glare l s := by
  unfold ring
  dsimp only
  rw [seized]
  exact if_pos both

theorem CallRec.stamped_eq (c : CallRec) (suspect : Bool) : c.stamped suspect =
    { c with flags := { c.flags with timeSuspect := c.flags.timeSuspect || suspect } } := by
  cases suspect <;> simp [CallRec.stamped]

/-- Settles O41. -/
theorem burstAnswerToneAndRestEnd : Obligations.BurstAnswerToneAndRestEnd := by
  intro l s on x
  have burstEnd : exec (.ringBurstEnd l) s = .next (ringBurstEnd l s) := exec_event (i := .ringBurstEnd l) on rfl
  have rests : exec (.restEnd l) s = .next (restEnd l s) := exec_event (i := .restEnd l) on rfl
  refine ⟨fun burst => ?_, fun none => ?_, fun c h answering call inbound => ?_, fun rest quiet => ?_, fun other => ?_,
    fun rest due direction store slots calls => ?_⟩
  · rw [burstEnd]
    exact congrArg _ (if_pos burst)
  · rw [burstEnd]
    exact congrArg _ (if_neg (ne_true_of_eq_false none))
  · have tone : exec (.answerToneEnd l) s = .next (answerToneEnd l s) := exec_event (i := .answerToneEnd l) on rfl
    have mine : s.callInbound l = some h := by
      unfold State.callInbound
      rw [show (s.line l).call = some c from call]
      exact inbound
    let y : Line := { x with
      state := .negotiating,
      call := some { c with
        connect := some s.now,
        flags := { c.flags with timeSuspect := c.flags.timeSuspect || s.tk.suspect } },
      params := { CallParams.reset with role := some .receiver }, proc := { Procedure.reset with timer := true } }
    let u : State := s.setInDoc h.slot { s.recept.docs.get h.slot with connect := some s.now }
    have connects : answerToneEnd l s = raise .lineState ([oct l.val, 4, 5] ++ eTime s.now ++ [0]) (u.setLine l y) := by
      refine (if_pos answering).trans ?_
      unfold connectIn
      rw [mine]
      dsimp only
      rw [State.modLine_eq, changeState_setLine]
      have state : (State.line (s.modInDoc h.slot fun d => { d with connect := some s.now }) l).state = .answering := answering
      have calls : (State.line (s.modInDoc h.slot fun d => { d with connect := some s.now }) l).call = some c := call
      rw [state, calls, Option.map_some, CallRec.stamped_eq]
      rfl
    rw [tone, connects]
    refine ⟨_, rfl, ?_, ?_, ?_, ?_, ?_⟩
    · rw [raise_line]
      exact State.line_setLine_self ..
    · obtain ⟨_, _, raised⟩ := raise_frame .lineState ([oct l.val, 4, 5] ++ eTime s.now ++ [0]) (u.setLine l y)
      rw [raised]
      exact Table.get_set_self ..
    · exact raise_link_congr _ _ rfl rfl
    · exact (setLine_others l y u).trans (raise_others l _ _ _)
    · refine OnlyChanges.trans (t := u.setLine l y) ?_ ((raise_only _ _ _).mono (by decide))
      intro p other
      cases p <;> first | rfl | exact absurd (by decide) other
  · rw [rests]
    refine congrArg _ ((if_pos rest).trans ((if_neg (ne_true_of_eq_false quiet)).trans (congrArg askPass ?_)))
    unfold changeState
    rw [show (s.line l).state = .rest from rest]
    rfl
  · rw [rests]
    exact congrArg _ (if_neg other)
  · have free : ringRefusal true l s = none := by
      rw [ringRefusal_eq (s := s) ⟨rfl, rfl, rfl, rfl, rfl⟩, if_neg direction, if_pos (.inl rfl), if_neg (Nat.not_lt.2 store),
        if_neg slots, if_pos calls]
    obtain ⟨h, line, others, -⟩ := answer_effect l false none s
    refine ⟨_, rests.trans (congrArg _ ?_), congrArg Line.state line, congrArg Line.ringCount line, others⟩
    refine (if_pos rest).trans ((if_pos due).trans ?_)
    rw [answerDecision_answers free]

/-- Settles O40. -/
theorem ringsAnswerOrRefuse : Obligations.RingsAnswerOrRefuse := by
  intro l s on quiet x count answering
  have row : exec (.ring l) s = .next (scanRetry (ring l s)) :=
    exec_event (i := .ring l) (act := fun s => scanRetry (ring l s)) on rfl
  have runs {t : State} (rings : ring l s = t) (scan : t.scan = s.scan) : exec (.ring l) s = .next t := by
    rw [row, rings, scanRetry_eq (by rw [scan]; exact quiet)]
  have rung : (s.setLine l x.rung).line l = x.rung := s.line_setLine_self l _
  have room := ringRefusal_eq (rung_room l s) false l
  rw [rung] at room
  refine ⟨fun hook few => ?_, fun rest => ?_, fun off => ?_, fun seized out => ?_,
    fun idle attempt due direction store => ?_, fun out due attempt unrefused => ?_,
    fun slot small free slots first store => ⟨fun idle attempt due direction calls log => ?_,
      fun a d r y seized both attempt there listed record goesOn before => ?_⟩,
    fun a d r y seized both attempt there listed record goesOn before full => ?_⟩
  · exact runs (ring_counts hook fun due => by have := Line.rung_due.1 due; exact absurd few (Nat.not_lt.2 this)) rfl
  · refine runs (t := s.setLine l x.rung) ?_ rfl
    unfold ring
    dsimp only
    rw [show (s.line l).state = .rest from rest]
    rfl
  · refine runs ?_ rfl
    unfold ring
    dsimp only
    cases state : (s.line l).state <;> first | rfl | exact absurd (by rw [show x.state = _ from state]; decide) off
  · refine runs ?_ rfl
    unfold ring
    dsimp only
    rw [show (s.line l).state = .seized from seized]
    exact if_neg (by rw [show (s.line l).config.direction = .outOnly from out]; nofun)
  · rw [if_neg (by exact direction), if_pos (by exact .inr ⟨idle, attempt⟩), if_pos store] at room
    refine runs ((ring_decides (.inl idle) (Line.rung_due.2 due) attempt).trans ?_) (by split <;> simp)
    rw [answerDecision_refuses room, refuseRing_setLine rfl]
    rfl
  · have refused : ringRefusal false l (s.setLine l x.rung) =
        some (if x.config.direction = .outOnly then .direction else .lineState) := by
      rw [room]
      by_cases only : x.config.direction = .outOnly
      · rw [if_pos only, if_pos (by exact only)]
      · have stands : ¬(false = true ∨ x.rung.state = .idle ∧ x.rung.attempt = none) := by
          rintro (h | ⟨idle, -⟩)
          · exact nomatch h
          · exact nomatch (show x.state = .idle from idle).symm.trans out
        rw [if_neg only, if_neg (by exact only), if_neg stands]
    refine runs ((ring_decides (.inr out) (Line.rung_due.2 due) attempt).trans ?_) (by simp)
    rw [answerDecision_refuses refused, refuseRing_setLine rfl, if_neg (by exact ne_true_of_eq_false unrefused)]
    split <;> rfl
  · rw [if_neg (by exact direction), if_pos (by exact .inr ⟨idle, attempt⟩), if_neg (Nat.not_lt.2 store), if_neg slots,
      if_pos calls] at room
    obtain ⟨h, line, others, only, -, reserves, opens⟩ := answer_effect l false none (s.setLine l x.rung)
    have answers : ring l s = answer l false none (s.setLine l x.rung) :=
      (ring_decides (.inl idle) (Line.rung_due.2 due) attempt).trans (by rw [answerDecision_answers room])
    obtain ⟨rfl, opened⟩ := opens slot small free first
    refine ⟨_, runs answers (only .scan (by decide)), ⟨congrArg Line.state line, ?_, congrArg Line.ringCount line,
      congrArg Line.burst line, congrArg Line.call line, ?_, OtherLines.trans (setLine_others l _ s) others⟩,
      reserves rfl log, (setLine_only l _ s |>.mono (by decide)).trans (only.mono (by decide))⟩
    · refine (congrArg Line.attempt line).trans ?_
      rw [rung]
      exact attempt
    · rw [opened]
      exact Table.get_set_self ..
  · obtain ⟨docs, pool, asked, glares⟩ := glare_eq attempt there listed record goesOn before
    rw [glareEnd_answers (by exact store) (by exact slots)] at glares
    have line₀ : (withdraw (.lc l) (State.setLine { s with docs } l x.glared)).line l = x.glared := State.line_setLine_self ..
    have others₀ : OtherLines l s (withdraw (.lc l) (State.setLine { s with docs } l x.glared)) :=
      setLine_others l x.glared { s with docs }
    obtain ⟨h, line, others, only, log, -, opens⟩ := answer_effect l true (some .glare)
      (withdraw (.lc l) (State.setLine { s with docs } l x.glared))
    obtain ⟨rfl, opened⟩ := opens slot small free first
    rw [line₀] at line
    have docs_ : (answer l true (some .glare) (withdraw (.lc l) (State.setLine { s with docs } l x.glared))).docs = docs :=
      only .docs (by decide)
    refine ⟨_, runs ((ring_seized seized both).trans glares) (only .scan (by decide)), ⟨congrArg Line.state line,
      congrArg Line.attempt line, congrArg Line.ringCount line, congrArg Line.burst line, congrArg Line.call line, ?_,
      others₀.trans others⟩, log rfl, ?_, ?_⟩
    · rw [opened]
      exact Table.get_set_self ..
    · show Table.get (State.docs _).pool r = _
      rw [docs_, pool]
      exact Table.get_set_self ..
    · rw [docs_]
      exact asked
  · obtain ⟨docs, pool, asked, glares⟩ := glare_eq attempt there listed record goesOn before
    have line₀ : (withdraw (.lc l) (State.setLine { s with docs } l x.glared)).line l = x.glared := State.line_setLine_self ..
    have others₀ : OtherLines l s (withdraw (.lc l) (State.setLine { s with docs } l x.glared)) :=
      setLine_others l x.glared { s with docs }
    obtain ⟨line, others, log, recept, docs_, scan⟩ := glareEnd_rests
      (u := withdraw (.lc l) (State.setLine { s with docs } l x.glared)) (by rw [line₀]; rfl) (by exact full)
    rw [line₀] at line
    refine ⟨_, runs ((ring_seized seized both).trans glares) scan, congrArg Line.state line, congrArg Line.attempt line,
      congrArg Line.call line, congrArg Line.burst line, congrArg Line.refused line,
      (congrArg Line.ringCount line :), (congrArg Line.config line :), others₀.trans others, log, recept, ?_, ?_⟩
    · show Table.get (State.docs _).pool r = _
      rw [docs_]
      show docs.pool.get r = _
      rw [pool]
      exact Table.get_set_self ..
    · rw [docs_]

end Sys2Proof.Machine
end

section
/-! PROOFS. The zone lookup, seizure, and the calls that end before connect (R58, R59, R79, R84 to R87). -/

namespace Sys2Proof.Machine

/-! ### Seizure (R84, R85) -/

theorem Line.atSymbol_frame {x : Line} (p : Nat) (silent : x.dialTone = false) :
    x.atSymbol p = { x with playPos := p, state := (x.atSymbol p).state } := by
  unfold Line.atSymbol
  cases x.expander.buffer[p]? with
  | none => rfl
  | some y => cases y <;> first | rfl | rw [← silent]

/-- A line seized for an attempt in a zone, before its first symbol. -/
def Line.seizedFor (x : Line) (a : Attempt) (zone : Nat) (now : DateTime) (send : SendSide) : Line :=
  { x with
    state := .seized,
    call := some { out := some ⟨a.doc, a.index, a.desk, a.priority⟩, inbound := none, charged := x.charged,
                   zone := some zone, reserved := true, start := now, connect := none, release := none, cause := none,
                   pages := 0, flags := .none },
    fillCount := 0, playPos := 0, dialTone := false, deferred := false, proc := .reset, send, recv := .reset }

/-- A seizure: the line at its first symbol, with requests for the preload and a notice for each change of state. -/
theorem seize_frame (l : LineNo) (a : Attempt) (zone : Nat) (s : State) :
    ∃ send waiting notices lost, seize l a zone s =
      { s.setLine l (((s.line l).seizedFor a zone s.now send).atSymbol 0) with
        store := { s.store with waiting }, link := { s.link with notices, lost } } := by
  obtain ⟨notices, lost, changed⟩ := changeState_frame l .seized none s
  let first : SendSide := { SendSide.reset with fetch := some (a.firstPage, 0) }
  let u : State := { s.setLine l ((s.line l).seizedFor a zone s.now first) with link := { s.link with notices, lost } }
  have u_line : u.line l = (s.line l).seizedFor a zone s.now first := s.line_setLine_self l _
  have steps : seize l a zone s = beginSymbol l (fetchOn 4 l ((changeState l .seized none s).modLine l fun x =>
      { x with
        call := ((s.line l).seizedFor a zone s.now first).call, fillCount := 0, playPos := 0, dialTone := false,
        deferred := false, proc := .reset, send := first, recv := .reset })) := rfl
  have before : ((changeState l .seized none s).modLine l fun x =>
      { x with
        call := ((s.line l).seizedFor a zone s.now first).call, fillCount := 0, playPos := 0, dialTone := false,
        deferred := false, proc := .reset, send := first, recv := .reset }) = u := by
    rw [changed]
    have here : (s.setLine l { s.line l with state := .seized }).line l = { s.line l with state := .seized } :=
      s.line_setLine_self l _
    show { (s.setLine l { s.line l with state := .seized }).setLine l
      { (s.setLine l { s.line l with state := .seized }).line l with
        call := ((s.line l).seizedFor a zone s.now first).call, fillCount := 0, playPos := 0, dialTone := false,
        deferred := false, proc := .reset, send := first, recv := .reset } with
        link := { s.link with notices, lost } } = u
    rw [here, State.setLine_setLine]
    rfl
  obtain ⟨waiting, buf0, buf1, fetch, fetched, -⟩ := fetchOn_frame 4 l u
  rw [u_line] at fetched
  let y : Line := (s.line l).seizedFor a zone s.now { first with buf0, buf1, fetch }
  have preload : fetchOn 4 l u = State.setLine { s with
      store := { s.store with waiting }, link := { s.link with notices, lost } } l y := by
    rw [fetched]
    show ({ (s.setLine l ((s.line l).seizedFor a zone s.now first)).setLine l _ with
      store := { s.store with waiting }, link := { s.link with notices, lost } } : State) = _
    rw [State.setLine_setLine]
    rfl
  rw [steps, before, preload, beginSymbol_eq (p := 0) (Line.skipWaits_silent rfl)]
  by_cases same : (y.atSymbol 0).state = y.state
  · rw [if_pos same]
    exact ⟨_, waiting, notices, lost, rfl⟩
  · rw [if_neg same]
    obtain ⟨notices', lost', raised⟩ := raise_frame .lineState _ (State.setLine { s with
      store := { s.store with waiting }, link := { s.link with notices, lost } } l (y.atSymbol 0))
    exact ⟨_, waiting, notices', lost', raised⟩

/-- The state that the symbol at a position brings. -/
theorem Line.atSymbol_state (x : Line) (p : Nat) : (x.atSymbol p).state =
    if x.expander.buffer[p]? = none then .alerting
    else if x.expander.buffer[p]? = some .pause ∨ x.expander.buffer[p]? = some .wait then x.state
    else .dialling := by
  unfold Line.atSymbol
  cases x.expander.buffer[p]? with
  | none => rfl
  | some y => cases y <;> simp

/-! ### The lookup's answer (R58, R59, R79) -/

section
variable {l : LineNo} {a : Attempt} {s : State}

theorem zoneLookup_due (idle : (s.line l).state = .idle) (expanded : a.expanded = true) :
    ¬((s.line l).state ≠ .idle ∨ (!a.expanded) = true) := by simp [idle, expanded]

theorem zoneLookup_bars (idle : (s.line l).state = .idle) (attempt : (s.line l).attempt = some a)
    (expanded : a.expanded = true) (barred : s.charge.lookup (s.line l).charged = none) :
    zoneLookup l s = endUnseized l a .barred s := by
  simp only [zoneLookup, attempt, if_neg (zoneLookup_due idle expanded), barred]

theorem zoneLookup_seizes {zone : Nat} {t : State} (idle : (s.line l).state = .idle) (attempt : (s.line l).attempt = some a)
    (expanded : a.expanded = true) (found : s.charge.lookup (s.line l).charged = some zone)
    (allowed : seizureAllowed a s = true) (reserved : logReserve s = some t) : zoneLookup l s = seize l a zone t := by
  simp only [zoneLookup, attempt, if_neg (zoneLookup_due idle expanded), found, if_pos allowed, reserved]

theorem zoneLookup_withdraws {zone : Nat} (idle : (s.line l).state = .idle) (attempt : (s.line l).attempt = some a)
    (expanded : a.expanded = true) (found : s.charge.lookup (s.line l).charged = some zone)
    (refused : ¬seizureAllowed a s = true) :
    zoneLookup l s = deferredDecision l (letGo l (withdrawAttempt a.doc a.index s)) := by
  simp only [zoneLookup, attempt, if_neg (zoneLookup_due idle expanded), found, if_neg refused]

end

/-- Settles O37. -/
theorem lookupSeizesOrBars : Obligations.LookupSeizesOrBars := by
  intro l a d r x s on quiet idle attempt expanded undeferred there listed record goesOn unsent
  have row : exec (.zoneLookup l) s = .next (scanRetry (zoneLookup l s)) :=
    exec_event (i := .zoneLookup l) (act := fun s => scanRetry (zoneLookup l s)) on rfl
  have runs {t : State} (looks : zoneLookup l s = t) (scan : t.scan = s.scan) : exec (.zoneLookup l) s = .next t := by
    rw [row, looks, scanRetry_eq (by rw [scan]; exact quiet)]
  refine ⟨fun barred => ?_, fun zone found => ⟨fun below room => ?_, fun reached before => ?_⟩⟩
  · obtain ⟨line, others, dest, only⟩ := endUnseized_effect (cause := .barred) undeferred there listed record
    rw [Dest.reported_early rfl unsent goesOn] at dest
    exact ⟨_, runs (zoneLookup_bars idle attempt expanded barred) (only .scan (by decide)), line, others, dest,
      only .log (by decide), only .desks (by decide)⟩
  · have allowed : seizureAllowed a s = true := by
      unfold seizureAllowed
      rw [there]
      simp [State.desk, below, goesOn]
    have reserves : logReserve s = some { s with log := { s.log with reserved := s.log.reserved + 1 } } := if_pos room
    obtain ⟨send, waiting, notices, lost, seized⟩ := seize_frame l a zone
      { s with log := { s.log with reserved := s.log.reserved + 1 } }
    have looks := (zoneLookup_seizes idle attempt expanded found allowed reserves).trans seized
    let y : Line := (s.line l).seizedFor a zone s.now send
    have line : (s.setLine l (y.atSymbol 0)).line l = { y with playPos := 0, state := (y.atSymbol 0).state } :=
      (s.line_setLine_self l _).trans (Line.atSymbol_frame 0 rfl)
    refine ⟨_, runs looks rfl, rfl, (congrArg Line.call line :), (congrArg Line.attempt line :).trans attempt,
      (congrArg Line.fillCount line :), (congrArg Line.playPos line :), (congrArg Line.dialTone line :),
      (congrArg Line.expander line :), (congrArg Line.config line :), ?_, setLine_others l _ s, ?_⟩
    · refine (congrArg Line.state line :).trans ((Line.atSymbol_state y 0).trans ?_)
      show (if (s.line l).expander.buffer[0]? = none then _ else if (s.line l).expander.buffer[0]? = some .pause ∨
        (s.line l).expander.buffer[0]? = some .wait then CallState.seized else .dialling) = _
      cases (s.line l).expander.buffer with
      | nil => rfl
      | cons y ys => cases y <;> simp
    · intro p other
      cases p <;> first | rfl | exact absurd (by decide) other
  · have refused : ¬seizureAllowed a s = true := by
      unfold seizureAllowed
      simp [State.desk, reached]
    obtain ⟨docs, withdrawn, pool, asked⟩ := withdrawAttempt_waits there listed record goesOn before
    have line : (State.setLine { s with docs } l { s.line l with attempt := none }).line l = { s.line l with attempt := none } :=
      State.line_setLine_self ..
    have withdraws : zoneLookup l s = State.setLine { s with docs } l { s.line l with attempt := none } := by
      rw [zoneLookup_withdraws idle attempt expanded found refused, withdrawn]
      exact deferredDecision_none ((congrArg Line.deferred line :).trans undeferred)
    refine ⟨_, runs withdraws rfl, line, setLine_others l _ { s with docs }, ?_, asked, rfl⟩
    show docs.pool.get r = _
    rw [pool]
    exact Table.get_set_self ..

end Sys2Proof.Machine
end

section
/-! PROOFS. A call's end: the charge, the log record, the report, and the line on hook (R87, R115, R119, R166 to R186). -/

namespace Sys2Proof.Machine

/-! ### The charge and the log record (R166, R177, R186) -/

/-- A limit test changes its desk, and besides the host link and the dispatcher's pass. -/
theorem deskTest_eq (n : Nat) (s : State) : ∃ notices lost passAsked, deskTest n s =
    { s with
      desks := s.desks.set n { s.desk n with reached := (s.desk n).atLimit },
      link := { s.link with notices, lost }, docs := { s.docs with passAsked } } ∨
    deskTest n s = s ∧ (s.desk n).reached = (s.desk n).atLimit := by
  cases limit : (s.desk n).atLimit <;> cases reached : (s.desk n).reached
  · exact ⟨[], 0, false, .inr ⟨deskTest_same (reached.trans limit.symm), rfl⟩⟩
  · refine ⟨s.link.notices, s.link.lost, true, .inl ?_⟩
    rw [deskTest_lifts limit reached]
    rfl
  · obtain ⟨notices, lost, raised⟩ := raise_frame .deskLimit (deskLimitFields n (s.desk n))
      (s.setDesk n { s.desk n with reached := true })
    refine ⟨notices, lost, s.docs.passAsked, .inl ?_⟩
    rw [deskTest_reaches limit reached, raised]
    rfl
  · exact ⟨[], 0, false, .inr ⟨deskTest_same (reached.trans limit.symm), rfl⟩⟩

/-- A desk with a call added, after its limit test. -/
def Desk.charged (d : Desk) (units cost : Nat) : Desk := { d.add units cost with reached := (d.add units cost).atLimit }

theorem deskAdd_frame (n units cost : Nat) (s : State) : ∃ notices lost passAsked desks, deskAdd n units cost s =
    { s with desks, link := { s.link with notices, lost }, docs := { s.docs with passAsked } } ∧
    ∀ k, desks.get k = if k = n then (s.desk n).charged units cost else s.desk k := by
  have added (k : Nat) : (deskAdd n units cost s).desk k = if k = n then (s.desk n).charged units cost else s.desk k := by
    unfold deskAdd
    rw [deskTest_desk]
    simp only [setDesk_desk, if_true, Desk.charged]
    split <;> rfl
  obtain ⟨notices, lost, passAsked, tested | ⟨tested, -⟩⟩ := deskTest_eq n (s.setDesk n ((s.desk n).add units cost))
  · exact ⟨notices, lost, passAsked, _, tested, fun k => by rw [← added, deskAdd, tested]; rfl⟩
  · exact ⟨s.link.notices, s.link.lost, s.docs.passAsked, _, tested, fun k => by rw [← added, deskAdd, tested]; rfl⟩

/-- The log with a reservation filled. -/
def CallLog.filled (g : CallLog) (r : LogRecord) (armed : Bool) : CallLog :=
  { g with records := g.records ++ [r], reserved := g.reserved - 1, sequence := wrapSucc 65536 g.sequence, armed }

theorem logFill_frame (r : LogRecord) (s : State) : ∃ notices lost armed, logFill r s =
    { s with log := s.log.filled r armed, link := { s.link with notices, lost } } := by
  unfold logFill
  dsimp only
  split
  · obtain ⟨notices, lost, raised⟩ := raise_frame .logNearFull
      (logNearFullFields (s.log.filled r s.log.armed)) { s with log := s.log.filled r false }
    exact ⟨notices, lost, false, raised⟩
  · exact ⟨s.link.notices, s.link.lost, s.log.armed, rfl⟩

/-- A released call as the log and the charging unit take it. -/
def CallRec.ended (c : CallRec) (cause : Cause) (release : DateTime) (suspect : Bool) : CallRec :=
  { c with release := some release, cause := some cause }.stamped suspect

theorem CallRec.ended_eq (c : CallRec) (cause : Cause) (release : DateTime) (suspect : Bool) :
    c.ended cause release suspect = { c with
      release := some release, cause := some cause,
      flags := { c.flags with timeSuspect := c.flags.timeSuspect || suspect } } := CallRec.stamped_eq _ suspect

theorem callFigures_ended (g : Charging) (tolerance : Nat) (ch : ChargeState) (c : CallRec) (cause : Cause)
    (release : DateTime) (suspect : Bool) :
    callFigures g tolerance ch (c.ended cause release suspect) release = callFigures g tolerance ch c release := by
  rw [CallRec.ended_eq]
  rfl

/-- A line whose call has been charged. -/
def Line.released (x : Line) : Line := { x with charging := { x.charging with captured := false } }

/-- What the charge and the log make of a released call. -/
theorem chargeAndLog_frame (l : LineNo) (c : CallRec) (cause : Cause) (release : DateTime) (s : State) :
    ∃ notices lost passAsked desks armed, chargeAndLog l c cause release s =
      ({ s.setLine l (s.line l).released with
        desks, link := { s.link with notices, lost }, docs := { s.docs with passAsked },
        log := s.log.filled (logRecordOf l s.log.sequence c cause release
          (callFigures s.charge s.cfg.tolerance (s.line l).charging c release)) armed }, s.log.sequence) ∧
      (c.out = none → desks = s.desks) ∧
      ∀ o, c.out = some o → ∀ k, desks.get k = if k = o.desk then
        (s.desk k).charged (callFigures s.charge s.cfg.tolerance (s.line l).charging c release).units
          (callFigures s.charge s.cfg.tolerance (s.line l).charging c release).cost
        else s.desk k := by
  unfold chargeAndLog
  dsimp only
  cases out : c.out with
  | none =>
    dsimp only
    obtain ⟨notices, lost, armed, filled⟩ := logFill_frame (logRecordOf l s.log.sequence c cause release
      (callFigures s.charge s.cfg.tolerance (s.line l).charging c release)) (s.setLine l (s.line l).released)
    exact ⟨notices, lost, s.docs.passAsked, s.desks, armed, Prod.ext filled rfl, fun _ => rfl, nofun⟩
  | some o =>
    dsimp only
    generalize figures : callFigures s.charge s.cfg.tolerance (s.line l).charging c release = f
    obtain ⟨notices, lost, passAsked, desks, added, totals⟩ := deskAdd_frame o.desk f.units f.cost
      (s.modLine l fun x => { x with charging := { x.charging with captured := false } })
    rw [added]
    obtain ⟨notices', lost', armed, filled⟩ := logFill_frame (logRecordOf l s.log.sequence c cause release f)
      { s.setLine l (s.line l).released with
        desks, link := { s.link with notices, lost }, docs := { s.docs with passAsked } }
    refine ⟨notices', lost', passAsked, desks, armed, Prod.ext filled rfl, nofun, fun o' same k => ?_⟩
    · obtain rfl := Option.some.inj same
      rw [totals]
      split
      · rename_i here
        rw [here]
        rfl
      · rfl

/-! ### The line on hook (R87, R115, R119) -/

/-- A line on hook in REST after a call. -/
def Line.onHook (x : Line) (cause : Cause) : Line :=
  { x with
    state := .rest, attempt := none, call := none, lastCause := some cause, proc := .reset, send := .reset, recv := .reset,
    params := { x.params with detector := .disarmed } }

/-- The last part of a release: REST, buffers emptied, requests withdrawn, a pass asked for. -/
def onHook (l : LineNo) (cause : Cause) (s : State) : State :=
  askPass (withdraw (.lc l) ((changeState l .rest (some cause) s).modLine l fun x => { x with
    attempt := none, call := none, lastCause := some cause, proc := .reset, send := .reset, recv := .reset,
    params := { x.params with detector := .disarmed } }))

theorem onHook_frame (l : LineNo) (cause : Cause) (s : State) : ∃ notices lost, onHook l cause s =
    { s.setLine l ((s.line l).onHook cause) with
      link := { s.link with notices, lost }, docs := { s.docs with passAsked := true },
      store := (withdraw (.lc l) s).store } := by
  obtain ⟨notices, lost, changed⟩ := changeState_frame l .rest (some cause) s
  refine ⟨notices, lost, ?_⟩
  unfold onHook
  rw [changed]
  have here : (s.setLine l { s.line l with state := .rest }).line l = { s.line l with state := .rest } :=
    s.line_setLine_self l _
  have twice : (s.setLine l { s.line l with state := .rest }).setLine l
      { (s.setLine l { s.line l with state := .rest }).line l with
        attempt := none, call := none, lastCause := some cause, proc := .reset, send := .reset, recv := .reset,
        params := { ((s.setLine l { s.line l with state := .rest }).line l).params with detector := .disarmed } } =
      s.setLine l ((s.line l).onHook cause) := by
    rw [here, State.setLine_setLine]
    rfl
  exact congrArg (fun lines => { s with
    lines, link := { s.link with notices, lost }, docs := { s.docs with passAsked := true },
    store := (withdraw (.lc l) s).store }) (congrArg State.lines twice)

/-- The steps of a release, for a call whose page in reception, if any, is closed already. -/
theorem hangUp_steps {quiet : Bool} {l : LineNo} {cause : Cause} {c : CallRec} {s v : State}
    (closed : closeReceived quiet l s = v) (call : (v.line l).call = some c) (now : v.tk = s.tk) :
    hangUp quiet l cause s = onHook l cause (reportEnd quiet l (c.ended cause s.now s.tk.suspect) cause s.now
      (chargeAndLog l (c.ended cause s.now s.tk.suspect) cause s.now v).2
      (chargeAndLog l (c.ended cause s.now s.tk.suspect) cause s.now v).1) := by
  unfold hangUp
  dsimp only
  rw [closed, call]
  dsimp only
  rw [now]
  rfl

theorem closeReceived_none {quiet : Bool} {l : LineNo} {s : State} (page : s.pageInReception l = none) :
    closeReceived quiet l s = s := by
  unfold closeReceived
  rw [page]
  cases s.callInbound l <;> rfl

/-- A call that receives nothing has no page in reception. -/
theorem pageInReception_outbound {l : LineNo} {c : CallRec} {s : State} (call : (s.line l).call = some c)
    (outbound : c.inbound = none) : s.pageInReception l = none := by
  unfold State.pageInReception State.callInbound
  rw [call]
  dsimp only
  rw [outbound]

/-- The log record of a released call. -/
def releaseRecord (l : LineNo) (c : CallRec) (cause : Cause) (s : State) : LogRecord :=
  logRecordOf l s.log.sequence (c.ended cause s.now s.tk.suspect) cause s.now
    (callFigures s.charge s.cfg.tolerance (s.line l).charging c s.now)

/-- The end of an OUT call: the report of its attempt's outcome, on the part with the call charged and logged. -/
theorem hangUp_out {quiet : Bool} {l : LineNo} {cause : Cause} {c : CallRec} {o : OutCall} {s : State}
    (call : (s.line l).call = some c) (out : c.out = some o) (outbound : c.inbound = none) :
    ∃ notices lost passAsked desks armed,
      hangUp quiet l cause s = onHook l cause (outcomeReport quiet o.doc o.index cause s.now (some s.log.sequence)
        { s.setLine l (s.line l).released with
          desks, link := { s.link with notices, lost }, docs := { s.docs with passAsked },
          log := s.log.filled (releaseRecord l c cause s) armed }) ∧
      ∀ k, desks.get k = if k = o.desk then
        (s.desk k).charged (callFigures s.charge s.cfg.tolerance (s.line l).charging c s.now).units
          (callFigures s.charge s.cfg.tolerance (s.line l).charging c s.now).cost
        else s.desk k := by
  obtain ⟨notices, lost, passAsked, desks, armed, charged, -, totals⟩ :=
    chargeAndLog_frame l (c.ended cause s.now s.tk.suspect) cause s.now s
  have ended_out : (c.ended cause s.now s.tk.suspect).out = some o := by rw [CallRec.ended_eq]; exact out
  rw [callFigures_ended] at charged totals
  refine ⟨notices, lost, passAsked, desks, armed, ?_, totals o ended_out⟩
  rw [hangUp_steps (closeReceived_none (pageInReception_outbound call outbound)) call rfl, charged]
  unfold reportEnd
  rw [ended_out]
  rfl

/-- A release, by what it leaves of the line, the log and the dispatcher. -/
theorem released_of {l : LineNo} {c : CallRec} {cause : Cause} {armed : Bool} {s t : State}
    (line : t.line l = (s.line l).released.onHook cause) (others : OtherLines l s t)
    (log : t.log = s.log.filled (releaseRecord l c cause s) armed) (asked : t.docs.passAsked = true) :
    Released l c cause (releaseRecord l c cause s) s t := by
  have ended := c.ended_eq cause s.now s.tk.suspect
  refine ⟨congrArg Line.state line, congrArg Line.call line, congrArg Line.attempt line, congrArg Line.lastCause line,
    congrArg (fun x : Line => x.params.detector) line, (congrArg Line.config line :), others, congrArg CallLog.records log,
    congrArg CallLog.reserved log, congrArg CallLog.sequence log, rfl, rfl, ?_, ?_, ?_, rfl, rfl,
    ⟨rfl, rfl, rfl, rfl, rfl⟩, asked⟩ <;>
  · show (_ : _) = _
    unfold releaseRecord logRecordOf
    rw [ended]

theorem releaseRecord_pages (l : LineNo) (c : CallRec) (cause : Cause) (s : State) :
    (releaseRecord l c cause s).pages = c.pages := by
  unfold releaseRecord logRecordOf
  rw [c.ended_eq]

/-- What the end of an OUT call leaves: its line, the log, its desk and its destination. -/
theorem hangUp_out_effect {quiet : Bool} {l : LineNo} {cause : Cause} {c : CallRec} {o : OutCall} {d : Doc} {r : Nat}
    {x : Dest} {s : State} (call : (s.line l).call = some c) (out : c.out = some o) (outbound : c.inbound = none)
    (there : s.doc o.doc = some d) (listed : d.dests[o.index]? = some r) (record : s.dest r = some x) :
    ∃ store link docs desks armed,
      hangUp quiet l cause s = { s.setLine l ((s.line l).released.onHook cause) with
        store, link, docs, desks, log := s.log.filled (releaseRecord l c cause s) armed } ∧
      docs.pool = s.docs.pool.set r (some (x.reported d cause s.now (some s.log.sequence) s.now)) ∧
      docs.passAsked = true ∧
      ∀ k, desks.get k = if k = o.desk then
        (s.desk k).charged (callFigures s.charge s.cfg.tolerance (s.line l).charging c s.now).units
          (callFigures s.charge s.cfg.tolerance (s.line l).charging c s.now).cost
        else s.desk k := by
  obtain ⟨notices, lost, passAsked, desks, armed, ends, totals⟩ := hangUp_out (quiet := quiet) (cause := cause) call out outbound
  rw [ends]
  let v : State := { s.setLine l (s.line l).released with
    desks, link := { s.link with notices, lost }, docs := { s.docs with passAsked },
    log := s.log.filled (releaseRecord l c cause s) armed }
  have v_line : v.line l = (s.line l).released := s.line_setLine_self l _
  obtain ⟨pool, -⟩ := outcomeReport_pool (quiet := quiet) (cause := cause) (release := s.now)
    (logged := some s.log.sequence) (s := v) there listed record
  obtain ⟨store, link, docs, reports⟩ := outcomeReport_docsStoreLink quiet o.doc o.index cause s.now (some s.log.sequence) v
  obtain ⟨notices', lost', hooks⟩ := onHook_frame l cause
    (outcomeReport quiet o.doc o.index cause s.now (some s.log.sequence) v)
  rw [reports] at pool hooks
  refine ⟨(withdraw (.lc l) { v with store, link, docs }).store, { link with notices := notices', lost := lost' },
    { docs with passAsked := true }, desks, armed, ?_, pool, rfl, totals⟩
  show onHook l cause (outcomeReport quiet o.doc o.index cause s.now (some s.log.sequence) v) = _
  rw [reports, hooks]
  have twice : State.setLine v l ((v.line l).onHook cause) = State.setLine v l ((s.line l).released.onHook cause) := by
    rw [v_line]
  have lines : (State.setLine v l ((v.line l).onHook cause)).lines = (s.setLine l ((s.line l).released.onHook cause)).lines := by
    rw [twice]
    exact (congrArg State.lines (s.setLine_setLine l (s.line l).released ((s.line l).released.onHook cause)) :)
  exact congrArg (fun lines => { s with
    lines, store := (withdraw (.lc l) { v with store, link, docs }).store,
    link := { link with notices := notices', lost := lost' }, docs := { docs with passAsked := true }, desks,
    log := s.log.filled (releaseRecord l c cause s) armed }) lines

/-! ### A call before connect (R85 to R87) -/

/-- Settles O39. -/
theorem callsAnsweredOrFailed : Obligations.CallsAnsweredOrFailed := by
  refine ⟨fun l a c s on rings attempt call => ?_, ?_⟩
  · have row : exec (.answerIndication l) s = .next (answerIndication l s) := exec_event (i := .answerIndication l) on rfl
    rw [row]
    refine congrArg _ ((if_pos rings).trans ?_)
    unfold connectOut
    dsimp only
    rw [State.modLine_eq, changeState_setLine, call, attempt, Option.map_some, CallRec.stamped_eq]
    have other : (s.line l).state ≠ .negotiating := by obtain h | h := rings <;> rw [h] <;> nofun
    exact if_neg other
  · intro i l c o cause d k x s on quiet call out outbound unconnected there listed record which
    obtain ⟨store, link, docs, desks, armed, ends, pool, asked, -⟩ :=
      hangUp_out_effect (quiet := false) (cause := cause) call out outbound there listed record
    have row : exec i s = .next (hangUp false l cause s) := by
      have still : (hangUp false l cause s).scan = s.scan := by rw [ends]; rfl
      have runs (act : State → State) (row : exec i s = .next (whenOn (fun s => scanRetry (act s)) s))
          (hangs : act s = hangUp false l cause s) : exec i s = .next (hangUp false l cause s) := by
        rw [exec_event on row, hangs, scanRetry_eq (by rw [still]; exact quiet)]
      obtain ⟨rfl, rfl, state⟩ | ⟨rfl, rfl, state⟩ | ⟨rfl, rfl, state, symbol⟩ := which
      · exact runs (busyTone l) rfl (if_pos state)
      · exact runs (answerTimeout l) rfl (if_pos state)
      · refine runs (dialToneTimeout l) rfl (if_pos ?_)
        obtain h | h := state <;> simp [h, symbol, CallState.playing]
    have unbilled : callFigures s.charge s.cfg.tolerance (s.line l).charging c s.now = .none := by
      unfold callFigures
      rw [unconnected]
    have line : (s.setLine l ((s.line l).released.onHook cause)).line l = (s.line l).released.onHook cause :=
      s.line_setLine_self l _
    obtain ⟨state, call_, attempt, cause_, -, -, others, records, reserved, sequence, r_sequence, r_line, r_out, r_start,
      r_connect, r_release, r_cause, ⟨duration, -, -, units, cost⟩, -⟩ :=
      released_of (c := c) (cause := cause) (s := s)
        (t := { s.setLine l ((s.line l).released.onHook cause) with
          store, link, docs, desks, log := s.log.filled (releaseRecord l c cause s) armed }) line (setLine_others l _ s) rfl asked
    rw [unbilled] at duration units cost
    refine ⟨_, releaseRecord l c cause s, x.reported d cause s.now (some s.log.sequence) s.now, row.trans (congrArg _ ends), state,
      call_, attempt, cause_, others, records, r_sequence, r_line, r_out.trans out, r_cause, r_start, r_connect.trans unconnected,
      r_release, duration, units, cost, reserved, sequence, ?_, rfl, rfl, rfl, asked⟩
    show docs.pool.get k = _
    rw [pool]
    exact Table.get_set_self ..

end Sys2Proof.Machine
end

section
/-! PROOFS. The carrier loss detector, negotiation and training (R98 to R102, R116, R117). -/

namespace Sys2Proof.Machine

/-! ### The carrier (R116, R117) -/

theorem carrierBegin_eq {l : LineNo} {s : State} (burst : Bool) (listens : (s.line l).listening = true) :
    carrierBegin l burst s = s.setLine l { s.line l with
      proc := { (s.line l).proc with incoming := true },
      params := { (s.line l).params with
        detector := if (s.line l).params.trained = true ∧ burst = false then .armed else .disarmed } } := by
  refine (if_pos listens).trans ?_
  simp only [State.modProc, State.modParams, State.modLine_eq, State.line_setLine_self, State.setLine_setLine]
  cases (s.line l).params.trained <;> cases burst <;> rfl

section
variable {l : LineNo} {s : State}

theorem carrierAbsent_armed (listens : (s.line l).listening = true) (armed : (s.line l).params.detector = .armed) :
    carrierAbsent l s = s.modParams l fun q => { q with detector := .counting } := by
  simp only [carrierAbsent, listens, armed, Bool.not_true, if_neg Bool.false_ne_true]

theorem carrierAbsent_disarmed (listens : (s.line l).listening = true) (disarmed : (s.line l).params.detector = .disarmed) :
    carrierAbsent l s = s.setLine l (s.line l).receptionOver := by
  simp only [carrierAbsent, listens, disarmed, Bool.not_true, if_neg Bool.false_ne_true, unheard_eq]

theorem carrierAbsent_counting (listens : (s.line l).listening = true) (counting : (s.line l).params.detector = .counting) :
    carrierAbsent l s = s := by
  simp only [carrierAbsent, listens, counting, Bool.not_true, if_neg Bool.false_ne_true]

end

/-- Settles O48. -/
theorem carrierWatched : Obligations.CarrierWatched := by
  intro l s on x
  have absent : exec (.carrierAbsent l) s = .next (carrierAbsent l s) := exec_event (i := .carrierAbsent l) on rfl
  have returns : exec (.carrierReturn l) s = .next (carrierReturn l s) := exec_event (i := .carrierReturn l) on rfl
  have begins (burst : Bool) : exec (.remoteCarrierBegin l burst) s = .next (carrierBegin l burst s) :=
    exec_event (i := .remoteCarrierBegin l burst) (act := carrierBegin l burst) on rfl
  refine ⟨fun burst listens => ?_, fun listens armed => ?_, fun listens disarmed => ?_, fun listens counting => ?_,
    fun still => ⟨?_, fun quiet => ?_⟩, fun listens counting => ?_, fun deaf => ⟨fun burst => ?_, ?_, ?_⟩,
    fun listens storing quiet => ⟨fun sequence block round count final => ?_, fun sequence lineCount next => ?_⟩⟩
  · rw [begins, carrierBegin_eq burst listens]
  · rw [absent, carrierAbsent_armed listens armed]
    rfl
  · rw [absent, carrierAbsent_disarmed listens disarmed]
  · rw [returns]
    exact congrArg _ (if_pos (by
      rw [show (s.line l).listening = true from listens, show (s.line l).params.detector = .counting from counting]; rfl))
  · rw [returns]
    exact congrArg _ (if_neg (by
      rw [Bool.and_eq_true, decide_eq_true_eq]; exact fun both => still both.2))
  · have lost : carrierLossExpiry l s = s := if_neg (by
      rw [Bool.and_eq_true, decide_eq_true_eq]; exact fun both => still both.2)
    have row : exec (.carrierLossExpiry l) s = .next (scanRetry (carrierLossExpiry l s)) :=
      exec_event (i := .carrierLossExpiry l) (act := fun s => scanRetry (carrierLossExpiry l s)) on rfl
    rw [row, lost, scanRetry_eq quiet]
  · rw [absent, carrierAbsent_counting listens counting]
  · rw [begins]
    exact congrArg _ (if_neg (ne_true_of_eq_false deaf))
  · rw [absent]
    exact congrArg _ (if_pos (by rw [show (s.line l).listening = false from deaf]; rfl))
  · rw [returns]
    exact congrArg _ (if_neg (by rw [show (s.line l).listening = false from deaf]; nofun))
  · have row : exec (.blockEndReceived l sequence block round count final) s = .next _ :=
      exec_event (i := .blockEndReceived l sequence block round count final)
        (act := fun s => scanRetry (blockEndReceived l sequence block round count final s)) on rfl
    have over_ : blockEndReceived l sequence block round count final s = s.setLine l x.receptionOver :=
      (if_neg (by rw [show (s.line l).listening = true from listens]; nofun)).trans ((if_pos storing).trans (unheard_eq l s))
    rw [row, over_, scanRetry_eq (by exact quiet)]
  · have row : exec (.pageEndReceived l sequence lineCount next) s = .next _ :=
      exec_event (i := .pageEndReceived l sequence lineCount next)
        (act := fun s => scanRetry (pageEndReceived l sequence lineCount next s)) on rfl
    have over_ : pageEndReceived l sequence lineCount next s = s.setLine l x.receptionOver :=
      (if_neg (by rw [show (s.line l).listening = true from listens]; nofun)).trans ((if_pos storing).trans (unheard_eq l s))
    rw [row, over_, scanRetry_eq (by exact quiet)]

/-! ### Training (R101, R102) -/

theorem changeState_same {l : LineNo} {new : CallState} {cause : Option Cause} {s : State} (already : (s.line l).state = new) :
    changeState l new cause s = s := if_pos already

theorem stepDownLine_low {l : LineNo} {s : State} {cur low : LineRate} (rate : (s.line l).params.rate = some cur)
    (next : stepDown cur = some low) :
    stepDownLine l s = (s.setLine l { s.line l with
      params := { (s.line l).params with rate := some low, stepDowns := min 5 ((s.line l).params.stepDowns + 1) } }, true) := by
  simp only [stepDownLine, rate, next]
  rfl

theorem stepDownLine_last {l : LineNo} {s : State} {cur : LineRate} (rate : (s.line l).params.rate = some cur)
    (last : stepDown cur = none) : stepDownLine l s = (s, false) := by
  simp only [stepDownLine, rate, last]

section
variable {l : LineNo} {s : State}

theorem answerGood_eq (rate : LineRate) (training : (s.line l).state = .training) :
    answerGood l rate s = s.entering l { (s.line l).answering (.burst rate) (.msg .trainGood) with
      state := .receiving,
      params := { ((s.line l).answering (.burst rate) (.msg .trainGood)).params with trained := true },
      proc := { ((s.line l).answering (.burst rate) (.msg .trainGood)).proc with badRates := [], awaitQuit := none } } := by
  unfold answerGood
  rw [heard_eq, State.modLine_eq, State.line_setLine_self, State.setLine_setLine]
  dsimp only
  rw [holdReady_changeState _ _ _ _ _ (by rfl) (by show (s.line l).state ≠ _; rw [training]; nofun)]
  rfl

/-- A burst answered TRAIN_BAD before is answered so again. -/
theorem answerBad_again {rate : LineRate} (training : (s.line l).state = .training)
    (again : (s.line l).proc.repeatsBad rate = true) :
    answerBad l rate s = s.setLine l ((s.line l).answering (.burst rate) (.msg .trainBad)) := by
  unfold answerBad
  dsimp only
  rw [heard_eq, changeState_same (by rw [State.line_setLine_self]; exact training), if_pos again, holdReady_eq,
    State.line_setLine_self, State.setLine_setLine]
  rfl

/-- A burst answered TRAIN_BAD for the first time steps the line down, or has it await QUIT. -/
theorem answerBad_steps {rate cur : LineRate} (training : (s.line l).state = .training)
    (first : (s.line l).proc.repeatsBad rate = false) (now : (s.line l).params.rate = some cur) :
    let y := (s.line l).answering (.burst rate) (.msg .trainBad)
    (∀ low, stepDown cur = some low → answerBad l rate s = s.setLine l { y with
      params := { y.params with rate := some low, stepDowns := min 5 ((s.line l).params.stepDowns + 1) },
      proc := { y.proc with badRates := rate :: (s.line l).proc.badRates } }) ∧
    (stepDown cur = none → answerBad l rate s = s.setLine l { y with
      proc := { y.proc with badRates := rate :: (s.line l).proc.badRates, awaitQuit := some .lineQuality } }) := by
  intro y
  have step {t : State} {ok : Bool} (stepped : stepDownLine l (s.setLine l { s.line l with
      params := { (s.line l).params with repeats := 0, detector := .disarmed },
      proc := { (s.line l).proc with
        timer := false, incoming := false, lastIn := some (.burst rate), badRates := rate :: (s.line l).proc.badRates } }) =
        (t, ok)) : answerBad l rate s = holdReady l (.msg .trainBad)
          (if ok then t else t.modProc l fun p => { p with awaitQuit := some .lineQuality }) := by
    unfold answerBad
    dsimp only
    rw [heard_eq, changeState_same (by rw [State.line_setLine_self]; exact training), first, if_neg nofun, State.modProc,
      State.modLine_eq, State.line_setLine_self, State.setLine_setLine, stepped]
    cases ok <;> rfl
  refine ⟨fun low next => ?_, fun last => ?_⟩
  · rw [step (stepDownLine_low (by rw [State.line_setLine_self]; exact now) next), if_pos rfl, holdReady_eq]
    simp only [State.line_setLine_self, State.setLine_setLine]
    rfl
  · rw [step (stepDownLine_last (by rw [State.line_setLine_self]; exact now) last), if_neg nofun, holdReady_eq]
    simp only [State.modProc, State.modLine_eq, State.line_setLine_self, State.setLine_setLine]
    rfl

end

/-! ### A line that changes its call state (R82) -/

section
variable {l : LineNo} {s : State} {x : Line}

theorem changeState_entering {new : CallState} (before : (s.line l).state = x.state) (other : x.state ≠ new) :
    changeState l new none (s.setLine l x) = s.entering l { x with state := new } := by
  rw [changeState_setLine, if_neg other, State.entering, before]
  rfl

theorem entering_line : (s.entering l x).line l = x := by
  rw [State.entering, raise_line, State.line_setLine_self]

theorem entering_docs : (s.entering l x).docs = s.docs := by
  obtain ⟨_, _, raised⟩ := raise_frame .lineState ([oct l.val, (s.line l).state.code, x.state.code] ++ eTime s.now ++ [0])
    (s.setLine l x)
  rw [State.entering, raised]
  rfl

theorem entering_store : (s.entering l x).store = s.store := by rw [State.entering, raise_store]; rfl

theorem entering_setLine {y : Line} (same : y.state = x.state) : (s.entering l x).setLine l y = s.entering l y := by
  rw [State.entering, raise_setLine, State.setLine_setLine, State.entering, same]

/-- What a line's transmissions are of: its call, its document, its page. -/
theorem callDoc_congr {t : State} (docs : t.docs = s.docs) (call : (t.line l).call = (s.line l).call) :
    t.callDoc l = s.callDoc l := by
  unfold State.callDoc State.doc
  rw [call, docs]

theorem cancelAsked_congr {t : State} (docs : t.docs = s.docs) (call : (t.line l).call = (s.line l).call) :
    t.cancelAsked l = s.cancelAsked l := by
  unfold State.cancelAsked
  rw [callDoc_congr docs call]

theorem sendPage_congr {t : State} (docs : t.docs = s.docs) (dir : t.store.dir = s.store.dir)
    (call : (t.line l).call = (s.line l).call) (pos : Nat) : t.sendPage l pos = s.sendPage l pos := by
  unfold State.sendPage State.entry
  rw [callDoc_congr docs call, dir]

theorem pageSent_congr {t : State} (docs : t.docs = s.docs) (dir : t.store.dir = s.store.dir)
    (call : (t.line l).call = (s.line l).call) (pos : (t.line l).params.pagePos = (s.line l).params.pagePos) :
    t.pageSent l = s.pageSent l := by
  unfold State.pageSent
  rw [pos]
  exact sendPage_congr docs dir call _

/-- A line that ends its call with QUIT after the turnaround (R112). -/
theorem releaseLater_setLine {cause : Cause} (before : (s.line l).state = x.state) (other : x.state ≠ .releasing) :
    releaseLater l cause (s.setLine l x) = s.entering l { x.withCause cause with
      state := .releasing, params := { x.params with detector := .disarmed },
      proc := { x.proc with tx := .ready (.msg .quit), timer := false, incoming := false } } := by
  unfold releaseLater
  dsimp only
  rw [State.modCall, State.modLine_eq, State.line_setLine_self, State.setLine_setLine,
    holdReady_changeState _ _ _ _ _ (by exact before) (by exact other)]
  rfl

/-- The whole line block in hand is queued, to be sent after the turnaround (R105). -/
theorem queueBlock_eq {e : PageEntry} (page : s.pageSent l = some e) :
    queueBlock l s = s.setLine l { s.line l with
      params := { (s.line l).params with round := 0, detector := .disarmed },
      send := { (s.line l).send with
        queue := roundQueue (s.line l).params.chop e.byteLen (s.line l).send.block 0
          (List.range (min 64 (frameCount e.byteLen - 64 * (s.line l).send.block))),
        filling := false },
      proc := { (s.line l).proc with tx := .ready .frames, timer := false, incoming := false } } := by
  unfold queueBlock queueFrames
  rw [page]
  dsimp only
  rw [holdReady_eq, State.modLine_eq, State.line_setLine_self, State.setLine_setLine]
  rfl

end

theorem Line.awaitsTraining_iff {x : Line} : x.awaitsTraining = true ↔
    x.state = .training ∧ x.role = some .sender ∧ ∃ r, x.proc.lastOut = some (.burst r) := by
  unfold Line.awaitsTraining
  cases x.proc.lastOut with
  | none => simp
  | some out => cases out <;> simp

/-- Settles O43. -/
theorem trainingStepsDown : Obligations.TrainingStepsDown := by
  intro l s on listens training x
  have deaf : ¬(!(s.line l).listening) = true := by rw [listens]; nofun
  have bursts (rate : LineRate) (good : Bool) : exec (.trainingBurstReceived l rate good) s =
      .next (burstReceived l rate good s) := exec_event (i := .trainingBurstReceived l rate good)
        (act := burstReceived l rate good) on rfl
  have goods : exec (.trainGoodReceived l) s = .next (trainGoodReceived l s) := exec_event (i := .trainGoodReceived l) on rfl
  have bads : exec (.trainBadReceived l) s = .next (trainBadReceived l s) := exec_event (i := .trainBadReceived l) on rfl
  refine ⟨fun rate cur good role now fresh => ?_, fun rate good role last bad => ?_, fun q cur role out goesOn now => ?_⟩
  · have awaits : (s.line l).awaitsBurst = true := by
      rw [Line.awaitsBurst, show (s.line l).role = some .receiver from role, training]
      rfl
    have first : (s.line l).proc.repeatsBad rate = false := by
      simp only [Procedure.repeatsBad, Bool.and_eq_false_iff, decide_eq_false_iff_not]
      exact fresh
    have judges : burstReceived l rate good s = if good && (s.line l).params.rate = some rate && !(s.line l).proc.repeatsBad rate
        then answerGood l rate s else answerBad l rate s := (if_neg deaf).trans (if_pos awaits)
    rw [first, show (s.line l).params.rate = some cur from now] at judges
    refine ⟨fun fine same => ?_, fun bad => ?_⟩
    · rw [bursts, judges, if_pos (by rw [fine, same]; simp), answerGood_eq rate training]
    · have low := answerBad_steps training first now
      obtain ⟨steps, ends⟩ := low
      rw [bursts, judges, if_neg (by
        obtain h | h := bad
        · simp [h]
        · simp [Ne.symm h])]
      refine congrArg _ ?_
      cases next : stepDown cur with
      | some low => exact steps low next
      | none => exact ends next
  · have awaits : (s.line l).awaitsBurst = true := by
      rw [Line.awaitsBurst, show (s.line l).role = some .receiver from role, training]
      rfl
    have again : (s.line l).proc.repeatsBad rate = true := by
      simp only [Procedure.repeatsBad, Bool.and_eq_true, decide_eq_true_eq]
      exact ⟨last, bad⟩
    rw [bursts]
    refine congrArg _ ((if_neg deaf).trans ((if_pos awaits).trans ((if_neg ?_).trans (answerBad_again training again))))
    rw [again]
    simp
  · have awaits : (s.line l).awaitsTraining = true := Line.awaitsTraining_iff.2 ⟨training, role, q, out⟩
    have asked (y : Line) (call : y.call = (s.line l).call) : ¬(s.setLine l y).cancelAsked l = true := by
      have same : (s.setLine l y).cancelAsked l = s.cancelAsked l :=
        cancelAsked_congr rfl (by rw [State.line_setLine_self]; exact call)
      rw [same, goesOn]
      nofun
    refine ⟨fun e page => ?_, ?_⟩
    · let y : Line := { x with
        params := { x.params with repeats := 0, detector := .disarmed, trained := true },
        proc := { x.proc with timer := false, incoming := false, lastIn := some (.msg .trainGood) } }
      have heard_ : (heard l (.msg .trainGood) s).modParams l (fun q => { q with trained := true }) = s.setLine l y := by
        rw [heard_eq, State.modParams, State.modLine_eq, State.line_setLine_self, State.setLine_setLine]
      have sends : (s.entering l { y with state := .sending }).pageSent l = some e := by
        refine (pageSent_congr entering_docs (congrArg Store.dir entering_store) ?_ ?_).trans page <;> rw [entering_line]
      rw [goods]
      refine congrArg _ ((if_neg deaf).trans ((if_pos awaits).trans ?_))
      rw [heard_]
      dsimp only
      rw [if_neg (asked y rfl), changeState_entering (by rfl) (by show (s.line l).state ≠ _; rw [training]; nofun),
        queueBlock_eq sends, entering_line, entering_setLine (by rfl)]
      rfl
    · let y : Line := { x with
        params := { x.params with repeats := 0, detector := .disarmed },
        proc := { x.proc with timer := false, incoming := false, lastIn := some (.msg .trainBad) } }
      have heard_ : heard l (.msg .trainBad) s = s.setLine l y := heard_eq ..
      have rate : ((s.setLine l y).line l).params.rate = some cur := by rw [State.line_setLine_self]; exact now
      have step : trainBadReceived l s = match stepDownLine l (s.setLine l y) with
          | (s, true) => holdBurst l s
          | (s, false) => releaseLater l .lineQuality s := by
        refine (if_neg deaf).trans ((if_pos awaits).trans ?_)
        rw [heard_]
        exact if_neg (asked y rfl)
      rw [bads, step]
      refine congrArg _ ?_
      cases next : stepDown cur with
      | none =>
        rw [stepDownLine_last rate next]
        exact releaseLater_setLine (by rfl) (by show (s.line l).state ≠ _; rw [training]; nofun)
      | some low =>
        rw [stepDownLine_low rate next]
        dsimp only
        unfold holdBurst
        rw [State.line_setLine_self, State.setLine_setLine, State.line_setLine_self]
        dsimp only
        rw [holdReady_eq, State.line_setLine_self, State.setLine_setLine]
        rfl

end Sys2Proof.Machine
end

section
/-! PROOFS. Negotiation: the OFFER held, taken or refused, and the CHOOSE (R98 to R100, R122). -/

namespace Sys2Proof.Machine

/-! ### What an OFFER lets the answerer choose (R99, R122) -/

theorem isUrgent_iff (table : Table (Option (List Byte))) (identity : List Byte) :
    isUrgent table identity = true ↔ ∃ k p, k < 16 ∧ table.get k = some p ∧ p <+: identity := by
  rw [isUrgent, List.any_eq_true]
  constructor
  · rintro ⟨k, small, begins⟩
    cases entry : table.get k with
    | none => rw [entry] at begins; exact nomatch begins
    | some p =>
      rw [entry] at begins
      exact ⟨k, p, List.mem_range.1 small, entry, List.isPrefixOf_iff_prefix.1 begins⟩
  · rintro ⟨k, p, small, entry, begins⟩
    refine ⟨k, List.mem_range.2 small, ?_⟩
    rw [entry]
    exact List.isPrefixOf_iff_prefix.2 begins

/-- The rate of the lowest place that is offered is the highest one. -/
theorem highestRate_of {rates : Byte} {r : LineRate} (offered : rates.getLsbD (lineRateIndex r) = true)
    (first : ∀ k, k < lineRateIndex r → rates.getLsbD k = false) : highestRate rates = some r := by
  cases r <;> simp only [lineRateIndex] at offered first <;>
    simp (disch := decide) only [highestRate, allLineRates, List.find?, lineRateIndex, offered, first]

theorem highestRate_none : highestRate 0 = none := rfl

theorem chooseOrder_none : chooseOrder 0 = none := rfl

theorem chooseOrder_some {orders : Byte} (few : orders.toNat < 4) (one : orders ≠ 0) :
    chooseOrder orders = some (if orders.getLsbD 0 then .msbFirst else .lsbFirst) := by
  obtain h | h | h | h : orders.toNat = 0 ∨ orders.toNat = 1 ∨ orders.toNat = 2 ∨ orders.toNat = 3 := by omega
  · exact absurd (BitVec.eq_of_toNat_eq h) one
  · obtain rfl : orders = 1 := BitVec.eq_of_toNat_eq h
    rfl
  · obtain rfl : orders = 2 := BitVec.eq_of_toNat_eq h
    rfl
  · obtain rfl : orders = 3 := BitVec.eq_of_toNat_eq h
    rfl

/-! ### Messages taken in NEGOTIATING -/

theorem State.inDoc_some {s : State} {h : InHandle} {d : InDoc} (there : s.inDoc h = some d) :
    h.slot < 32 ∧ d.state ≠ .free ∧ d.issue = h.issue ∧ s.recept.docs.get h.slot = d := by
  unfold State.inDoc at there
  dsimp only at there
  split at there
  · rename_i fits
    obtain rfl := Option.some.inj there
    exact ⟨fits.1, fits.2.1, fits.2.2, rfl⟩
  · exact nomatch there

theorem entering_frame (l : LineNo) (x : Line) (s : State) : ∃ notices lost, s.entering l x =
    { s.setLine l x with link := { s.link with notices, lost } } := raise_frame ..

theorem entering_others (l : LineNo) (x : Line) (s : State) : OtherLines l s (s.entering l x) := by
  obtain ⟨_, _, entered⟩ := entering_frame l x s
  rw [entered]
  exact setLine_others l x s

theorem entering_only (l : LineNo) (x : Line) (s : State) : OnlyChanges [.lines, .link] s (s.entering l x) := by
  obtain ⟨_, _, entered⟩ := entering_frame l x s
  rw [entered]
  intro p other
  cases p <;> first | rfl | exact absurd (by decide) other

theorem Line.receptionOver_count (x : Line) (n : Nat) :
    Line.receptionOver { x with proc := { x.proc with badOffers := n } } =
      { x.receptionOver with proc := { x.receptionOver.proc with badOffers := n } } := by
  unfold Line.receptionOver
  cases x.proc.heldAnswer <;> rfl

theorem Line.receptionOver_state (x : Line) : x.receptionOver.state = x.state := by
  unfold Line.receptionOver
  cases x.proc.heldAnswer <;> rfl

theorem Line.receptionOver_detector (x : Line) : x.receptionOver.params.detector = .disarmed := by
  unfold Line.receptionOver
  cases x.proc.heldAnswer <;> rfl

theorem Line.receptionOver_incoming (x : Line) : x.receptionOver.proc.incoming = false := by
  unfold Line.receptionOver
  cases x.proc.heldAnswer <;> rfl

section
variable {l : LineNo} {s : State}

/-- An OFFER that leaves something to choose: the CHOOSE is held, in TRAINING. -/
theorem takeOffer_chooses {identity : List Byte} {rates orders : Byte} {chop : Bool} {cls : ResClass} {r : LineRate}
    {order : BitOrder} {u : State} {x : Line} (hands : handIdentity l identity s = u.setLine l x)
    (negotiates : x.state = .negotiating) (before : (u.line l).state = .negotiating) (cfg : u.cfg = s.cfg)
    (rate : highestRate rates = some r) (chosen : chooseOrder orders = some order) :
    takeOffer l identity rates orders chop cls s = u.entering l
      { x.answering (.msg (.offer identity rates orders chop cls)) (.msg (.choose s.cfg.identity r order chop 7)) with
        state := .training, recv := { x.recv with cls },
        params := { x.params with
          repeats := 0, detector := .disarmed, remoteId := presentId identity, rateChosen := some r, rate := some r,
          order := some order, chop } } := by
  unfold takeOffer
  rw [hands, rate, chosen]
  dsimp only
  rw [heard_eq, State.modLine_eq, State.line_setLine_self, State.setLine_setLine, State.line_setLine_self,
    State.setLine_setLine]
  dsimp only
  rw [holdReady_changeState _ _ _ _ _ (by exact before.trans negotiates.symm) (by exact negotiates ▸ nofun)]
  show u.entering l _ = u.entering l _
  rw [← cfg]
  rfl

/-- An OFFER without a rate or a bit order is counted and not answered; the fourth one ends the call. -/
theorem takeOffer_unfit {identity : List Byte} {rates orders : Byte} {chop : Bool} {cls : ResClass}
    (unfit : rates = 0 ∨ orders = 0) (seen : (s.line l).proc.offerSeen = true) :
    takeOffer l identity rates orders chop cls s =
      if 4 ≤ (s.line l).proc.badOffers + 1 then releaseLater l .timeout (s.setLine l { (s.line l).receptionOver with
        proc := { (s.line l).receptionOver.proc with badOffers := (s.line l).proc.badOffers + 1 } })
      else s.setLine l { (s.line l).receptionOver with
        proc := { (s.line l).receptionOver.proc with badOffers := (s.line l).proc.badOffers + 1 } } := by
  have hands : handIdentity l identity s = s := if_pos seen
  have counted : unheard l (s.modProc l fun p => { p with badOffers := p.badOffers + 1 }) =
      s.setLine l { (s.line l).receptionOver with
        proc := { (s.line l).receptionOver.proc with badOffers := (s.line l).proc.badOffers + 1 } } := by
    rw [unheard_eq, State.modProc, State.modLine_eq, State.line_setLine_self, State.setLine_setLine,
      Line.receptionOver_count]
  have step : takeOffer l identity rates orders chop cls s =
      if 4 ≤ ((unheard l (s.modProc l fun p => { p with badOffers := p.badOffers + 1 })).line l).proc.badOffers then
        releaseLater l .timeout (unheard l (s.modProc l fun p => { p with badOffers := p.badOffers + 1 }))
      else unheard l (s.modProc l fun p => { p with badOffers := p.badOffers + 1 }) := by
    unfold takeOffer
    rw [hands]
    obtain rfl | rfl := unfit
    · rw [highestRate_none]
    · rw [chooseOrder_none]
      cases highestRate rates <;> rfl
  rw [step, counted, State.line_setLine_self]

end

/-- Settles O42. -/
theorem negotiationChooses : Obligations.NegotiationChooses := by
  intro l s on listens negotiates x
  have deaf : ¬(!(s.line l).listening) = true := by rw [listens]; nofun
  have quiet : (s.line l).proc.tx = .quiet := of_decide_eq_true (Bool.and_eq_true_iff.1 listens).2
  refine ⟨fun e role silent page => ?_, fun identity rates orders chop cls role short rates_ orders_ => ?_,
    fun identity rate order chop classes e role sent short classes_ goesOn page => ?_⟩
  · have row : exec (.remoteAnswerToneEnd l) s = .next (remoteToneEnd l s) := exec_event (i := .remoteAnswerToneEnd l) on rfl
    rw [row]
    refine congrArg _ ((if_pos ⟨negotiates, role, quiet, silent⟩).trans ?_)
    rw [page, holdReady_eq]
    rfl
  · intro m
    have row : exec (.offerReceived l identity rates orders chop cls) s =
        .next (takeOffer l identity rates orders chop cls s) := by
      rw [exec_event (i := .offerReceived l identity rates orders chop cls)
        (act := offerReceived l identity rates orders chop cls) on rfl]
      refine congrArg _ ((if_neg deaf).trans (if_pos ⟨negotiates, role, ?_⟩))
      simp [Msg.inRange, short, rates_, orders_]
    refine ⟨fun r c h d offered first one call inbound doc unseen => ?_, fun unfit seen few => ?_, fun unfit seen last => ?_⟩
    · let d' : InDoc := if identity = [] then { d with sender := none, urgent := false }
        else { d with sender := some identity, urgent := isUrgent s.recept.urgentTable identity }
      let u : State := s.setInDoc h.slot d'
      have hands : handIdentity l identity s = u.setLine l { x with proc := { x.proc with offerSeen := true } } := by
        have mine : (s.modProc l fun p => { p with offerSeen := true }).callInbound l = some h := by
          unfold State.callInbound
          rw [State.modProc, State.modLine_eq, State.line_setLine_self]
          dsimp only
          rw [show (s.line l).call = some c from call]
          exact inbound
        have there : (s.modProc l fun p => { p with offerSeen := true }).inDoc h = some d := doc
        refine (if_neg (by rw [show (s.line l).proc.offerSeen = false from unseen]; nofun)).trans ?_
        dsimp only
        rw [mine]
        dsimp only
        unfold noteSender
        rw [there]
        rfl
      refine ⟨_, d'.urgent, row.trans (congrArg _ (takeOffer_chooses hands negotiates negotiates rfl
        (highestRate_of offered first) (chooseOrder_some orders_ one))), entering_line, ?_, ?_, fun k other => ?_, ?_⟩
      · have recept (y : Line) : (u.entering l y).recept = u.recept := entering_only l y u .recept (by decide)
        rw [recept]
        refine (Table.get_set_self ..).trans ?_
        by_cases empty : identity = []
        · simp only [d', if_pos empty]
        · simp only [d', if_neg empty]
      · by_cases empty : identity = []
        · simp [d', empty]
        · simp only [d', if_neg empty, ne_eq, empty, not_false_eq_true, true_and]
          exact isUrgent_iff ..
      · exact entering_others l _ u k other
      · refine OnlyChanges.trans (t := u) (fun p other => ?_) ((entering_only l _ u).mono (by decide))
        cases p <;> first | rfl | exact absurd (by decide) other
    · rw [row, takeOffer_unfit unfit seen, if_neg (by show ¬4 ≤ x.proc.badOffers + 1; omega)]
    · rw [row, takeOffer_unfit unfit seen, if_pos (by show 4 ≤ x.proc.badOffers + 1; omega)]
      rw [releaseLater_setLine (by exact x.receptionOver_state.symm) (by
        show x.receptionOver.state ≠ _
        rw [x.receptionOver_state, show x.state = .negotiating from negotiates]
        nofun)]
      have params : { x.receptionOver.params with detector := .disarmed } = x.receptionOver.params := by
        rw [← x.receptionOver_detector]
      have proc : { x.receptionOver.proc with
            badOffers := x.proc.badOffers + 1, tx := .ready (.msg .quit), timer := false, incoming := false } =
          { x.receptionOver.proc with badOffers := 4, tx := .ready (.msg .quit), timer := false } := by
        rw [last, ← x.receptionOver_incoming]
      exact congrArg₂ (fun params proc => Host.Outcome.next (s.entering l
        { x.receptionOver.withCause .timeout with state := .releasing, params, proc })) params proc
  · intro m chosen
    have asked (y : Line) (call : y.call = (s.line l).call) : ¬(s.setLine l y).cancelAsked l = true := by
      have same : (s.setLine l y).cancelAsked l = s.cancelAsked l :=
        cancelAsked_congr rfl (by rw [State.line_setLine_self]; exact call)
      rw [same, goesOn]
      nofun
    let y : Line := { x with
      params := { x.params with
        repeats := 0, detector := .disarmed, remoteId := if identity = [] then none else some identity,
        rateChosen := some rate, rate := some rate, order := some order, chop, classes := some classes },
      proc := { x.proc with timer := false, incoming := false, lastIn := some (.msg m) } }
    have heard_ : (heard l (.msg m) s).modParams l (fun q => { q with
        remoteId := presentId identity, rateChosen := some rate, rate := some rate, order := some order, chop,
        classes := some classes }) = s.setLine l y := by
      rw [heard_eq, State.modParams, State.modLine_eq, State.line_setLine_self, State.setLine_setLine]
      rfl
    have same : (s.setLine l y).pageSent l = s.pageSent l := by
      refine pageSent_congr rfl rfl ?_ ?_ <;> rw [State.line_setLine_self]
    have sends : (s.setLine l y).pageSent l = some e := same.trans page
    have ranged : m.inRange = true := by simp [m, Msg.inRange, short, classes_]
    have takes : exec (.chooseReceived l identity rate order chop classes) s =
        .next (if hasClass classes e.cls then holdReady l (.burst rate) (changeState l .training none (s.setLine l y))
          else releaseLater l (.remoteRefused .cls) (s.setLine l y)) := by
      rw [exec_event (i := .chooseReceived l identity rate order chop classes)
        (act := chooseReceived l identity rate order chop classes) on rfl]
      refine congrArg _ ((if_neg deaf).trans ((if_pos ⟨negotiates, role, sent, ranged⟩).trans ?_))
      unfold takeChoose
      dsimp only
      rw [heard_, if_neg (asked y rfl), sends]
    have other (new : CallState) (differs : CallState.negotiating ≠ new) : y.state ≠ new := by
      show (s.line l).state ≠ new
      rw [negotiates]
      exact differs
    rw [takes, holdReady_changeState _ _ _ _ _ (by rfl) (other .training nofun),
      releaseLater_setLine (by rfl) (other .releasing nofun)]
    rfl

end Sys2Proof.Machine
end

section
/-! PROOFS. The sending side of a page: frames, fill, BLOCK_END, resend rounds and the blocks fetched (R18, R96, R97,
R103 to R106, R110, R112, R118). -/

namespace Sys2Proof.Machine

/-! ### The next thing sent (R18, R105) -/

section
variable {l : LineNo} {s : State} {x : Line} {f : Nat} {part : Option Nat} {rest : List (Nat × Option Nat)}

theorem nextFrame_data {d : List Byte} (queue : x.send.queue = (f, part) :: rest) (data : x.frameData f part = some d) :
    nextFrame l (s.setLine l x) = s.setLine l { x with
      send := { x.send with filling := false },
      proc := { x.proc with octets := inLineOrder x.params.order (pageFrame x.params.pageSeq x.params.block f part d) } } := by
  simp only [nextFrame, State.line_setLine_self, queue, data, State.modLine_eq, State.setLine_setLine]

theorem nextFrame_fill (queue : x.send.queue = (f, part) :: rest) (data : x.frameData f part = none)
    (begins : x.send.filling = false) :
    nextFrame l (s.setLine l x) = s.setLine l { x with
      send := { x.send with filling := true }, fillCount := min 65535 (x.fillCount + 1),
      proc := { x.proc with octets := [] } } := by
  simp only [nextFrame, State.line_setLine_self, queue, data, State.modLine_eq, State.setLine_setLine, begins]
  rfl

theorem nextFrame_end (queue : x.send.queue = []) :
    nextFrame l (s.setLine l x) = s.setLine l (x.sends (.msg (blockEndOf (s.setLine l x) l))) := by
  simp only [nextFrame, State.line_setLine_self, queue, beginSending_eq, State.setLine_setLine]

/-- QUIT sent at once in place of what was due (R96, R112). -/
theorem releaseNow_eq {cause : Cause} (other : (s.line l).state ≠ .releasing) :
    releaseNow l cause s = s.entering l { ((s.line l).withCause cause).sends (.msg .quit) with state := .releasing } := by
  unfold releaseNow
  dsimp only
  rw [State.modCall, State.modLine_eq, changeState_entering (by rfl) (by exact other), beginSending_eq, entering_line,
    entering_setLine (by rfl)]
  rfl

/-! ### The transmission held begins, a frame is over (R96, R105, R106) -/

theorem turnaroundExpiry_ready {what : Sending} (ready : (s.line l).proc.tx = .ready what)
    (goesOn : what = .msg .quit ∨ s.cancelAsked l = false) :
    turnaroundExpiry l s = if what = .frames then beginFrames l s else s.setLine l ((s.line l).sends what) := by
  have may (not_quit : what ≠ .msg .quit) : ¬s.cancelAsked l = true := by
    rw [goesOn.resolve_left not_quit]
    nofun
  unfold turnaroundExpiry
  rw [ready]
  cases what with
  | frames => exact (if_neg (may nofun)).trans (if_pos rfl).symm
  | burst r => exact (if_neg (may nofun)).trans ((beginSending_eq ..).trans (if_neg nofun).symm)
  | msg m =>
    rw [if_neg nofun]
    by_cases quit : m = .quit
    · rw [quit]
      exact beginSending_eq ..
    · have asked := may fun h => quit (Sending.msg.inj h)
      cases m <;> first | exact absurd rfl quit | exact (if_neg asked).trans (beginSending_eq ..)

theorem turnaroundExpiry_cancelled {what : Sending} (ready : (s.line l).proc.tx = .ready what) (other : what ≠ .msg .quit)
    (asked : s.cancelAsked l = true) : turnaroundExpiry l s = releaseNow l .cancelled s := by
  unfold turnaroundExpiry
  rw [ready]
  cases what with
  | frames | burst _ => exact if_pos asked
  | msg m => cases m <;> first | exact absurd rfl other | exact if_pos asked

theorem beginFrames_eq (l : LineNo) (s : State) : beginFrames l s = nextFrame l (s.setLine l { s.line l with
    params := { (s.line l).params with detector := .disarmed },
    proc := { (s.line l).proc with tx := .sending .frames, timer := false, incoming := false } }) := by
  simp only [beginFrames, State.modProc, State.modParams, State.modLine_eq, State.line_setLine_self, State.setLine_setLine]

/-- A line whose frame has been sent, counted when it was sent again. -/
def Line.frameOver (x : Line) (rest : List (Nat × Option Nat)) : Line :=
  { x with
    send := { x.send with queue := rest },
    params := { x.params with
      framesResent := if 0 < x.params.round then min 65535 (x.params.framesResent + 1) else x.params.framesResent } }

theorem frameSent_eq {q : Nat × Option Nat} {rest : List (Nat × Option Nat)} (sending : (s.line l).proc.tx = .sending .frames)
    (queue : (s.line l).send.queue = q :: rest) (data : (s.line l).send.filling = false)
    (goesOn : rest = [] → s.cancelAsked l = false) :
    frameSent l s = nextFrame l (s.setLine l ((s.line l).frameOver rest)) := by
  have same : (s.setLine l ((s.line l).frameOver rest)).cancelAsked l = s.cancelAsked l :=
    cancelAsked_congr rfl (by rw [State.line_setLine_self]; rfl)
  have due : ¬(decide (rest = []) && (s.setLine l ((s.line l).frameOver rest)).cancelAsked l) = true := by
    rw [same, Bool.and_eq_true, decide_eq_true_eq]
    rintro ⟨none, asked⟩
    rw [goesOn none] at asked
    exact nomatch asked
  unfold frameSent
  simp only [sending, queue, data]
  exact (if_neg nofun).trans (if_neg due)

end

/-! ### A block read for a sending line (R18, R118) -/

/-- A block as it was written is delivered, its page still there or not. -/
theorem readStep_clean {c : Client} {level addr k : Nat} {h : PageHandle} {s : State}
    (granted : s.store.port = some { req := { client := c, level, op := .read h k }, addr, void := false }) :
    readStep [] s = deliver c (Memory.readBlock s.mem addr) true (freePort s) := by
  unfold readStep
  rw [granted]
  rfl

section
variable {l : LineNo} {s : State} {b : TxBuffer}

/-- The buffer that took a block and wants more is the one being fetched. -/
theorem delivered_current {x : SendSide} {filled : TxBuffer} (more : filled.got.length < filled.want)
    (waits : x.buf0 = some b ∨ x.buf1 = some b ∧ ∀ b₀, x.buf0 = some b₀ → b₀.want ≤ b₀.got.length) :
    ∃ second, (if x.buf0 = some b then { x with buf0 := some filled } else { x with buf1 := some filled }).current =
      some (second, filled) := by
  by_cases zero : x.buf0 = some b
  · rw [if_pos zero]
    exact ⟨false, by simp [SendSide.current, more]⟩
  · obtain ⟨one, full⟩ := waits.resolve_left zero
    rw [if_neg zero]
    refine ⟨true, ?_⟩
    cases buf : x.buf0 with
    | none => simp [SendSide.current, more]
    | some b₀ => simp [SendSide.current, more, Nat.not_lt.2 (full b₀ buf)]

/-- With a line block to go on with, its next block is asked for. -/
theorem fetchOn_asks {fuel : Nat} {second : Bool} {d : Doc} {p : PageHandle} {e : PageEntry} (idle : s.outstanding (.lc l) = false)
    (sends : s.callDoc l = some d) (current : (s.line l).send.current = some (second, b)) (page : d.pages[b.pos]? = some p)
    (there : s.page p = some e) (closed : e.state = .closed) (has : 64 * b.block + b.got.length < e.committed) :
    fetchOn (fuel + 1) l s = queueRequest
      { client := .lc l, level := s.levelOf (.lc l), op := .read p (64 * b.block + b.got.length) } s := by
  unfold fetchOn
  rw [if_neg (by rw [idle]; nofun), sends]
  dsimp only
  rw [current]
  dsimp only
  rw [page]
  exact askRead_asked _ there closed has

end

/-! ### The frames marked (R106) -/

/-- The frames of a block that a resend list marks. -/
theorem markedFrames_below {marks : List Byte} {n : Nat} (few : n ≤ 64) :
    ((markedFrames marks).filter fun f => decide (f < n)) =
      (List.range n).filter fun f => (marks.getD (f / 8) 0).getLsbD (f % 8) := by
  obtain ⟨m, more⟩ := Nat.exists_eq_add_of_le few
  have same : (fun f => (marks[f / 8]?.getD 0).getLsbD (f % 8)) = fun f => (marks.getD (f / 8) 0).getLsbD (f % 8) := by
    funext f
    rw [List.getD_eq_getElem?_getD]
  unfold markedFrames
  rw [same, List.filter_filter, more, List.range_add, List.filter_append]
  have inside : (List.range n).filter (fun f => decide (f < n) && (marks.getD (f / 8) 0).getLsbD (f % 8)) =
      (List.range n).filter fun f => (marks.getD (f / 8) 0).getLsbD (f % 8) :=
    List.filter_congr fun f mem => by rw [decide_eq_true (List.mem_range.1 mem), Bool.true_and]
  have past : ((List.range m).map (n + ·)).filter (fun f => decide (f < n) && (marks.getD (f / 8) 0).getLsbD (f % 8)) = [] := by
    rw [List.filter_eq_nil_iff]
    intro f mem
    obtain ⟨k, -, rfl⟩ := List.mem_map.1 mem
    simp
  rw [inside, past, List.append_nil]

/-! ### RESEND (R105, R106, R110) -/

section
variable {l : LineNo} {s : State}

/-- A whole line block's buffer is freed and the fetches go on: the channel's buffers and requests change. -/
theorem freeSendBuffer_frame (l : LineNo) (s : State) : ∃ waiting buf0 buf1 fetch, freeSendBuffer l s =
    { s.setLine l { s.line l with send := { (s.line l).send with buf0, buf1, fetch } } with
      store := { s.store with waiting } } := by
  let here (b : TxBuffer) : Bool := b.pos == (s.line l).params.pagePos && b.block == (s.line l).send.block
  let keep (b : Option TxBuffer) : Option TxBuffer := match b with
    | some c => if here c then none else some c
    | none => none
  obtain ⟨waiting, buf0, buf1, fetch, fetched, -⟩ := fetchOn_frame 4 l
    (s.modSend l fun q => { q with buf0 := keep q.buf0, buf1 := keep q.buf1 })
  refine ⟨waiting, buf0, buf1, fetch, ?_⟩
  refine Eq.trans fetched ?_
  simp only [State.modSend, State.modLine_eq, State.line_setLine_self, State.setLine_setLine]
  rfl

theorem queueFrames_eq {round : Nat} {frames : List Nat} {e : PageEntry} (page : s.pageSent l = some e) :
    queueFrames l round frames s = s.setLine l { s.line l with
      params := { (s.line l).params with round, detector := .disarmed },
      send := { (s.line l).send with
        queue := roundQueue (s.line l).params.chop e.byteLen (s.line l).send.block round frames, filling := false },
      proc := { (s.line l).proc with tx := .ready .frames, timer := false, incoming := false } } := by
  unfold queueFrames
  rw [page]
  dsimp only
  rw [holdReady_eq, State.modLine_eq, State.line_setLine_self, State.setLine_setLine]

/-- A block accepted before the page's last one: the next one is queued. -/
theorem blockAccepted_next {e : PageEntry} (page : s.pageSent l = some e)
    (more : 64 * ((s.line l).send.block + 1) < frameCount e.byteLen) :
    ∃ waiting buf0 buf1 fetch, blockAccepted l s = State.setLine { s with store := { s.store with waiting } } l
      { s.line l with
        params := { (s.line l).params with block := ((s.line l).params.block + 1) % 256, round := 0, detector := .disarmed },
        send := { (s.line l).send with
          buf0, buf1, fetch, block := (s.line l).send.block + 1,
          queue := roundQueue (s.line l).params.chop e.byteLen ((s.line l).send.block + 1) 0
            (List.range (min 64 (frameCount e.byteLen - 64 * ((s.line l).send.block + 1)))),
          filling := false },
        proc := { (s.line l).proc with tx := .ready .frames, timer := false, incoming := false } } := by
  obtain ⟨waiting, buf0, buf1, fetch, freed⟩ := freeSendBuffer_frame l s
  refine ⟨waiting, buf0, buf1, fetch, ?_⟩
  have last : ¬finalLineBlock e.byteLen (s.line l).send.block = true := by
    rw [finalLineBlock, decide_eq_true_eq]
    omega
  let y : Line := { s.line l with
    send := { (s.line l).send with buf0, buf1, fetch, block := (s.line l).send.block + 1 },
    params := { (s.line l).params with block := wrapSucc 256 (s.line l).params.block } }
  let u : State := State.setLine { s with store := { s.store with waiting } } l y
  have u_line : u.line l = y := State.line_setLine_self ..
  have sends : u.pageSent l = some e := by
    refine (pageSent_congr (t := u) (s := s) rfl rfl ?_ ?_).trans page <;> rw [u_line]
  have step : blockAccepted l s = queueBlock l u := by
    unfold blockAccepted
    rw [page]
    dsimp only
    rw [if_neg last, freed]
    let z : Line := { s.line l with send := { (s.line l).send with buf0, buf1, fetch } }
    have line : (s.setLine l z).line l = z := s.line_setLine_self l z
    refine congrArg (queueBlock l) ?_
    show State.setLine (State.setLine { s with store := { s.store with waiting } } l z) l
      { (s.setLine l z).line l with
        send := { ((s.setLine l z).line l).send with block := ((s.setLine l z).line l).send.block + 1 },
        params := { ((s.setLine l z).line l).params with
          block := wrapSucc 256 ((s.setLine l z).line l).params.block } } = u
    rw [line, State.setLine_setLine]
  rw [step, queueBlock_eq sends, u_line, State.setLine_setLine]
  rfl

/-- The page's last block accepted: PAGE_END is held. -/
theorem blockAccepted_last {e : PageEntry} (page : s.pageSent l = some e) (sending : (s.line l).state = .sending)
    (last : frameCount e.byteLen ≤ 64 * ((s.line l).send.block + 1)) :
    ∃ waiting buf0 buf1 fetch, blockAccepted l s = State.entering { s with store := { s.store with waiting } } l
      { s.line l with
        state := .postPage,
        params := { (s.line l).params with detector := .disarmed },
        send := { (s.line l).send with buf0, buf1, fetch },
        proc := { (s.line l).proc with
          tx := .ready (.msg (.pageEnd (s.line l).params.pageSeq e.lineCount
            ((s.sendPage l ((s.line l).params.pagePos + 1)).map (·.cls)))),
          timer := false, incoming := false } } := by
  obtain ⟨waiting, buf0, buf1, fetch, freed⟩ := freeSendBuffer_frame l s
  refine ⟨waiting, buf0, buf1, fetch, ?_⟩
  let y : Line := { s.line l with send := { (s.line l).send with buf0, buf1, fetch } }
  let u : State := State.setLine { s with store := { s.store with waiting } } l y
  have u_line : u.line l = y := State.line_setLine_self ..
  have sends : u.pageSent l = some e := by
    refine (pageSent_congr (t := u) (s := s) rfl rfl ?_ ?_).trans page <;> rw [u_line]
  have next (pos : Nat) : u.sendPage l pos = s.sendPage l pos := sendPage_congr (t := u) (s := s) rfl rfl (by rw [u_line]) pos
  have ends : pageEndOf u l = .pageEnd (s.line l).params.pageSeq e.lineCount
      ((s.sendPage l ((s.line l).params.pagePos + 1)).map (·.cls)) := by
    unfold pageEndOf
    dsimp only
    rw [sends, next, u_line]
  have step : blockAccepted l s = holdReady l (.msg (pageEndOf u l)) (changeState l .postPage none u) := by
    unfold blockAccepted
    rw [page]
    dsimp only
    rw [if_pos (by exact decide_eq_true last), freed]
    rfl
  rw [step, ends, holdReady_changeState _ _ _ _ _ (by rfl) (by show (s.line l).state ≠ _; rw [sending]; nofun)]

/-- Round 4's marks make the sender fall back: it trains at the next lower rate, or ends the call at 2400. -/
theorem resendRound_fallBack {marked : List Nat} {cur : LineRate} (sending : (s.line l).state = .sending)
    (round : (s.line l).params.round = 4) (rate : (s.line l).params.rate = some cur) :
    (∀ low, stepDown cur = some low → resendRound l marked s = s.entering l { s.line l with
      state := .training,
      params := { (s.line l).params with
        rate := some low, stepDowns := min 5 ((s.line l).params.stepDowns + 1), detector := .disarmed },
      proc := { (s.line l).proc with tx := .ready (.burst low), timer := false, incoming := false } }) ∧
    (stepDown cur = none → resendRound l marked s = releaseLater l .lineQuality s) := by
  have fourth : ¬(s.line l).params.round < 4 := by omega
  refine ⟨fun low next => ?_, fun last => ?_⟩
  · unfold resendRound
    dsimp only
    rw [if_neg fourth, stepDownLine_low rate next]
    dsimp only
    rw [changeState_entering (by rfl) (by show (s.line l).state ≠ _; rw [sending]; nofun)]
    unfold holdBurst
    rw [entering_line]
    dsimp only
    rw [holdReady_eq, entering_line, entering_setLine (by rfl)]
  · unfold resendRound
    dsimp only
    rw [if_neg fourth, stepDownLine_last rate last]

end

theorem setLine_entering {l : LineNo} {x y : Line} {s : State} (same : x.state = (s.line l).state) :
    (s.setLine l x).entering l y = s.entering l y := by
  rw [State.entering, State.line_setLine_self, State.setLine_setLine, same]
  rfl

/-- A line whose transmission has ended, its answer wait begun. -/
def Line.sentAll (x : Line) : Line := { x with proc := { x.proc with tx := .quiet, octets := [], timer := true } }

theorem transmissionSent_msg {l : LineNo} {m : Msg} {s : State} (sending : (s.line l).proc.tx = .sending (.msg m))
    (other : m ≠ .quit) (last : (s.line l).proc.andThen = none) : transmissionSent l s =
      if m = .pageGood then afterPageGood l (s.setLine l (s.line l).sentAll) else s.setLine l (s.line l).sentAll := by
  unfold transmissionSent
  rw [sending]
  cases m <;> first | exact absurd rfl other | (dsimp only; rw [last]; rfl)

theorem transmissionSent_burst {l : LineNo} {r : LineRate} {s : State}
    (sending : (s.line l).proc.tx = .sending (.burst r)) : transmissionSent l s = s.setLine l (s.line l).sentAll := by
  unfold transmissionSent
  rw [sending]
  rfl

theorem Line.awaitsResend_sending {x : Line} (awaits : x.awaitsResend = true) : x.state = .sending := by
  unfold Line.awaitsResend at awaits
  rw [Bool.and_eq_true, Bool.and_eq_true] at awaits
  exact of_decide_eq_true awaits.1.1

/-- Settles O44. -/
theorem senderSendsBlocks : Obligations.SenderSendsBlocks := by
  intro l s on x
  have begins : exec (.turnaroundExpiry l) s = .next (turnaroundExpiry l s) := exec_event (i := .turnaroundExpiry l) on rfl
  have frame : exec (.frameSent l) s = .next (frameSent l s) := exec_event (i := .frameSent l) on rfl
  have sent : exec (.transmissionSent l) s = .next (transmissionSent l s) := exec_event (i := .transmissionSent l) on rfl
  refine ⟨fun m ready goesOn => ?_, fun w ready other asked state => ?_,
    fun f part rest d ready goesOn queue data => ?_, fun q f part rest d sending filling queue data => ?_,
    fun q e sending filling queue goesOn page => ?_, fun w sending frames quit good then_ => ?_,
    fun c sending then_ after state => ?_, fun sending then_ after state => ?_,
    fun f part rest filling data => ⟨fun ready goesOn queue => ?_, fun q sending queue => ?_⟩, ?_, ?_⟩
  · rw [begins, turnaroundExpiry_ready ready (goesOn.imp (congrArg _) id), if_neg nofun]
  · rw [begins, turnaroundExpiry_cancelled ready other asked, releaseNow_eq state]
  · rw [begins, turnaroundExpiry_ready ready (.inr goesOn), if_pos rfl, beginFrames_eq,
      nextFrame_data (by exact queue) (by exact data)]
  · rw [frame, frameSent_eq sending queue filling nofun, nextFrame_data (by rfl) (by exact data)]
    exact congrArg (fun send => Host.Outcome.next (s.setLine l { x.frameOver ((f, part) :: rest) with
      send, proc := { x.proc with
        octets := inLineOrder x.params.order (pageFrame x.params.pageSeq x.params.block f part d) } }))
      (show { x.send with queue := (f, part) :: rest, filling := false } = { x.send with queue := (f, part) :: rest } by
        rw [← filling])
  · intro y
    have over_ : y = x.frameOver [] := rfl
    have sends : (s.setLine l y).pageSent l = some e := by
      refine (pageSent_congr (t := s.setLine l y) (s := s) rfl rfl ?_ ?_).trans page <;> rw [State.line_setLine_self]
    have ends : blockEndOf (s.setLine l y) l = .blockEnd x.params.pageSeq x.params.block x.params.round
        (min 64 (frameCount e.byteLen - 64 * x.send.block))
        (if frameCount e.byteLen ≤ 64 * (x.send.block + 1) then some (e.byteLen - 256 * (frameCount e.byteLen - 1))
          else none) := by
      unfold blockEndOf
      dsimp only
      rw [sends, State.line_setLine_self]
      dsimp only
      congr 1
      exact if_congr (by rw [finalLineBlock, decide_eq_true_eq]) rfl rfl
    rw [frame, frameSent_eq sending queue filling fun _ => goesOn, ← over_, nextFrame_end (by rfl), ends]
  · rw [sent]
    refine congrArg _ ?_
    cases w with
    | frames => exact absurd rfl frames
    | burst r => exact transmissionSent_burst sending
    | msg m =>
      rw [transmissionSent_msg sending (fun h => quit (congrArg _ h)) then_, if_neg fun h => good (congrArg _ h)]
      rfl
  · rw [sent, transmissionSent_msg sending nofun then_, if_pos rfl]
    refine congrArg _ ?_
    unfold afterPageGood
    rw [State.line_setLine_self, show (s.line l).sentAll.proc.afterGood = some (some c) from after]
    dsimp only
    rw [State.modLine_eq, State.line_setLine_self, State.setLine_setLine,
      changeState_entering (by rfl) (by show (s.line l).state ≠ _; rw [show (s.line l).state = .postPage from state]; nofun)]
    rfl
  · rw [sent, transmissionSent_msg sending nofun then_, if_pos rfl]
    refine congrArg _ ?_
    unfold afterPageGood
    rw [State.line_setLine_self, show (s.line l).sentAll.proc.afterGood = some none from after]
    dsimp only
    rw [State.modCall, State.modProc, State.modLine_eq, State.modLine_eq]
    simp only [State.line_setLine_self, State.setLine_setLine]
    rw [changeState_entering (by rfl) (by show (s.line l).state ≠ _; rw [show (s.line l).state = .postPage from state]; nofun)]
    rfl
  · rw [begins, turnaroundExpiry_ready ready (.inr goesOn), if_pos rfl, beginFrames_eq,
      nextFrame_fill (by exact queue) (by exact data) (by exact filling)]
  · rw [frame, frameSent_eq sending queue filling nofun, nextFrame_fill (by rfl) (by exact data) (by exact filling)]
    rfl
  · intro h k level addr b c o d quiet granted call out there idle room waits filled send y
    have row : exec (.blockReadComplete []) s = .next (scanRetry (readStep [] s)) :=
      exec_event (i := .blockReadComplete []) (act := fun s => scanRetry (readStep [] s)) on rfl
    let u : State := (freePort s).setLine l y
    have u_line : u.line l = y := State.line_setLine_self ..
    have delivers : readStep [] s = endFill l (fetchOn 4 l u) := by
      rw [readStep_clean granted]
      refine congrArg (fun t => endFill l (fetchOn 4 l t)) ?_
      show (freePort s).setLine l { x with send := x.send.deliver (Memory.readBlock s.mem addr) } = u
      rw [deliver_buffer _ room waits]
    have sends : u.callDoc l = some d := by
      unfold State.callDoc
      rw [u_line, show y.call = some c from call]
      dsimp only
      rw [out]
      exact there
    refine ⟨fun p e more page live closed has still => ?_, fun f part rest octets filling queue data other => ?_⟩
    · obtain ⟨second, current⟩ := delivered_current (filled := filled)
        (by show (b.got ++ [_]).length < b.want; rw [List.length_append]; exact more) waits
      have free : u.outstanding (.lc l) = false := by
        have none (r : Request) (mem : r ∈ s.store.waiting) : decide (r.client = .lc l) = false :=
          decide_eq_false (idle r mem)
        show (s.store.waiting.any _ || false) = false
        rw [Bool.or_false, List.any_eq_false]
        exact fun r mem => by rw [none r mem]; nofun
      have priority : u.levelOf (.lc l) = o.priority := by
        show (match (u.line l).call with | some c => _ | none => _) = _
        rw [u_line, show y.call = some c from call]
        dsimp only
        rw [out]
      have taken : filled.got.length = b.got.length + 1 := List.length_append
      have asks := fetchOn_asks (b := filled) (fuel := 3) free sends (by rw [u_line]; exact current) page live closed
        (by rw [taken]; exact has)
      have empty (r : Request) : ¬((queueRequest r u).line l).send.filling = true := by
        show ¬(u.line l).send.filling = true
        have same : y.send.filling = x.send.filling := by
          show SendSide.filling (if x.send.buf0 = some b then _ else _) = _
          split <;> rfl
        rw [u_line, same, still]
        nofun
      rw [row, delivers, asks, endFill, if_neg (empty _), scanRetry_eq (by exact quiet), priority, taken]
      rfl
    · obtain ⟨waiting, buf0, buf1, fetch, fetched, keeps0, keeps1, new⟩ := fetchOn_frame 4 l u
      rw [u_line] at fetched keeps0 keeps1 new
      have same : y.send.filling = x.send.filling ∧ y.send.queue = x.send.queue ∧ y.send.fetch = x.send.fetch ∧
          y.send.block = x.send.block ∧ (x.send.buf0 ≠ none → y.send.buf0 ≠ none) := by
        by_cases zero : x.send.buf0 = some b
        · simp [y, send, zero]
        · simp [y, send, zero]
      obtain ⟨filling_, queue_, fetch_, block_, used⟩ := same
      let z : Line := { y with send := { y.send with buf0, buf1, fetch } }
      have still : z.frameData f part = some octets := frameData_fetched data keeps0 keeps1 new
        (other.imp used fun unlike => by rw [fetch_, block_]; exact unlike)
      let v : State := { freePort s with store := { (freePort s).store with waiting } }
      have goes : fetchOn 4 l u = v.setLine l z := by
        rw [fetched]
        show State.setLine (State.setLine v l y) l z = v.setLine l z
        rw [State.setLine_setLine]
      have fills : ((v.setLine l z).line l).send.filling = true := by
        rw [State.line_setLine_self]
        exact filling_.trans filling
      have ends : readStep [] s = v.setLine l { z with
          send := { z.send with filling := false },
          proc := { z.proc with octets := inLineOrder z.params.order (pageFrame z.params.pageSeq z.params.block f part octets) } } := by
        rw [delivers, goes, endFill, if_pos fills, nextFrame_data (x := z) (by exact queue_.trans queue) still]
      rw [row, ends, scanRetry_eq (by exact quiet)]
      refine ⟨_, rfl, ?_, ?_, ?_, ?_, setLine_others l _ s, ?_⟩
      · rw [State.line_setLine_self]
      · rw [State.line_setLine_self]
        exact queue_
      · rw [State.line_setLine_self]
      · rw [State.line_setLine_self]
      · intro p other
        cases p <;> first | rfl | exact absurd (by decide) other
  · intro marks e length listens awaits goesOn page n marked
    let y : Line := { x with
      params := { x.params with repeats := 0, detector := .disarmed },
      proc := { x.proc with timer := false, incoming := false, lastIn := some (.msg (.resend marks)) } }
    let u : State := s.setLine l y
    have u_line : u.line l = y := s.line_setLine_self l y
    have sending : (u.line l).state = .sending := by rw [u_line]; exact Line.awaitsResend_sending awaits
    have sends : u.pageSent l = some e := by
      refine (pageSent_congr (t := u) (s := s) rfl rfl ?_ ?_).trans page <;> rw [u_line]
    have asked : ¬u.cancelAsked l = true := by
      have same : u.cancelAsked l = s.cancelAsked l := cancelAsked_congr rfl (by rw [u_line])
      rw [same, goesOn]
      nofun
    have takes : exec (.resendReceived l marks) s =
        .next (if marked = [] then blockAccepted l u else resendRound l marked u) := by
      rw [exec_event (i := .resendReceived l marks) (act := resendReceived l marks) on rfl]
      have deaf : ¬(!(s.line l).listening) = true := by rw [show (s.line l).listening = true from listens]; nofun
      have taken : ((s.line l).awaitsResend && (Msg.resend marks).inRange) = true := by
        rw [show (s.line l).awaitsResend = true from awaits]
        exact decide_eq_true length
      refine congrArg _ ((if_neg deaf).trans ((if_pos taken).trans ?_))
      rw [heard_eq]
      dsimp only
      rw [show (s.setLine l _).pageSent l = some e from sends, if_neg asked]
      have same : ((markedFrames marks).filter fun f => decide (f < blockFrames e.byteLen (s.line l).send.block)) = marked :=
        markedFrames_below (Nat.min_le_left ..)
      dsimp only
      rw [same]
    refine ⟨fun some_ early => ?_, fun cur some_ fourth rate => ?_, fun none_ more => ?_, fun none_ last => ?_⟩
    · rw [takes, if_neg some_]
      have again : resendRound l marked u = queueFrames l (x.params.round + 1) marked u := by
        unfold resendRound
        dsimp only
        rw [u_line]
        exact if_pos early
      rw [again, queueFrames_eq sends, u_line, State.setLine_setLine]
      rfl
    · rw [takes, if_neg some_]
      obtain ⟨steps, ends⟩ := resendRound_fallBack (l := l) (s := u) (marked := marked) (cur := cur) sending
        (by rw [u_line]; exact fourth) (by rw [u_line]; exact rate)
      refine congrArg _ ?_
      cases next : stepDown cur with
      | some low =>
        rw [steps low next, u_line, setLine_entering (by rfl)]
        rfl
      | none =>
        rw [ends next, releaseLater_setLine (by rfl) (by rw [← u_line, sending]; nofun)]
        rfl
    · obtain ⟨waiting, buf0, buf1, fetch, goes⟩ := blockAccepted_next sends (by rw [u_line]; exact more)
      rw [takes, if_pos none_, goes]
      refine ⟨_, rfl, ?_⟩
      rw [State.line_setLine_self]
      refine ⟨sending, ?_, ?_, rfl, rfl, ?_, ?_, ?_⟩
      · rw [u_line]
      · rw [u_line]
      · rw [u_line]
      · exact (setLine_others l y s).trans (setLine_others l _ { u with store := { u.store with waiting } })
      · intro p other
        cases p <;> first | rfl | exact absurd (by decide) other
    · obtain ⟨waiting, buf0, buf1, fetch, goes⟩ := blockAccepted_last sends sending (by rw [u_line]; exact last)
      rw [takes, if_pos none_, goes]
      refine ⟨_, rfl, ?_⟩
      rw [entering_line]
      refine ⟨rfl, ?_, ?_, ?_⟩
      · rw [u_line]
        have next : u.sendPage l (y.params.pagePos + 1) = s.sendPage l (x.params.pagePos + 1) :=
          sendPage_congr (t := u) (s := s) rfl rfl (by rw [u_line]) _
        rw [next]
      · exact (setLine_others l y s).trans (entering_others l _ { u with store := { u.store with waiting } })
      · refine OnlyChanges.trans (t := { u with store := { u.store with waiting } }) (fun p other => ?_)
          ((entering_only l _ _).mono (by decide))
        cases p <;> first | rfl | exact absurd (by decide) other

end Sys2Proof.Machine
end

section
/-! PROOFS. References let go, INBOUND-DELETE and URGENT-SET (R13, R120, R122, R123, R133). -/

namespace Sys2Proof.Machine

/-! ### How many pages live -/

theorem count_cellSet_le {α : Type} {p : α → Bool} {v : α} (holds : p v = true) (c : List (Nat × α)) (k : Nat) :
    (c.filter fun x => p x.2).length ≤ ((cellSet c k v).filter fun x => p x.2).length := by
  induction c with
  | nil => simp [cellSet]
  | cons x r ih =>
    obtain ⟨j, w⟩ := x
    by_cases before : k < j
    · simp [cellSet, before, holds]
    · by_cases here : j = k
      · subst here
        simp only [cellSet, if_neg before, if_pos, List.filter_cons, holds]
        split <;> simp
      · simp only [cellSet, if_neg before, if_neg here, List.filter_cons]
        split <;> simpa using ih

theorem cellGet_below {α : Type} {d : α} {c : List (Nat × α)} {k : Nat} (below : ∀ x ∈ c, k < x.1) : cellGet d c k = d := by
  induction c with
  | nil => rfl
  | cons x r ih =>
    have first := below x (List.mem_cons_self ..)
    rw [cellGet, if_neg (by omega)]
    exact ih fun y mem => below y (List.mem_cons_of_mem _ mem)

/-- A listed entry that stops satisfying `p` lowers the count by one. -/
theorem count_cellSet_drop {α : Type} {p : α → Bool} {d v : α} {c : List (Nat × α)} {k : Nat}
    (sorted : c.Pairwise fun a b => a.1 < b.1) (rest : p d = false) (was : p (cellGet d c k) = true) (gone : p v = false) :
    (c.filter fun x => p x.2).length = ((cellSet c k v).filter fun x => p x.2).length + 1 := by
  induction c with
  | nil => rw [cellGet, rest] at was; exact nomatch was
  | cons x r ih =>
    obtain ⟨j, w⟩ := x
    rw [List.pairwise_cons] at sorted
    obtain ⟨above, sorted⟩ := sorted
    by_cases here : j = k
    · subst here
      rw [cellGet, if_pos rfl] at was
      simp [cellSet, was, gone]
    · rw [cellGet, if_neg here] at was
      by_cases before : k < j
      · rw [cellGet_below fun y mem => Nat.lt_trans before (above y mem), rest] at was
        exact nomatch was
      · simp only [cellSet, if_neg before, if_neg here, List.filter_cons]
        split <;> simpa using ih sorted was

/-! ### References let go (R13, R68, R120) -/

theorem page_setEntry_ne {h : PageHandle} (s : State) {k : Nat} (e : PageEntry) (other : h.slot ≠ k) :
    (s.setEntry k e).page h = s.page h := by
  unfold State.page
  dsimp only
  rw [State.entry_setEntry_ne _ _ other]

/-- References of pages that keep others go without a page's release: entry by entry, nothing else. -/
theorem lowerRefs_held {pages : List PageHandle} {s : State}
    (held : ∀ p ∈ pages, ∃ e, s.page p = some e ∧ pages.count p < e.refs) :
    ∃ dir, lowerRefs pages s = { s with store := { s.store with dir } } ∧
      (∀ k, dir.get k = { s.entry k with refs := (s.entry k).refs - (pages.filter fun p => decide (p.slot = k)).length }) ∧
      s.livePages ≤ dir.count fun e => decide (e.state ≠ .free) := by
  induction pages generalizing s with
  | nil => exact ⟨s.store.dir, rfl, fun k => rfl, Nat.le_refl _⟩
  | cons p ps ih =>
    obtain ⟨e, there, many⟩ := held p (List.mem_cons_self ..)
    rw [List.count_cons_self] at many
    have page := State.page_setEntry (e' := { e with refs := e.refs - 1 }) there
      (by exact (State.page_some there).2.2.1) rfl
    have lowers : lowerRef p s = s.setEntry p.slot { e with refs := e.refs - 1 } := by
      unfold lowerRef
      rw [there]
      exact releaseTest_stays page (.inr (.inl (by show 0 < e.refs - 1; omega)))
    have rest : ∀ q ∈ ps, ∃ f, (s.setEntry p.slot { e with refs := e.refs - 1 }).page q = some f ∧ ps.count q < f.refs := by
      intro q mem
      obtain ⟨f, also, more⟩ := held q (List.mem_cons_of_mem _ mem)
      by_cases same : q.slot = p.slot
      · obtain rfl := eq_of_same_slot there also same
        refine ⟨_, page, ?_⟩
        show ps.count q < e.refs - 1
        omega
      · refine ⟨f, ?_, Nat.lt_of_le_of_lt (List.count_le_count_cons ..) more⟩
        rw [page_setEntry_ne _ _ same, also]
    obtain ⟨dir, lowered, entries, live⟩ := ih rest
    refine ⟨dir, ?_, fun k => ?_, Nat.le_trans ?_ live⟩
    · show lowerRefs ps (lowerRef p s) = _
      rw [lowers, lowered]
      rfl
    · rw [entries]
      by_cases here : p.slot = k
      · subst here
        rw [State.entry_setEntry_self, List.filter_cons_of_pos (by simp), List.length_cons, (State.page_some there).2.1,
          Nat.sub_sub, Nat.add_comm]
      · rw [State.entry_setEntry_ne _ _ (Ne.symm here), List.filter_cons_of_neg (by simpa using here)]
    · exact count_cellSet_le (v := { e with refs := e.refs - 1 }) (p := fun e : PageEntry => decide (e.state ≠ .free))
        (decide_eq_true (State.page_some there).2.2.1) s.store.dir.cells p.slot

/-- A page's last hold let go releases the page. -/
theorem lowerRef_last {p : PageHandle} {e : PageEntry} {s : State} (idle : s.link.job = none) (there : s.page p = some e)
    (closed : e.state = .closed) (refs : e.refs = 1) (pins : e.pins = 0) :
    PageReleased p e s (lowerRef p s) ∧ OnlyChanges [.store, .link] s (lowerRef p s) ∧ LinkRaises s (lowerRef p s) := by
  have lowers : lowerRef p s = releaseTest p (s.setEntry p.slot { e with refs := e.refs - 1 }) := by
    unfold lowerRef
    rw [there]
  rw [lowers]
  exact releaseTest_setEntry_released (e' := { e with refs := e.refs - 1 }) idle there closed
    (by show e.refs - 1 = 0; omega) pins rfl rfl

/-- A page released is one live page less. -/
theorem lowerRef_last_live {p : PageHandle} {e : PageEntry} {s : State} (idle : s.link.job = none)
    (sorted : s.store.dir.cells.Pairwise fun a b => a.1 < b.1) (rest : s.store.dir.rest.state = .free)
    (there : s.page p = some e) (closed : e.state = .closed) (refs : e.refs = 1) (pins : e.pins = 0) :
    s.livePages = (lowerRef p s).livePages + 1 := by
  have lowers : lowerRef p s = freePage p (s.setEntry p.slot { e with refs := e.refs - 1 }) := by
    unfold lowerRef
    rw [there]
    exact releaseTest_frees (State.page_setEntry there (by rw [closed]; nofun) rfl) closed
      (by show e.refs - 1 = 0; omega) pins
  obtain ⟨lowArmed, notices, lost, freed⟩ := freePage_eq (s := s.setEntry p.slot { e with refs := e.refs - 1 }) p idle
  rw [lowers, freed]
  obtain ⟨-, same, live, -⟩ := State.page_some there
  show s.store.dir.count _ = ((s.store.dir.set p.slot _).set p.slot _).count _ + 1
  rw [Table.set_set]
  exact count_cellSet_drop (p := fun e : PageEntry => decide (e.state ≠ .free)) (d := s.store.dir.rest) sorted (by simp [rest])
    (by show decide ((s.entry p.slot).state ≠ .free) = true; rw [← same]; exact decide_eq_true live) rfl

theorem LinkRaises.job {s t : State} (h : LinkRaises s t) : t.link.job = s.link.job := by
  obtain ⟨_, _, same⟩ := h
  rw [same]

/-- References let go change the page store and raise notices, with no PAGE-READ waiting for its reply. -/
theorem lowerRef_effect {s : State} (p : PageHandle) (idle : s.link.job = none) :
    OnlyChanges [.store, .link] s (lowerRef p s) ∧ LinkRaises s (lowerRef p s) := by
  have stays (t : State) (dir : Table PageEntry) (same : t = { s with store := { s.store with dir } }) :
      OnlyChanges [.store, .link] s t ∧ LinkRaises s t := by
    subst same
    exact ⟨fun p other => by cases p <;> first | rfl | exact absurd (by decide) other, .of_link rfl⟩
  unfold lowerRef
  split
  · rename_i e there
    unfold releaseTest
    split
    · split
      · obtain ⟨-, only, raises⟩ := freePage_released (s := s.setEntry p.slot { e with refs := e.refs - 1 }) (h := p) idle
        obtain ⟨first, link⟩ := stays (s.setEntry p.slot { e with refs := e.refs - 1 }) _ rfl
        exact ⟨first.trans only, link.trans raises⟩
      · exact stays _ _ rfl
    · exact stays _ _ rfl
  · exact stays _ s.store.dir rfl

theorem lowerRefs_effect (pages : List PageHandle) {s : State} (idle : s.link.job = none) :
    OnlyChanges [.store, .link] s (lowerRefs pages s) ∧ LinkRaises s (lowerRefs pages s) := by
  induction pages generalizing s with
  | nil => exact ⟨OnlyChanges.refl _ s, .of_link rfl⟩
  | cons p ps ih =>
    obtain ⟨only, raises⟩ := lowerRef_effect p idle
    obtain ⟨more, later⟩ := ih (s := lowerRef p s) (raises.job.trans idle)
    exact ⟨only.trans more, raises.trans later⟩

/-! ### URGENT-SET and INBOUND-DELETE -/

/-- A text that no urgent entry takes: none of its characters, or more than 20. -/
theorem unfit_iff (text : Option (List Byte)) : (text.any fun t => t.isEmpty || decide (20 < t.length)) = true ↔
    ∃ x, text = some x ∧ (x = [] ∨ 20 < x.length) := by
  cases text <;> simp

theorem urgentSet_read (n : Byte) {text : Option (List Byte)} (fits : ∀ x, text = some x → x.length ≤ 255) (s : State) :
    urgentSet (n :: eOpt eChars text) s =
      if 15 < n.toNat then .error .noSuchEntry
      else if (text.any fun t => t.isEmpty || decide (20 < t.length)) = true then .error .badField
      else .ok ({ s with recept := { s.recept with urgentTable := s.recept.urgentTable.set n.toNat text } },
        ((s.recept.urgentTable.set n.toNat text).toList 16).flatMap (eOpt eChars)) := by
  cases text with
  | none => rfl
  | some x =>
    have read := readCounted_counted (l := x) (Nat.lt_succ_of_le (fits x rfl)) []
    rw [List.append_nil] at read
    show urgentSet (n :: 1 :: (e8 x.length ++ x)) s = _
    simp only [urgentSet, read]
    rfl

/-- Settles O49. -/
theorem inboundDeletedUrgentTextsSet : Obligations.InboundDeletedUrgentTextsSet := by
  refine ⟨fun tag a b d s s₁ taken there quiet => ?_, fun tag n text s s₁ taken fits => ⟨fun small sized => ?_, fun large => ?_,
    fun small unfit => ?_⟩, fun table identity => ?_⟩
  · obtain ⟨small, live, issue, at_slot⟩ := State.inDoc_some there
    have idle := State.takes_job taken
    refine ⟨fun busy => exec_refuses rfl taken ?_, fun received queued printing => ?_⟩
    · simp only [inboundDelete, there]
      exact if_pos busy
    let u : State := (leaveWaiting (inOf a b) s₁).setInDoc a.toNat (.freeWith (wrapSucc 256 d.issue))
    have frees : freeInbound (inOf a b).slot (leaveWaiting (inOf a b) s₁) = lowerRefs d.pages u := by
      unfold freeInbound
      rw [show (leaveWaiting (inOf a b) s₁).recept.docs.get (inOf a b).slot = d from at_slot]
      rfl
    obtain ⟨only, raises⟩ := lowerRefs_effect (s := u) d.pages idle
    have scan : (lowerRefs d.pages u).scan.state ≠ .held := by rw [lowerRefs_scan]; exact quiet
    have row : exec (.inboundDelete tag [a, b]) s = .next (reply 0x39 tag .ok
        (e8 (s₁.livePages - (lowerRefs d.pages u).livePages) ++ e16 (lowerRefs d.pages u).store.pool.count)
        (lowerRefs d.pages u)) := by
      refine exec_answers rfl taken ?_
      simp only [inboundDelete, there]
      refine (if_neg (by simp [received, queued, printing])).trans ?_
      rw [frees, scanRetry_eq scan]
      rfl
    refine ⟨_, _, row, only .recept (by decide), ?_, raises, fun held => ?_, fun p e pages accounted page closed refs pins => ?_⟩
    · refine OnlyChanges.trans (t := u) (fun p other => ?_) (only.mono (by decide))
      cases p <;> first | rfl | exact absurd (by decide) other
    · obtain ⟨dir, lowered, entries, kept⟩ := lowerRefs_held (s := u) held
      rw [lowered]
      exact ⟨Nat.sub_eq_zero_of_le kept, rfl, rfl, entries⟩
    · rw [pages]
      obtain ⟨⟨slot, others, pool⟩, -, -⟩ := lowerRef_last (s := u) idle page closed refs pins
      obtain ⟨sorted, rest, -⟩ := accounted
      have drop := lowerRef_last_live (s := u) idle sorted rest page closed refs pins
      refine ⟨?_, pool, slot, others⟩
      show u.livePages - (lowerRef p u).livePages = 1
      omega
  · refine exec_answers rfl taken ?_
    have put := urgentSet_read n fits s₁
    rw [put, if_neg (by omega), if_neg fun any => by
      obtain ⟨x, some, unfit⟩ := (unfit_iff text).1 any
      obtain ⟨low, high⟩ := sized x some
      obtain empty | long := unfit
      · rw [empty] at low
        exact absurd low (by decide)
      · exact absurd long (by omega)]
  · refine exec_refuses rfl taken ?_
    rw [urgentSet_read n fits s₁, if_pos large]
  · refine exec_refuses rfl taken ?_
    rw [urgentSet_read n fits s₁, if_neg (by omega), if_pos ((unfit_iff text).2 unfit)]
  · rw [isUrgent_iff]
    exact exists_congr fun k => exists_congr fun x =>
      ⟨fun ⟨small, entry, rest, same⟩ => ⟨rest, small, entry, same.symm⟩,
        fun ⟨rest, small, entry, same⟩ => ⟨small, entry, rest, same.symm⟩⟩

end Sys2Proof.Machine
end

section
/-! PROOFS. The print queue and the wait list (R127 to R132, R152). -/

namespace Sys2Proof.Machine

/-! ### Entries placed (R127, R128) -/

/-- The number of an entry to be made is the first from the counter on that no entry holds. -/
theorem freshNumber_first {queue : List QueueEntry} {k fuel c : Nat} (small : c < 65536) (room : k < fuel)
    (free : ∀ e ∈ queue, e.number ≠ (c + k) % 65536)
    (taken : ∀ j, j < k → ∃ e ∈ queue, e.number = (c + j) % 65536) : freshNumber queue fuel c = (c + k) % 65536 := by
  induction k generalizing c fuel with
  | zero =>
    obtain ⟨fuel, rfl⟩ := Nat.exists_eq_succ_of_ne_zero (Nat.ne_of_gt room)
    have here : (c + 0) % 65536 = c := Nat.mod_eq_of_lt small
    rw [here] at free ⊢
    refine if_neg fun held => ?_
    obtain ⟨e, mem, same⟩ := List.any_eq_true.1 held
    exact free e mem (of_decide_eq_true same)
  | succ k ih =>
    obtain ⟨fuel, rfl⟩ := Nat.exists_eq_succ_of_ne_zero (Nat.ne_of_gt (Nat.lt_of_le_of_lt (Nat.zero_le _) room))
    obtain ⟨e, mem, same⟩ := taken 0 (Nat.succ_pos k)
    have here : (c + 0) % 65536 = c := Nat.mod_eq_of_lt small
    have next (j : Nat) : (wrapSucc 65536 c + j) % 65536 = (c + (j + 1)) % 65536 := by
      unfold wrapSucc
      omega
    have held : (queue.any fun e => decide (e.number = c)) = true :=
      List.any_eq_true.2 ⟨e, mem, decide_eq_true (same.trans here)⟩
    have rest := ih (c := wrapSucc 65536 c) (fuel := fuel) (Nat.mod_lt _ (by decide)) (by omega)
      (by rw [next]; exact free) (fun j small => by rw [next]; exact taken (j + 1) (by omega))
    rw [freshNumber, if_pos held, rest, next]

/-- An urgent entry stands after the last entry urgent or begun. -/
theorem insertUrgent_after {e : QueueEntry} {front back : List QueueEntry}
    (plain : ∀ x ∈ back, x.urgent = false ∧ x.begun = false)
    (last : ∀ x, front.getLast? = some x → x.urgent = true ∨ x.begun = true) :
    insertUrgent e (front ++ back) = front ++ e :: back := by
  induction front with
  | nil =>
    cases back with
    | nil => rfl
    | cons x xs =>
      refine if_neg fun some_ => ?_
      obtain ⟨y, mem, marked⟩ := List.any_eq_true.1 some_
      obtain ⟨calm, waiting⟩ := plain y mem
      rw [calm, waiting] at marked
      exact nomatch marked
  | cons x front ih =>
    have marked : (((x :: front) ++ back).any fun y => y.urgent || y.begun) = true := by
      have some_ := List.getLast?_eq_some_getLast (List.cons_ne_nil x front)
      refine List.any_eq_true.2 ⟨_, List.mem_append_left _ (List.getLast_mem (List.cons_ne_nil x front)), ?_⟩
      rw [Bool.or_eq_true]
      exact last _ some_
    refine (if_pos marked).trans (congrArg (x :: ·) (ih fun y tail => last y ?_))
    rw [List.getLast?_cons, tail]
    rfl

theorem insertUrgent_mem (e : QueueEntry) (queue : List QueueEntry) : e ∈ insertUrgent e queue := by
  induction queue with
  | nil => exact List.mem_singleton.2 rfl
  | cons x xs ih =>
    unfold insertUrgent
    split
    · exact List.mem_cons_of_mem _ ih
    · exact List.mem_cons_self ..

/-- An entry made and placed, with its number. -/
theorem placeEntry_placed {job : PrintJob} {urgent : Bool} {n k : Nat} {front back : List QueueEntry} {s : State}
    (queue : s.recept.queue = front ++ back) (near : k ≤ 48) (number : n = (s.recept.entryCounter + k) % 65536)
    (small : s.recept.entryCounter < 65536) (free : ∀ e ∈ s.recept.queue, e.number ≠ n)
    (taken : ∀ j, j < k → ∃ e ∈ s.recept.queue, e.number = (s.recept.entryCounter + j) % 65536)
    (place : urgent = false ∧ back = [] ∨ urgent = true ∧ (∀ e ∈ back, e.urgent = false ∧ e.begun = false) ∧
      (∀ e, front.getLast? = some e → e.urgent = true ∨ e.begun = true)) :
    placeEntry job urgent s = ({ s with recept := { s.recept with
      queue := front ++ { number := n, job, urgent, begun := false } :: back, entryCounter := (n + 1) % 65536 } }, n) := by
  have fresh : freshNumber s.recept.queue 49 s.recept.entryCounter = n := by
    rw [number] at free ⊢
    exact freshNumber_first small (by omega) free taken
  have placed : (if urgent then insertUrgent { number := n, job, urgent, begun := false } s.recept.queue
      else s.recept.queue ++ [{ number := n, job, urgent, begun := false }]) =
      front ++ { number := n, job, urgent, begun := false } :: back := by
    rw [queue]
    obtain ⟨calm, rfl⟩ | ⟨hasty, plain, last⟩ := place
    · rw [calm, if_neg nofun, List.append_nil]
    · rw [hasty, if_pos rfl]
      exact insertUrgent_after plain last
  unfold placeEntry
  simp only [fresh, placed]
  rfl

theorem placeEntry_joins (job : PrintJob) (urgent : Bool) (s : State) :
    ∃ e ∈ (placeEntry job urgent s).1.recept.queue, e.job = job := by
  unfold placeEntry
  dsimp only
  split
  · exact ⟨_, insertUrgent_mem .., rfl⟩
  · exact ⟨_, List.mem_append_right _ (List.mem_singleton.2 rfl), rfl⟩

/-- The place of an entry just made, whose number no other entry holds. -/
theorem positionOf_placed {n : Nat} {front back : List QueueEntry} {e : QueueEntry} {r : Reception} (number : e.number = n)
    (queue : r.queue = front ++ e :: back) (free : ∀ x ∈ front, x.number ≠ n) : r.positionOf n = some front.length := by
  unfold Reception.positionOf
  rw [queue, List.findIdx?_append, List.findIdx?_eq_none_iff.2 fun x mem => decide_eq_false (free x mem)]
  simp [List.findIdx?_cons, number]

/-! ### Entries removed (R129, R132, R152) -/

/-- An entry leaves the queue; the oldest waiting document joins it. -/
theorem leaveQueue_frame (n : Nat) (s : State) : ∃ recept, leaveQueue n s = { s with recept } ∧
    (s.recept.waitList = [] → recept = { s.recept with queue := s.recept.queue.filter fun e => decide (e.number ≠ n) }) ∧
    ∀ w rest, s.recept.waitList = w :: rest → recept.waitList = rest ∧
      (recept.docs.get w.slot).printState = .queued ∧ ∃ e ∈ recept.queue, e.job = .document w := by
  unfold leaveQueue
  dsimp only
  cases waits : s.recept.waitList with
  | nil => exact ⟨_, rfl, fun _ => rfl, nofun⟩
  | cons w rest =>
    refine ⟨_, rfl, nofun, fun w' rest' same => ?_⟩
    obtain ⟨rfl, rfl⟩ := List.cons.inj same
    refine ⟨rfl, congrArg InDoc.printState (Table.get_set_self ..), ?_⟩
    exact placeEntry_joins ..

/-- The engine's work on an entry ends: its reads withdrawn, uncut paper to be cut. -/
theorem cancelCurrent_frame (s : State) : ∃ port, cancelCurrent s = { s with
    engine := { s.engine.emptyRing with
      entry := none, page := none, cutFeed := s.engine.cutFeed || s.engine.uncut, struck := 0, damaged := 0, decoder := .reset,
      reprintDue := false },
    store := { s.store with waiting := s.store.waiting.filter fun r => decide (r.client ≠ .print), port } } := ⟨_, rfl⟩

/-- A queue entry's job let go: its document HELD, or its page's reference lowered. -/
def dropJob (q : QueueEntry) (s : State) : State :=
  match q.job with
  | .document h => s.modInDoc h.slot fun d => { d with printState := .held }
  | .page h => lowerRef h s

theorem removeEntry_eq (q : QueueEntry) (s : State) :
    removeEntry q s = leaveQueue q.number (dropJob q (if q.begun then cancelCurrent s else s)) := by
  unfold removeEntry dropJob
  cases q.job <;> rfl

/-- What letting an entry's job go changes, for a page that keeps another hold. -/
theorem dropJob_frame {q : QueueEntry} {s : State} (held : ∀ h, q.job = .page h → ∃ e, s.page h = some e ∧ 1 < e.refs) :
    ∃ dir docs, dropJob q s = { s with
      store := { s.store with dir }, recept := { s.recept with docs } } ∧
      (∀ h, q.job = .document h → docs = s.recept.docs.set h.slot { s.recept.docs.get h.slot with printState := .held }) ∧
      ∀ h e, q.job = .page h → s.page h = some e → dir = s.store.dir.set h.slot { e with refs := e.refs - 1 } := by
  unfold dropJob
  cases job : q.job with
  | document h =>
    refine ⟨s.store.dir, _, rfl, fun h' same => ?_, fun _ _ same => nomatch same⟩
    obtain rfl := PrintJob.document.inj same
    rfl
  | page h =>
    obtain ⟨e, there, more⟩ := held h job
    have page := State.page_setEntry (e' := { e with refs := e.refs - 1 }) there
      (by exact (State.page_some there).2.2.1) rfl
    have lowers : lowerRef h s = s.setEntry h.slot { e with refs := e.refs - 1 } := by
      unfold lowerRef
      rw [there]
      exact releaseTest_stays page (.inr (.inl (by show 0 < e.refs - 1; omega)))
    refine ⟨_, s.recept.docs, lowers, (fun _ same => nomatch same), fun h' e' same also => ?_⟩
    obtain rfl := PrintJob.page.inj same
    obtain rfl : e = e' := Option.some.inj (there.symm.trans also)
    rfl

/-- A removal, of an entry whose page keeps another hold. -/
theorem removeEntry_effect {q : QueueEntry} {s : State} (held : ∀ h, q.job = .page h → ∃ e, s.page h = some e ∧ 1 < e.refs) :
    OnlyChanges [.recept, .store, .engine] s (removeEntry q s) ∧
      (∀ h e, q.job = .page h → s.page h = some e → (removeEntry q s).entry h.slot = { e with refs := e.refs - 1 } ∧
        ∀ k, k ≠ h.slot → (removeEntry q s).entry k = s.entry k) ∧
      (q.begun = false → (removeEntry q s).engine = s.engine) ∧
      (q.begun = true →
        (removeEntry q s).engine.entry = none ∧ (removeEntry q s).engine.page = none ∧ (removeEntry q s).engine.ring = [] ∧
        (removeEntry q s).engine.cutFeed = (s.engine.cutFeed || s.engine.uncut) ∧
        ∀ r ∈ (removeEntry q s).store.waiting, r.client ≠ .print) ∧
      (s.recept.waitList = [] →
        (removeEntry q s).recept.queue = s.recept.queue.filter (fun e => decide (e.number ≠ q.number)) ∧
        ∀ h, q.job = .document h → (removeEntry q s).recept.docs =
          s.recept.docs.set h.slot { s.recept.docs.get h.slot with printState := .held }) ∧
      ∀ w rest, s.recept.waitList = w :: rest → (removeEntry q s).recept.waitList = rest ∧
        ((removeEntry q s).recept.docs.get w.slot).printState = .queued ∧
        ∃ e ∈ (removeEntry q s).recept.queue, e.job = .document w := by
  have ends : ∃ engine waiting port, (if q.begun then cancelCurrent s else s) =
      { s with engine, store := { s.store with waiting, port } } ∧ (q.begun = false → engine = s.engine) ∧
        (q.begun = true → engine.entry = none ∧ engine.page = none ∧ engine.ring = [] ∧
          engine.cutFeed = (s.engine.cutFeed || s.engine.uncut) ∧ ∀ r ∈ waiting, r.client ≠ .print) := by
    cases begun : q.begun with
    | false => exact ⟨s.engine, s.store.waiting, s.store.port, rfl, fun _ => rfl, nofun⟩
    | true =>
      obtain ⟨port, cancelled⟩ := cancelCurrent_frame s
      refine ⟨_, _, port, cancelled, nofun, fun _ => ⟨rfl, rfl, rfl, rfl, fun r mem => ?_⟩⟩
      exact of_decide_eq_true (List.mem_filter.1 mem).2
  obtain ⟨engine, waiting, port, stopped, kept, ended⟩ := ends
  obtain ⟨dir, docs, dropped, document, page⟩ := dropJob_frame (q := q)
    (s := { s with engine, store := { s.store with waiting, port } }) held
  obtain ⟨recept, left, plain, joins⟩ := leaveQueue_frame q.number (dropJob q { s with engine, store := { s.store with waiting, port } })
  rw [dropped] at left plain joins
  rw [removeEntry_eq, stopped, dropped, left]
  refine ⟨fun p other => ?_, fun h e job there => ?_, kept, ended, fun none => ⟨?_, fun h job => ?_⟩, joins⟩
  · cases p <;> first | rfl | exact absurd (by decide) other
  · rw [page h e job there]
    exact ⟨Table.get_set_self .., fun k other => Table.get_set_ne _ _ other⟩
  · rw [plain none]
  · rw [plain none]
    exact document h job

/-! ### PRINT-DOC, PRINT-PAGE and PRINT-CANCEL -/

/-- Settles O50. -/
theorem printQueueJoinedAndLeft : Obligations.PrintQueueJoinedAndLeft := by
  refine ⟨?_, ?_⟩
  · intro tag a b n k front back s s₁ queue near number small free taken
    have free' (x : QueueEntry) (mem : x ∈ front) : x.number ≠ n := free x (by rw [queue]; exact List.mem_append_left _ mem)
    refine ⟨fun d came there state pages => ⟨fun room place => ?_, fun full => ?_⟩, fun d came there state => ?_,
      fun e came there => ⟨fun opened => ?_, fun closed room few none => ?_⟩⟩
    · obtain ⟨-, -, -, at_slot⟩ := State.inDoc_some there
      have places := placeEntry_placed (job := .document (inOf a b)) (urgent := d.urgent)
        (s := s₁.setInDoc a.toNat { d with printState := .queued }) queue near number small free taken place
      have places_ : placeDoc (inOf a b) s₁ = ({ s₁.setInDoc a.toNat { d with printState := .queued } with
          recept := { (s₁.setInDoc a.toNat { d with printState := .queued }).recept with
            queue := front ++ { number := n, job := .document (inOf a b), urgent := d.urgent, begun := false } :: back
            entryCounter := (n + 1) % 65536 } }, n) := by
        unfold placeDoc
        rw [at_slot]
        exact places
      refine exec_answers rfl came ?_
      simp only [printDoc, there]
      refine (if_neg ?_).trans ((if_neg (Nat.not_le.2 room)).trans ?_)
      · simp only [pages, or_false]
        obtain h | h | h := state <;> rw [h] <;> decide
      · rw [places_]
        dsimp only
        rw [entryReply, positionOf_placed (e := { number := n, job := .document (inOf a b), urgent := d.urgent, begun := false })
          rfl rfl free']
        rfl
    · refine exec_refuses rfl came ?_
      simp only [printDoc, there]
      refine (if_neg ?_).trans (if_pos full)
      simp only [pages, or_false]
      obtain h | h | h := state <;> rw [h] <;> decide
    · refine exec_refuses rfl came ?_
      simp only [printDoc, there]
      exact if_pos state
    · refine exec_refuses rfl came ?_
      simp only [printPage, there]
      exact if_pos (by rw [opened]; nofun)
    · subst none
      have places := placeEntry_placed (job := .page (pageOf a b)) (urgent := false)
        (s := s₁.setEntry (pageOf a b).slot { e with refs := e.refs + 1 }) queue near number small free taken (.inl ⟨rfl, rfl⟩)
      refine exec_answers rfl came ?_
      simp only [printPage, there]
      refine (if_neg (not_not_intro closed)).trans ((if_neg (Nat.not_le.2 room)).trans ?_)
      rw [raiseRef_page there, if_pos few]
      dsimp only
      rw [places]
      dsimp only
      rw [entryReply, positionOf_placed (e := { number := n, job := .page (pageOf a b), urgent := false, begun := false })
        rfl rfl free']
      rfl
  · intro tag a b s s₁ quiet
    refine ⟨fun i q which held => ?_, fun came none => ?_, fun d came there => ⟨fun waits => ?_, fun state => ?_⟩⟩
    · obtain ⟨only, entries, idle, begun, plain, joins⟩ := removeEntry_effect held
      have scan : (removeEntry q s₁).scan.state ≠ .held := by rw [only .scan (by decide)]; exact quiet
      have row : exec i s = .next (reply 0x3D tag .ok (1 :: e16 q.number ++ e8 (removeEntry q s₁).recept.queue.length)
          (removeEntry q s₁)) := by
        obtain ⟨rfl, came, found⟩ | ⟨rfl, came, found, d, there, state⟩ := which
        · refine exec_answers (exec_form rfl rfl) came ?_
          simp only [printCancelEntry, found]
          refine (if_neg nofun).trans ?_
          rw [scanRetry_eq scan]
          rfl
        · refine exec_answers (exec_form rfl rfl) came ?_
          simp only [printCancelDoc, there]
          refine (if_neg nofun).trans ?_
          obtain h | h := state <;> rw [h] <;> dsimp only <;> rw [found] <;> dsimp only <;> rw [scanRetry_eq scan] <;> rfl
      exact ⟨_, row, only, entries, idle, begun, plain, joins⟩
    · refine exec_refuses (exec_form rfl rfl) came ?_
      simp only [printCancelEntry, none]
      exact if_neg nofun
    · obtain ⟨-, -, -, at_slot⟩ := State.inDoc_some there
      refine exec_answers (exec_form rfl rfl) came ?_
      simp only [printCancelDoc, there, waits]
      exact if_neg nofun
    · refine exec_refuses (exec_form rfl rfl) came ?_
      simp only [printCancelDoc, there]
      refine (if_neg nofun).trans ?_
      obtain h | h | h := state <;> rw [h]

end Sys2Proof.Machine
end

section
/-! PROOFS. The print engine's stops and resumption (R148 to R151). -/

namespace Sys2Proof.Machine

variable {s : State} {h : PageHandle} {r : PageEntry}

/-! ### Choosing and beginning a page (R139, R140) -/

/-- A page whose decode begins has its first block asked for, at the engine's level 2. -/
theorem askBlock_first (page : s.engine.page = some h) (anew : s.engine.decoder = .reset) (there : s.page h = some r)
    (closed : r.state = .closed) (coded : 0 < r.committed) : askBlock s = { s with
      engine := { s.engine with decoder := { Decoder.reset with asked := 1 } },
      store := { s.store with waiting := s.store.waiting ++ [{ client := .print, level := 2, op := .read h 0 }] } } := by
  rw [askBlock_eq page there]
  dsimp only
  rw [anew, if_pos ⟨rfl, rfl, coded, by decide⟩]
  exact askRead_asked .print (by exact there) closed coded

/-- What the choice of a page comes to: a page of no octets is printed at once, and any other one's decode begins. -/
theorem choosePage_page {n fuel : Nat} {q : QueueEntry} (entry : s.engine.entry = some n)
    (queued : s.recept.entryNumbered n = some q) (choice : pageChoice s q = .page h) : choosePage (fuel + 1) s =
      if (s.entry h.slot).byteLen = 0 then
        choosePage fuel (endPage h (s.modEngine fun e => { e.beginDecode with page := some h, cls := (s.entry h.slot).cls }))
      else askBlock (s.modEngine fun e => { e.beginDecode with page := some h, cls := (s.entry h.slot).cls }) := by
  rw [choosePage, entry]
  dsimp only
  rw [queued]
  dsimp only
  rw [choice]

/-- The engine takes the page that it finds at its index, and asks for its first block. -/
theorem nextPage_takes {n : Nat} {q : QueueEntry} (entry : s.engine.entry = some n)
    (queued : s.recept.entryNumbered n = some q) (choice : pageChoice s q = .page h) (there : s.page h = some r)
    (closed : r.state = .closed) (octets : 0 < r.byteLen) (coded : 0 < r.committed) : nextPage s = { s with
      engine := { s.engine with
        ring := [], readSlot := 0, writeSlot := 0, halfStruck := false, struck := 0, damaged := 0, pageStrikes := 0,
        page := some h, cls := r.cls, decoder := { Decoder.reset with asked := 1 } },
      store := { s.store with waiting := s.store.waiting ++ [{ client := .print, level := 2, op := .read h 0 }] } } := by
  obtain ⟨-, same, -, -⟩ := State.page_some there
  rw [nextPage, choosePage_page entry queued choice, ← same]
  refine (if_neg (Nat.ne_of_gt octets)).trans ((askBlock_first
    (s := s.modEngine fun e => { e.beginDecode with page := some h, cls := r.cls }) rfl rfl there closed coded).trans ?_)
  rfl

/-- The engine waits for the next page of a document still being received. -/
theorem nextPage_waits {n : Nat} {q : QueueEntry} (entry : s.engine.entry = some n)
    (queued : s.recept.entryNumbered n = some q) (choice : pageChoice s q = .wait) :
    nextPage s = { s with engine := { s.engine with page := none } } := by
  refine Eq.trans (b := s.modEngine fun e => { e with page := none }) ?_ rfl
  rw [nextPage, choosePage, entry]
  dsimp only
  rw [queued]
  dsimp only
  rw [choice]

theorem pageChoice_listed {q : QueueEntry} {k : InHandle} (job : q.job = .document k)
    (listed : (s.recept.docs.get k.slot).pages[s.engine.index]? = some h) : pageChoice s q = .page h := by
  simp only [pageChoice, job, listed]

theorem pageChoice_awaited {q : QueueEntry} {k : InHandle} (job : q.job = .document k)
    (unlisted : (s.recept.docs.get k.slot).pages[s.engine.index]? = none)
    (receiving : (s.recept.docs.get k.slot).state = .receiving) : pageChoice s q = .wait := by
  simp only [pageChoice, job, unlisted]
  exact if_pos receiving

/-! ### Stops and resumption -/

/-- The engine with its page in hand interrupted (R149). -/
def Engine.interrupted (e : Engine) : Engine := { e with
  ring := [], readSlot := 0, writeSlot := 0, halfStruck := false, decoder := .reset,
  reprintDue := e.reprintDue || decide (0 < e.struck), struck := 0, damaged := 0 }

theorem interruptPage_page (page : s.engine.page = some h) :
    interruptPage s = withdraw .print { s with engine := s.engine.interrupted } := by
  unfold interruptPage
  rw [page]
  rfl

theorem interruptPage_none (page : s.engine.page = none) :
    interruptPage s = { s with engine := s.engine.emptyRing } := by
  unfold interruptPage
  rw [page]
  rfl

/-- The engine as it takes up its page again (R149). -/
def Engine.resumed (e : Engine) : Engine := { e with
  ring := [], readSlot := 0, writeSlot := 0, halfStruck := false, struck := 0, damaged := 0, pageStrikes := 0,
  reprints := if e.reprintDue then min 65535 (e.reprints + 1) else e.reprints, reprintDue := false,
  decoder := { Decoder.reset with asked := 1 } }

theorem resume_stopped (stopped : s.engine.stopped = true) : resume s = s := if_pos stopped

/-- The page in hand is decoded and printed again from its first octet. -/
theorem resume_page (clear : s.engine.stopped = false) (page : s.engine.page = some h) (there : s.page h = some r)
    (closed : r.state = .closed) (coded : 0 < r.committed) : resume s = { s with
      engine := s.engine.resumed,
      store := { s.store with waiting := s.store.waiting ++ [{ client := .print, level := 2, op := .read h 0 }] } } := by
  unfold resume
  rw [clear, page]
  refine (if_neg nofun).trans ((askBlock_first (s := s.modEngine fun e => { e.beginDecode with
    reprints := if e.reprintDue then satAdd 65535 e.reprints 1 else e.reprints
    reprintDue := false }) page rfl there closed coded).trans ?_)
  rfl

theorem resume_next {n : Nat} (clear : s.engine.stopped = false) (page : s.engine.page = none)
    (entry : s.engine.entry = some n) : resume s = nextPage s := by
  unfold resume
  rw [clear, page, entry]
  exact if_neg nofun

theorem resume_nothing (page : s.engine.page = none) (entry : s.engine.entry = none) : resume s = s := by
  unfold resume
  rw [page, entry]
  exact ite_self s

theorem Engine.stopped_eq_false {e : Engine} (jam : e.jamLatched = false) (paper : e.paperOut = false)
    (pause : e.hostPause = false) : e.stopped = false := by
  unfold Engine.stopped
  rw [jam, paper, pause]
  rfl

/-- A page's interruption and the notice of the fault (R148, R150). -/
theorem fault_effect (fields : List Byte) {e : Engine} (page : e.page = some h) :
    OnlyChanges [.engine, .store, .link] s (raise .printerFault fields (interruptPage { s with engine := e })) ∧
      (raise .printerFault fields (interruptPage { s with engine := e })).engine = e.interrupted ∧
      (raise .printerFault fields (interruptPage { s with engine := e })).link = (raise .printerFault fields s).link := by
  rw [interruptPage_page (s := { s with engine := e }) page]
  refine ⟨fun p other => ?_, ?_, raise_link_congr _ _ rfl rfl⟩
  · refine OnlyChanges.trans (t := withdraw .print { s with engine := e.interrupted }) ?_
      ((raise_only _ _ _).mono (by decide)) p other
    intro p other
    cases p <;> first | rfl | exact absurd (by decide) other
  · obtain ⟨notices, lost, raised⟩ := raise_frame .printerFault fields (withdraw .print { s with engine := e.interrupted })
    exact (congrArg State.engine raised :)

/-- Paper out and a jam: the engine stops (R148, R150). -/
theorem engineStops (s : State) (h : PageHandle) :
    let e := s.engine
    let empty := e.emptyRing
    let paper := 0 :: eOpt e16 e.entry ++ eOpt ePage e.page ++ e16 e.struck
    let jam := 1 :: eOpt e16 e.entry ++ eOpt ePage e.page ++ e16 e.struck
    (e.page = none → e.paperOut = false → paperGoesOut s = raise .printerFault paper
      { s with engine := { empty with paperOut := true, uncut := false, cutFeed := false } }) ∧
    (e.page = none → e.jamLatched = false → jamIndication s = raise .printerFault jam
      { s with engine := { empty with jamSensor := true, jamLatched := true, uncut := false, cutFeed := false } }) ∧
    (e.page = some h → e.paperOut = false → paperGoesOut s = raise .printerFault paper (interruptPage
      { s with engine := { e with paperOut := true, uncut := false, cutFeed := false } })) ∧
    (e.page = some h → e.jamLatched = false → jamIndication s = raise .printerFault jam (interruptPage
      { s with engine := { e with jamSensor := true, jamLatched := true, uncut := false, cutFeed := false } })) := by
  refine ⟨fun page dry => ?_, fun page free => ?_, fun page dry => ?_, fun page free => ?_⟩
  · unfold paperGoesOut
    rw [dry]
    refine (if_neg nofun).trans (congrArg (raise .printerFault _) ?_)
    exact interruptPage_none page
  · unfold jamIndication
    refine (if_neg (by show ¬s.engine.jamLatched = true; rw [free]; nofun)).trans (congrArg (raise .printerFault _) ?_)
    exact interruptPage_none page
  · exact if_neg (by rw [dry]; nofun)
  · exact if_neg (by show ¬s.engine.jamLatched = true; rw [free]; nofun)

/-- PRINT-PAUSE (R151). -/
theorem printPause_eq (s : State) (h : PageHandle) :
    let e := s.engine
    (e.stopped = false → e.page = none → printPause [] s = .ok ({ s with
      engine := { e.emptyRing with hostPause := true, cutFeed := e.cutFeed || e.uncut } }, [5])) ∧
    (e.stopped = false → e.page = some h → printPause [] s = .ok (withdraw .print { s with
      engine := { e.interrupted with hostPause := true, cutFeed := e.cutFeed || e.uncut } }, [5])) ∧
    (e.stopped = true → printPause [] s = .ok ({ s with engine := { e with hostPause := true } },
      [(Engine.state { e with hostPause := true }).code])) := by
  have paused (e' : Engine) (jam : e'.jamLatched = false) (paper : e'.paperOut = false) (pause : e'.hostPause = true) :
      e'.state.code = 5 := by
    unfold Engine.state
    rw [jam, paper, pause]
    rfl
  have clear (stopped : s.engine.stopped = false) : s.engine.jamLatched = false ∧ s.engine.paperOut = false := by
    obtain ⟨⟨jam, paper⟩, -⟩ := (Bool.or_eq_false_iff.trans (and_congr_left' Bool.or_eq_false_iff)).1 stopped
    exact ⟨jam, paper⟩
  refine ⟨fun stopped page => ?_, fun stopped page => ?_, fun stopped => ?_⟩
  all_goals
    unfold printPause
    refine (if_neg (by nofun)).trans ?_
    rw [stopped]
  · obtain ⟨jam, paper⟩ := clear stopped
    have none_ := interruptPage_none (s := { s with
      engine := { s.engine with hostPause := true, cutFeed := s.engine.cutFeed || s.engine.uncut } }) page
    refine congrArg Except.ok ((congrArg (fun t : State => (t, [t.engine.state.code])) none_).trans ?_)
    exact congrArg (Prod.mk _) (congrArg (fun c => [c]) (paused _ jam paper rfl))
  · obtain ⟨jam, paper⟩ := clear stopped
    have page_ := interruptPage_page (s := { s with
      engine := { s.engine with hostPause := true, cutFeed := s.engine.cutFeed || s.engine.uncut } }) page
    refine congrArg Except.ok ((congrArg (fun t : State => (t, [t.engine.state.code])) page_).trans ?_)
    exact congrArg (Prod.mk _) (congrArg (fun c => [c]) (paused _ jam paper rfl))
  · show Except.ok (State.modEngine s fun e => { e with hostPause := true, cutFeed := e.cutFeed || (false && e.uncut) }, _) = _
    simp only [Bool.false_and, Bool.or_false]
    rfl

/-- PRINT-RESUME of an engine that its sensor lets resume (R151). -/
theorem printResume_resumes {t : State} (clear : s.engine.jamSensor = false)
    (due : s.engine.hostPause = true ∨ s.engine.jamLatched = true) (quiet : t.scan.state ≠ .held)
    (resumed : resume { s with engine := { s.engine with hostPause := false, jamLatched := false } } = t) :
    printResume [] s = .ok (t, [t.engine.state.code]) := by
  unfold printResume
  refine (if_neg (by nofun)).trans ((if_neg (by rw [clear]; nofun)).trans ((if_neg ?_).trans ?_))
  · obtain h | h := due <;> rw [h] <;> simp
  · show Except.ok (scanRetry (resume { s with engine := { s.engine with hostPause := false, jamLatched := false } }),
      [(resume { s with engine := { s.engine with hostPause := false, jamLatched := false } }).engine.state.code]) = _
    rw [resumed, scanRetry_eq quiet]

/-- Settles O53. -/
theorem engineStopsAndResumes : Obligations.EngineStopsAndResumes := by
  refine ⟨?_, ?_⟩
  · intro tag h s s₁ e cut empty
    obtain ⟨paperNone, jamNone, paperPage, jamPage⟩ := engineStops s h
    refine ⟨fun on page dry => ?_, fun on page free => ?_, fun came working page => ?_, fun on out => ?_,
      fun on page dry => ?_, fun on page free => ?_, fun on latched => ?_, fun on => (exec_event on rfl).trans rfl,
      fun came working page => ?_, fun came stopped => ?_⟩
    · have stops := paperNone page dry
      rw [page] at stops
      exact (exec_event on rfl).trans (congrArg _ stops)
    · have stops := jamNone page free
      rw [page] at stops
      exact (exec_event on rfl).trans (congrArg _ stops)
    · obtain ⟨-, k, -, rfl⟩ := State.takes_iff.1 came
      exact exec_answers rfl came ((printPause_eq _ h).1 working page)
    · exact (exec_event (act := paperGoesOut) on rfl).trans (congrArg _ (if_pos out))
    · obtain ⟨only, engine, link⟩ := fault_effect (s := s) (0 :: eOpt e16 e.entry ++ eOpt ePage e.page ++ e16 e.struck)
        (e := { e with paperOut := true, uncut := false, cutFeed := false }) page
      exact ⟨_, (exec_event on rfl).trans (congrArg _ (paperPage page dry)), only, engine, link⟩
    · obtain ⟨only, engine, link⟩ := fault_effect (s := s) (1 :: eOpt e16 e.entry ++ eOpt ePage e.page ++ e16 e.struck)
        (e := { e with jamSensor := true, jamLatched := true, uncut := false, cutFeed := false }) page
      exact ⟨_, (exec_event on rfl).trans (congrArg _ (jamPage page free)), only, engine, link⟩
    · exact (exec_event (act := jamIndication) on rfl).trans (congrArg _ (if_pos latched))
    · obtain ⟨-, k, -, rfl⟩ := State.takes_iff.1 came
      refine ⟨_, exec_answers rfl came ((printPause_eq _ h).2.1 working page), fun p other => ?_, rfl⟩
      cases p <;> first | rfl | exact absurd (by decide) other
    · obtain ⟨-, k, -, rfl⟩ := State.takes_iff.1 came
      exact ⟨_, exec_answers rfl came ((printPause_eq _ h).2.2 stopped), rfl⟩
  · intro tag h r s s₁ quiet e again asked
    have restored {t : State} (on : s.power = true) (out : e.paperOut = true) (same : t.scan = s.scan)
        (resumed : resume { s with engine := { e with paperOut := false } } = t) : exec .paperRestored s = .next t := by
      have act : paperRestored s = t := (if_pos out).trans resumed
      refine (exec_event (act := fun s => scanRetry (paperRestored s)) on rfl).trans ?_
      rw [act, scanRetry_eq (by rw [same]; exact quiet)]
    refine ⟨fun on dry => ?_, fun on out stays => ?_, fun on out jam pause page there closed coded => ?_,
      fun on out jam pause page => ⟨fun entry => ?_, fun n q k entry queued job => ⟨fun unlisted receiving => ?_,
        fun listed there closed octets coded => ?_⟩⟩, fun came clear due dry page entry => ?_, fun came jammed => ?_,
      fun came clear pause jam => ?_, fun came clear due => ⟨fun out => ?_, fun dry entry page there closed coded => ?_⟩⟩
    · have act : paperRestored s = s := if_neg (by rw [show s.engine.paperOut = false from dry]; nofun)
      refine (exec_event (act := fun s => scanRetry (paperRestored s)) on rfl).trans ?_
      rw [act, scanRetry_eq quiet]
    · refine restored on out rfl (resume_stopped ?_)
      show (e.jamLatched || false || e.hostPause) = true
      obtain h | h := stays <;> rw [h] <;> simp
    · exact restored on out rfl (resume_page (s := { s with engine := { e with paperOut := false } })
        (Engine.stopped_eq_false jam rfl pause) page there closed coded)
    · exact restored on out rfl (resume_nothing page entry)
    · refine restored on out (by rfl) ((resume_next (s := { s with engine := { e with paperOut := false } })
        (Engine.stopped_eq_false jam rfl pause) page entry).trans
        ((nextPage_waits (s := { s with engine := { e with paperOut := false } }) entry queued (pageChoice_awaited job unlisted receiving)).trans ?_))
      exact congrArg (fun page => { s with engine := { e with paperOut := false, page } }) page.symm
    · exact restored on out (by rfl) ((resume_next (s := { s with engine := { e with paperOut := false } })
        (Engine.stopped_eq_false jam rfl pause) page entry).trans
        (nextPage_takes (s := { s with engine := { e with paperOut := false } }) entry queued
          (pageChoice_listed job listed) there closed octets coded))
    · obtain ⟨-, k, -, rfl⟩ := State.takes_iff.1 came
      have code : (Engine.state { e with hostPause := false, jamLatched := false }).code = 0 := by
        unfold Engine.state
        rw [show ({ e with hostPause := false, jamLatched := false } : Engine).paperOut = false from dry,
          show ({ e with hostPause := false, jamLatched := false } : Engine).entry = none from entry]
        rfl
      have resumed := printResume_resumes (s := { s with link := k }) clear due (by exact quiet) (resume_nothing page entry)
      exact exec_answers rfl came (resumed.trans (congrArg (fun c => Except.ok (_, [c])) code))
    · obtain ⟨-, k, -, rfl⟩ := State.takes_iff.1 came
      exact exec_refuses rfl came ((if_neg (by nofun)).trans (if_pos jammed))
    · obtain ⟨-, k, -, rfl⟩ := State.takes_iff.1 came
      refine exec_refuses rfl came ((if_neg (by nofun)).trans ((if_neg ?_).trans (if_pos ?_)))
      · rw [show s.engine.jamSensor = false from clear]
        nofun
      · rw [show s.engine.hostPause = false from pause, show s.engine.jamLatched = false from jam]
        rfl
    · obtain ⟨-, k, -, rfl⟩ := State.takes_iff.1 came
      have code : (Engine.state { e with hostPause := false, jamLatched := false }).code = 3 := by
        unfold Engine.state
        rw [show ({ e with hostPause := false, jamLatched := false } : Engine).paperOut = true from out]
        rfl
      have resumed := printResume_resumes (s := { s with link := k }) clear due (by exact quiet) (resume_stopped (by
        show (false || e.paperOut || false) = true
        rw [out]
        rfl))
      exact exec_answers rfl came (resumed.trans (congrArg (fun c => Except.ok (_, [c])) code))
    · obtain ⟨-, k, -, rfl⟩ := State.takes_iff.1 came
      obtain ⟨n, entry⟩ := Option.isSome_iff_exists.1 entry
      have printing : (Engine.resumed { e with hostPause := false, jamLatched := false }).state.code = 1 := by
        unfold Engine.state
        rw [show (Engine.resumed { e with hostPause := false, jamLatched := false }).paperOut = false from dry,
          show (Engine.resumed { e with hostPause := false, jamLatched := false }).entry = some n from entry,
          show (Engine.resumed { e with hostPause := false, jamLatched := false }).page = some h from page]
        rfl
      have resumed := printResume_resumes (s := { s with link := k }) clear due (by exact quiet)
        (resume_page (s := { s with link := k, engine := { e with hostPause := false, jamLatched := false } })
          (Engine.stopped_eq_false rfl dry rfl) page there closed coded)
      exact exec_answers rfl came (resumed.trans (congrArg (fun c => Except.ok (_, [c])) printing))

end Sys2Proof.Machine
end

section
/-! PROOFS. The print engine's entries, pages and head lines (R138 to R147). -/

namespace Sys2Proof.Machine

variable {s : State} {h : PageHandle} {r : PageEntry}

/-! ### A release, whatever the host link's job (R15, R22) -/

/-- Every notice that waits goes on waiting. -/
theorem raise_keeps (kind : NoticeKind) (fields : List Byte) (s : State) :
    s.link.notices ⊆ (raise kind fields s).link.notices := by
  rw [raise_eq]
  split_ifs
  · exact fun x mem => mem
  · exact List.subset_append_left ..
  · exact fun x mem => mem

theorem withdrawReads_frame (h : PageHandle) (s : State) : ∃ job replies, withdrawReads h s =
    { s with store := s.store.withoutReads h, link := { s.link with job, replies } } := by
  unfold withdrawReads
  dsimp only
  split
  · split
    · exact ⟨_, _, rfl⟩
    · exact ⟨s.link.job, s.link.replies, rfl⟩
  · exact ⟨s.link.job, s.link.replies, rfl⟩

theorem lowTest_keeps (s : State) : s.link.notices ⊆ (lowTest s).link.notices := by
  unfold lowTest
  split
  · exact fun x mem => mem
  · split
    · exact raise_keeps .storeLow _ { s with store := { s.store with lowArmed := false } }
    · exact fun x mem => mem

/-- What the return of a page to FREE does: the chain at the pool's tail, the entry cleared with the issue advanced, the
reads of it withdrawn; no notice is lost. -/
theorem freePage_frame (h : PageHandle) (s : State) : ∃ lowArmed link, freePage h s = { s with
    store := { ({ s.store with
      pool := s.store.pool.give (s.entry h.slot).chain,
      dir := s.store.dir.set h.slot (.freeWith (wrapSucc 64 (s.entry h.slot).issue)) } : Store).withoutReads h with
      lowArmed },
    link } ∧ s.link.notices ⊆ link.notices := by
  obtain ⟨job, replies, withdrawn⟩ := withdrawReads_frame h { s with store := { s.store with
    pool := s.store.pool.give (s.entry h.slot).chain
    dir := s.store.dir.set h.slot (.freeWith (wrapSucc 64 (s.entry h.slot).issue)) } }
  have freed := congrArg lowTest withdrawn
  obtain ⟨lowArmed, notices, lost, tested⟩ := lowTest_frame { s with
    store := ({ s.store with
      pool := s.store.pool.give (s.entry h.slot).chain
      dir := s.store.dir.set h.slot (.freeWith (wrapSucc 64 (s.entry h.slot).issue)) } : Store).withoutReads h
    link := { s.link with job, replies } }
  have kept := lowTest_keeps { s with
    store := ({ s.store with
      pool := s.store.pool.give (s.entry h.slot).chain
      dir := s.store.dir.set h.slot (.freeWith (wrapSucc 64 (s.entry h.slot).issue)) } : Store).withoutReads h
    link := { s.link with job, replies } }
  rw [tested] at kept
  exact ⟨lowArmed, _, freed.trans tested, kept⟩

/-- A page's last hold let go releases the page, and no notice is lost. -/
theorem lowerRef_releases (there : s.page h = some r) (closed : r.state = .closed) (refs : r.refs = 1) (pins : r.pins = 0) :
    PageReleased h r s (lowerRef h s) ∧ OnlyChanges [.store, .link] s (lowerRef h s) ∧
      s.link.notices ⊆ (lowerRef h s).link.notices := by
  have lowers : lowerRef h s = freePage h (s.setEntry h.slot { r with refs := r.refs - 1 }) := by
    unfold lowerRef
    rw [there]
    exact releaseTest_frees (State.page_setEntry there (by rw [closed]; nofun) rfl) closed
      (by show r.refs - 1 = 0; omega) pins
  obtain ⟨lowArmed, link, freed, kept⟩ := freePage_frame h (s.setEntry h.slot { r with refs := r.refs - 1 })
  rw [State.entry_setEntry_self] at freed
  rw [lowers, freed]
  refine ⟨⟨Table.get_set_self .., fun k other => ?_, SegPool.give_eq ..⟩, fun p other => ?_, kept⟩
  · exact (Table.get_set_ne _ _ other).trans (Table.get_set_ne _ _ other)
  · cases p <;> first | rfl | exact absurd (by decide) other

/-! ### Decoding on, and the next block (R140) -/

theorem decodeOn_ended {e : Engine} (byteLen : Nat) (ended : e.decoder.ended = true) : decodeOn byteLen e = e := by
  show decodeLoop byteLen (3 * e.decoder.stream.length + 39 + 1) e = e
  rw [decodeLoop]
  exact if_pos ended

theorem askBlock_asks (page : s.engine.page = some h) (there : s.page h = some r) (closed : r.state = .closed)
    (goes : s.engine.decoder.ended = false) (idle : s.engine.decoder.asked = s.engine.decoder.delivered)
    (more : s.engine.decoder.asked < r.committed) (free : s.engine.decoder.asked < s.engine.decoder.decoded / 256 + 2) :
    askBlock s = { s with
      engine := { s.engine with decoder := { s.engine.decoder with asked := s.engine.decoder.asked + 1 } },
      store := { s.store with
        waiting := s.store.waiting ++ [{ client := .print, level := 2, op := .read h s.engine.decoder.asked }] } } := by
  rw [askBlock_eq page there]
  exact (if_pos ⟨goes, idle, more, free⟩).trans (askRead_asked .print (by exact there) closed more)

theorem askBlock_none (page : s.engine.page = some h) (there : s.page h = some r)
    (not : s.engine.decoder.asked ≠ s.engine.decoder.delivered ∨ r.committed ≤ s.engine.decoder.asked ∨
      s.engine.decoder.decoded / 256 + 2 ≤ s.engine.decoder.asked) : askBlock s = s := by
  rw [askBlock_eq page there]
  refine if_neg fun asks => ?_
  obtain ⟨-, idle, more, free⟩ := asks
  obtain h | h | h := not
  · exact h idle
  · omega
  · omega

/-- The engine decodes on in a page whose decode does not end. -/
theorem engineOn_decodes (page : s.engine.page = some h) (clear : s.engine.stopped = false) (there : s.page h = some r)
    (closed : r.state = .closed) :
    let e := decodeOn r.byteLen s.engine
    e.decoder.ended = false →
    (e.decoder.asked = e.decoder.delivered → e.decoder.asked < r.committed → e.decoder.asked < e.decoder.decoded / 256 + 2 →
      engineOn s = { s with
        engine := { e with decoder := { e.decoder with asked := e.decoder.asked + 1 } },
        store := { s.store with waiting := s.store.waiting ++
          [{ client := .print, level := 2, op := .read h e.decoder.asked }] } }) ∧
    ((e.decoder.asked ≠ e.decoder.delivered ∨ r.committed ≤ e.decoder.asked ∨ e.decoder.decoded / 256 + 2 ≤ e.decoder.asked) →
      engineOn s = { s with engine := e }) := by
  intro e goes
  obtain ⟨-, same, -, -⟩ := State.page_some there
  have on : engineOn s = askBlock { s with engine := e } := by
    rw [engineOn_eq page clear, ← same]
    exact if_neg (by rw [show (decodeOn r.byteLen s.engine).decoder.ended = false from goes]; nofun)
  have hand : ({ s with engine := e } : State).engine.page = some h := (decodeOn_page ..).trans page
  exact ⟨fun idle more free => on.trans (askBlock_asks (s := { s with engine := e }) hand there closed goes idle more free),
    fun not => on.trans (askBlock_none (s := { s with engine := e }) hand there not)⟩

/-! ### Head lines (R143 to R145) -/

theorem Engine.state_printing {e : Engine} {n : Nat} (entry : e.entry = some n) (page : e.page = some h)
    (clear : e.stopped = false) : e.state = .decodingPrinting := by
  obtain ⟨⟨jam, paper⟩, pause⟩ := (Bool.or_eq_false_iff.trans (and_congr_left' Bool.or_eq_false_iff)).1 clear
  unfold Engine.state
  rw [jam, paper, pause, entry, page]
  rfl

theorem Engine.state_waiting {e : Engine} {n : Nat} (entry : e.entry = some n) (page : e.page = none)
    (clear : e.stopped = false) : e.state = .waitPage := by
  obtain ⟨⟨jam, paper⟩, pause⟩ := (Bool.or_eq_false_iff.trans (and_congr_left' Bool.or_eq_false_iff)).1 clear
  unfold Engine.state
  rw [jam, paper, pause, entry, page]
  rfl

/-- The head line that an engine has ready, and the ring slots that it frees (R143). -/
theorem headLine_ready {e : Engine} {dots : DotLine} {frees : Nat}
    (ready : e.cls = .coarse ∧ e.ring[0]? = some dots ∧ frees = (if e.halfStruck then 1 else 0) ∨
      e.cls = .fine ∧ e.ring[0]? = some dots ∧ frees = 1 ∨
      (e.cls = .extra ∧ e.ring = [dots] ∧ frees = 1) ∧ e.decoder.ended = true ∨
      ∃ x y, e.cls = .extra ∧ e.ring[0]? = some x ∧ e.ring[1]? = some y ∧ frees = 2 ∧
        dots = List.zipWith (fun p q => p || q) x y) : headLine e = some (dots, frees) := by
  have begins {x : DotLine} (first : e.ring[0]? = some x) : ∃ rest, e.ring = x :: rest := by
    cases ring : e.ring with
    | nil => rw [ring] at first; exact nomatch first
    | cons a rest =>
      rw [ring] at first
      exact ⟨rest, congrArg (· :: rest) (Option.some.inj first)⟩
  unfold headLine
  obtain ⟨cls, first, rfl⟩ | ⟨cls, first, rfl⟩ | ⟨⟨cls, alone, rfl⟩, ended⟩ | ⟨x, y, cls, first, second, rfl, rfl⟩ := ready
  · obtain ⟨rest, ring⟩ := begins first
    rw [cls, ring]
  · obtain ⟨rest, ring⟩ := begins first
    rw [cls, ring]
  · rw [cls, alone]
    exact if_pos ended
  · obtain ⟨rest, ring⟩ := begins first
    rw [ring] at second
    cases rest with
    | nil => exact nomatch second
    | cons b rest =>
      obtain rfl : b = y := Option.some.inj second
      rw [cls, ring]

/-- The engine with a head line struck (R143, R144). -/
def Engine.struckBy (limit : Nat) (dots : DotLine) (frees : Nat) (e : Engine) : Engine := { e with
  ring := e.ring.drop frees, readSlot := (e.readSlot + frees) % 16,
  halfStruck := decide (e.cls = .coarse ∧ frees = 0), struck := min 13824 (e.struck + 1),
  uncut := true, lastStrikes := strikes limit dots, pageStrikes := e.pageStrikes + (strikes limit dots).length }

/-- COARSE strikes a line twice, and only its second strike frees the slot. -/
theorem strikeLine_eq {e : Engine} {dots : DotLine} {frees : Nat} (limit : Nat) (ready : headLine e = some (dots, frees)) :
    strikeLine limit dots frees e = e.struckBy limit dots frees := by
  have half : (decide (e.cls = .coarse) && !e.halfStruck) = decide (e.cls = .coarse ∧ frees = 0) := by
    by_cases cls : e.cls = .coarse
    · unfold headLine at ready
      rw [cls] at ready ⊢
      cases ring : e.ring with
      | nil => rw [ring] at ready; exact nomatch ready
      | cons a rest =>
        rw [ring] at ready
        obtain ⟨rfl, rfl⟩ := Prod.mk.inj (Option.some.inj ready)
        cases e.halfStruck <;> rfl
    · rw [decide_eq_false cls, decide_eq_false fun both => cls both.1]
      rfl
  unfold strikeLine Engine.struckBy
  rw [half]
  rfl

/-- A head line ready is struck, and the engine goes on. -/
theorem headLineStruck_strikes {n frees : Nat} {dots : DotLine} (entry : s.engine.entry = some n)
    (page : s.engine.page = some h) (clear : s.engine.stopped = false) (whole : s.engine.cutFeed = false)
    (ready : headLine s.engine = some (dots, frees)) :
    headLineStruck s = engineOn { s with engine := s.engine.struckBy s.cfg.strikeLimit dots frees } := by
  unfold headLineStruck
  rw [Engine.state_printing entry page clear, whole, ready]
  exact congrArg (fun e => engineOn { s with engine := e }) (strikeLine_eq _ ready)

theorem headLineStruck_none {n : Nat} (entry : s.engine.entry = some n) (page : s.engine.page = some h)
    (clear : s.engine.stopped = false) (whole : s.engine.cutFeed = false) (none : headLine s.engine = none) :
    headLineStruck s = s := by
  unfold headLineStruck
  rw [Engine.state_printing entry page clear, whole, none]
  rfl

end Sys2Proof.Machine
end

section
/-! PROOFS. The print engine: the end of pages and entries (R120, R129, R139, R145 to R147). -/

namespace Sys2Proof.Machine

variable {s : State} {h : PageHandle} {r : PageEntry}

/-- The engine after a page's last head line (R145). -/
def Engine.pageOver (e : Engine) : Engine := { e with
  ring := [], readSlot := 0, writeSlot := 0, halfStruck := false, decoder := .reset, struck := 0, damaged := 0,
  printed := min 255 (e.printed + 1), page := none, cutFeed := true, uncut := true, index := min 255 (e.index + 1) }

/-- A head line struck with others in the ring, the code at its end: no later block is read. -/
theorem headLineStruck_goesOn {n frees : Nat} {dots : DotLine} (entry : s.engine.entry = some n)
    (page : s.engine.page = some h) (clear : s.engine.stopped = false) (whole : s.engine.cutFeed = false)
    (ended : s.engine.decoder.ended = true) (ready : headLine s.engine = some (dots, frees))
    (more : frees < s.engine.ring.length) :
    headLineStruck s = withdraw .print { s with engine := s.engine.struckBy s.cfg.strikeLimit dots frees } := by
  have left : (s.engine.ring.drop frees).isEmpty = false := by
    rw [List.isEmpty_eq_false_iff, ← List.length_pos_iff, List.length_drop]
    omega
  rw [headLineStruck_strikes entry page clear whole ready, engineOn_eq (by exact page) (by exact clear)]
  dsimp only
  rw [decodeOn_ended (e := s.engine.struckBy s.cfg.strikeLimit dots frees) _ ended]
  refine (if_pos ended).trans (if_neg ?_)
  rw [show (s.engine.struckBy s.cfg.strikeLimit dots frees).ring.isEmpty = false from left]
  nofun

/-- The last head line of a page ends the page: counted, its damaged lines recorded, the cut feed begun, and the engine
chooses its next page. -/
theorem headLineStruck_ends {n frees : Nat} {dots : DotLine} (entry : s.engine.entry = some n)
    (page : s.engine.page = some h) (clear : s.engine.stopped = false) (whole : s.engine.cutFeed = false)
    (ended : s.engine.decoder.ended = true) (ready : headLine s.engine = some (dots, frees))
    (last : frees = s.engine.ring.length) (there : s.page h = some r) :
    ∃ port, headLineStruck s = nextPage { s with
      engine := (s.engine.struckBy s.cfg.strikeLimit dots frees).pageOver,
      store := { s.store with
        dir := s.store.dir.set h.slot { r with damagedLines := s.engine.damaged },
        waiting := s.store.waiting.filter fun x => decide (x.client ≠ .print),
        port } } := by
  have empty : (s.engine.ring.drop frees).isEmpty = true := by
    rw [last, List.drop_length]
    rfl
  have strikes_ : headLineStruck s = nextPage (endPage h (withdraw .print
      { s with engine := s.engine.struckBy s.cfg.strikeLimit dots frees })) := by
    rw [headLineStruck_strikes entry page clear whole ready, engineOn_eq (by exact page) (by exact clear)]
    dsimp only
    rw [decodeOn_ended (e := s.engine.struckBy s.cfg.strikeLimit dots frees) _ ended]
    exact (if_pos ended).trans (if_pos empty)
  have once : (s.store.waiting.filter fun x => decide (x.client ≠ .print)).filter (fun x => decide (x.client ≠ .print)) =
      s.store.waiting.filter fun x => decide (x.client ≠ .print) := by
    rw [List.filter_filter]
    simp
  refine ⟨(withdraw .print (withdraw .print s)).store.port, strikes_.trans (congrArg nextPage ?_)⟩
  unfold endPage
  rw [show (withdraw .print { s with engine := s.engine.struckBy s.cfg.strikeLimit dots frees }).page h = some r from there]
  have cut : (s.engine.cutFeed || decide (0 < min 13824 (s.engine.struck + 1))) = true := by
    rw [decide_eq_true (by omega)]
    exact Bool.or_true _
  unfold withdraw
  dsimp only [State.setEntry, State.modEngine]
  rw [once]
  unfold Engine.emptyRing Engine.struckBy Engine.pageOver
  dsimp only
  rw [cut]
  rfl

/-! ### Entries finished (R129, R146) -/

theorem nextPage_finishes {n : Nat} {q : QueueEntry} (entry : s.engine.entry = some n)
    (queued : s.recept.entryNumbered n = some q) (choice : pageChoice s q = .finish) : nextPage s = finishEntry q s := by
  rw [nextPage, choosePage, entry]
  dsimp only
  rw [queued]
  dsimp only
  rw [choice]

theorem pageChoice_over {q : QueueEntry} {k : InHandle} (job : q.job = .document k)
    (last : (s.recept.docs.get k.slot).pages.length ≤ s.engine.index)
    (ended : (s.recept.docs.get k.slot).state ≠ .receiving) : pageChoice s q = .finish := by
  simp only [pageChoice, job, List.getElem?_eq_none last]
  exact if_neg ended

theorem pageChoice_second {q : QueueEntry} (job : q.job = .page h) (index : s.engine.index ≠ 0) :
    pageChoice s q = .finish := by
  simp only [pageChoice, job]
  exact if_neg index

/-- An entry leaves the queue where no document waits. -/
theorem leaveQueue_plain (n : Nat) (none : s.recept.waitList = []) : leaveQueue n s =
    { s with recept := { s.recept with queue := s.recept.queue.filter fun e => decide (e.number ≠ n) } } := by
  obtain ⟨recept, left, plain, -⟩ := leaveQueue_frame n s
  rw [left, plain none]

/-- A page's reference let go, others kept. -/
theorem lowerRef_stays (there : s.page h = some r) (held : 1 < r.refs) :
    lowerRef h s = s.setEntry h.slot { r with refs := r.refs - 1 } := by
  have page := State.page_setEntry (e' := { r with refs := r.refs - 1 }) there
    (by exact (State.page_some there).2.2.1) rfl
  unfold lowerRef
  rw [there]
  exact releaseTest_stays page (.inr (.inl (by show 0 < r.refs - 1; omega)))

/-- A page's entry finishes, its page with another reference. -/
theorem finishEntry_page {q : QueueEntry} (job : q.job = .page h) (there : s.page h = some r) (held : 1 < r.refs)
    (none : s.recept.waitList = []) :
    ∃ notices lost, finishEntry q s = { s with
      engine := { s.engine with entry := .none, page := .none },
      store := { s.store with dir := s.store.dir.set h.slot { r with refs := r.refs - 1 } },
      recept := { s.recept with queue := s.recept.queue.filter fun e => decide (e.number ≠ q.number) },
      link := { s.link with notices, lost } } ∧
      { s.link with notices, lost } = (raise .printDone (printDoneFields q s.engine.printed false) s).link := by
  obtain ⟨notices, lost, raised⟩ := raise_frame .printDone (printDoneFields q s.engine.printed false)
    (s.modEngine fun e => { e with entry := .none, page := .none })
  refine ⟨notices, lost, ?_, ?_⟩
  · unfold finishEntry
    rw [job]
    dsimp only
    rw [raised, lowerRef_stays (r := r) (by exact there) held]
    exact leaveQueue_plain _ (by exact none)
  · refine Eq.trans ?_ (raise_link_congr (s := s) .printDone (printDoneFields q s.engine.printed false)
      (t := s.modEngine fun e => { e with entry := .none, page := .none }) rfl rfl)
    exact (congrArg State.link raised).symm

/-- A document's entry finishes; the document stays. -/
theorem finishEntry_document {q : QueueEntry} {g : InHandle} (job : q.job = .document g) (keeps : s.cfg.autoDiscard = false)
    (none : s.recept.waitList = []) :
    ∃ notices lost, finishEntry q s = { s with
      engine := { s.engine with entry := .none, page := .none },
      recept := { s.recept with
        docs := s.recept.docs.set g.slot { s.recept.docs.get g.slot with printState := .printed },
        queue := s.recept.queue.filter fun e => decide (e.number ≠ q.number) },
      link := { s.link with notices, lost } } ∧
      { s.link with notices, lost } = (raise .printDone (printDoneFields q s.engine.printed false) s).link := by
  obtain ⟨notices, lost, raised⟩ := raise_frame .printDone (printDoneFields q s.engine.printed false)
    ((s.modEngine fun e => { e with entry := .none, page := .none }).modInDoc g.slot fun d => { d with printState := .printed })
  refine ⟨notices, lost, ?_, ?_⟩
  · unfold finishEntry
    rw [job]
    dsimp only
    rw [State.modEngine_cfg, keeps, raised]
    exact leaveQueue_plain _ (by exact none)
  · refine Eq.trans ?_ (raise_link_congr (s := s) .printDone (printDoneFields q s.engine.printed false)
      (t := (s.modEngine fun e => { e with entry := .none, page := .none }).modInDoc g.slot
        fun d => { d with printState := .printed }) rfl rfl)
    exact (congrArg State.link raised).symm

/-- A document's entry finishes with auto-discard on: its references are lowered, its slot is FREE. -/
theorem finishEntry_discards {q : QueueEntry} {g : InHandle} (job : q.job = .document g) (discards : s.cfg.autoDiscard = true) :
    ∃ notices lost, finishEntry q s = leaveQueue q.number (lowerRefs (s.recept.docs.get g.slot).pages { s with
      engine := { s.engine with entry := .none, page := .none },
      recept := { s.recept with
        docs := (s.recept.docs.set g.slot { s.recept.docs.get g.slot with printState := .printed }).set g.slot
          (.freeWith (((s.recept.docs.get g.slot).issue + 1) % 256)) },
      link := { s.link with notices, lost } }) ∧
      { s.link with notices, lost } = (raise .printDone (printDoneFields q s.engine.printed true) s).link := by
  obtain ⟨notices, lost, raised⟩ := raise_frame .printDone (printDoneFields q s.engine.printed true)
    ((s.modEngine fun e => { e with entry := .none, page := .none }).modInDoc g.slot fun d => { d with printState := .printed })
  refine ⟨notices, lost, ?_, ?_⟩
  · unfold finishEntry
    rw [job]
    dsimp only
    rw [State.modEngine_cfg, discards, raised, if_pos rfl]
    have at_slot : (s.recept.docs.set g.slot { s.recept.docs.get g.slot with printState := .printed }).get g.slot =
        { s.recept.docs.get g.slot with printState := .printed } := Table.get_set_self ..
    unfold freeInbound
    show leaveQueue _ (lowerRefs ((s.recept.docs.set g.slot { s.recept.docs.get g.slot with
      printState := .printed }).get g.slot).pages _) = _
    rw [at_slot]
    dsimp only [State.setInDoc, State.modInDoc, State.modEngine]
    rw [at_slot]
    rfl
  · refine Eq.trans ?_ (raise_link_congr (s := s) .printDone (printDoneFields q s.engine.printed true)
      (t := (s.modEngine fun e => { e with entry := .none, page := .none }).modInDoc g.slot
        fun d => { d with printState := .printed }) rfl rfl)
    exact (congrArg State.link raised).symm

end Sys2Proof.Machine
end

section
/-! PROOFS. The steps of the print engine (R138 to R147). -/

namespace Sys2Proof.Machine

variable {s : State} {h : PageHandle} {r : PageEntry}

/-! ### The state as a page ends -/

/-- The part after the last head line of a page, before the engine chooses the next one. -/
def State.pageOver (s : State) (e : Engine) (h : PageHandle) (r : PageEntry) (port : Option Transfer) : State := { s with
  engine := e.pageOver,
  store := { s.store with
    dir := s.store.dir.set h.slot { r with damagedLines := s.engine.damaged },
    waiting := s.store.waiting.filter fun x => decide (x.client ≠ .print),
    port } }

theorem pageOver_page (e : Engine) (port : Option Transfer) (there : s.page h = some r) :
    (s.pageOver e h r port).page h = some { r with damagedLines := s.engine.damaged } :=
  State.page_setEntry (e' := { r with damagedLines := s.engine.damaged }) there (by exact (State.page_some there).2.2.1) rfl

theorem pageOver_page_ne (e : Engine) (port : Option Transfer) {p : PageHandle} (other : p.slot ≠ h.slot) :
    (s.pageOver e h r port).page p = s.page p := page_setEntry_ne s { r with damagedLines := s.engine.damaged } other

/-- Every page that was there is there, with its state, references and code. -/
theorem pageOver_live (e : Engine) (port : Option Transfer) (there : s.page h = some r) {p : PageHandle} {x : PageEntry}
    (also : s.page p = some x) : ∃ y, (s.pageOver e h r port).page p = some y ∧ y.state = x.state ∧ y.refs = x.refs ∧
      y.byteLen = x.byteLen ∧ y.committed = x.committed ∧ y.cls = x.cls := by
  by_cases same : p.slot = h.slot
  · obtain rfl := eq_of_same_slot there also same
    obtain rfl : r = x := Option.some.inj (there.symm.trans also)
    exact ⟨_, pageOver_page e port there, rfl, rfl, rfl, rfl, rfl⟩
  · exact ⟨x, (pageOver_page_ne e port same).trans also, rfl, rfl, rfl, rfl, rfl⟩

theorem pageOver_frame (e : Engine) (h : PageHandle) (r : PageEntry) (port : Option Transfer) :
    OnlyChanges [.engine, .store] s (s.pageOver e h r port) := by
  intro p other
  cases p <;> first | rfl | exact absurd (by decide) other

/-! ### What the engine chooses after a page -/

section
variable {n : Nat} {q : QueueEntry} {g : InHandle} {e : Engine} {port : Option Transfer}

/-- The last page of an entry that keeps its page or document ends it (R146). -/
theorem pageOver_finishes (entry : e.entry = some n) (printed : e.printed = s.engine.printed) (same : e.index = s.engine.index)
    (queued : s.recept.entryNumbered n = some q) (none : s.recept.waitList = []) (there : s.page h = some r)
    (held : 1 < r.refs) (number : q.number = n) (short : s.engine.index < 255)
    (job : q.job = .page h ∧ s.engine.index = 0 ∨ ∃ g, q.job = .document g ∧ s.cfg.autoDiscard = false ∧
      (s.recept.docs.get g.slot).pages.length = s.engine.index + 1 ∧ (s.recept.docs.get g.slot).state ≠ .receiving) :
    let t := nextPage (s.pageOver e h r port)
    OnlyChanges [.engine, .store, .recept, .link] s t ∧
      t.entry h.slot = { r with
        damagedLines := s.engine.damaged, refs := if q.job = .page h then r.refs - 1 else r.refs } ∧
      t.engine.entry = .none ∧ t.engine.page = .none ∧ t.engine.ring = [] ∧ t.engine.cutFeed = true ∧
      t.engine.uncut = true ∧ t.engine.printed = min 255 (s.engine.printed + 1) ∧
      t.recept.queue = s.recept.queue.filter (fun e => decide (e.number ≠ n)) ∧
      (∀ g, q.job = .document g → (t.recept.docs.get g.slot).printState = .printed) ∧
      t.link = (raise .printDone (printDoneFields q (min 255 (s.engine.printed + 1)) false) s).link := by
  intro t
  subst number
  have count : (s.pageOver e h r port).engine.printed = min 255 (s.engine.printed + 1) :=
    congrArg (fun x => min 255 (x + 1)) printed
  have at_index : (s.pageOver e h r port).engine.index = s.engine.index + 1 := by
    show min 255 (e.index + 1) = _
    rw [same]
    omega
  obtain ⟨job, zero⟩ | ⟨g, job, keeps, all, ended⟩ := job
  · have finishes : t = finishEntry q (s.pageOver e h r port) :=
      nextPage_finishes (by exact entry) (by exact queued) (pageChoice_second job (by rw [at_index]; omega))
    obtain ⟨notices, lost, finished, told⟩ := finishEntry_page (s := s.pageOver e h r port) job
      (pageOver_page e port there) held none
    rw [finishes, finished]
    refine ⟨?_, ?_, rfl, rfl, rfl, rfl, rfl, count, rfl, fun g doc => ?_, ?_⟩
    · intro p other
      cases p <;> first | rfl | exact absurd (by decide) other
    · rw [if_pos job]
      exact Table.get_set_self ..
    · rw [job] at doc
      exact nomatch doc
    · rw [count] at told
      exact told.trans (raise_link_congr _ _ rfl rfl)
  · have finishes : t = finishEntry q (s.pageOver e h r port) :=
      nextPage_finishes (by exact entry) (by exact queued)
        (pageChoice_over job (by rw [at_index]; exact Nat.le_of_eq all) ended)
    obtain ⟨notices, lost, finished, told⟩ := finishEntry_document (s := s.pageOver e h r port) job keeps none
    rw [finishes, finished]
    refine ⟨?_, ?_, rfl, rfl, rfl, rfl, rfl, count, rfl, fun g' doc => ?_, ?_⟩
    · intro p other
      cases p <;> first | rfl | exact absurd (by decide) other
    · rw [if_neg (by rw [job]; nofun)]
      exact Table.get_set_self ..
    · obtain rfl := PrintJob.document.inj (job.symm.trans doc)
      exact congrArg InDoc.printState (Table.get_set_self ..)
    · rw [count] at told
      exact told.trans (raise_link_congr _ _ rfl rfl)

/-- The engine waits for the next page of a document being received (R147). -/
theorem pageOver_waits (entry : e.entry = some n) (queued : s.recept.entryNumbered n = some q) (job : q.job = .document g)
    (unlisted : (s.recept.docs.get g.slot).pages[min 255 (e.index + 1)]? = none)
    (receiving : (s.recept.docs.get g.slot).state = .receiving) :
    nextPage (s.pageOver e h r port) = s.pageOver e h r port :=
  nextPage_waits (by exact entry) (by exact queued) (pageChoice_awaited job (by exact unlisted) receiving)

/-- The next page of the document's list is taken at once. -/
theorem pageOver_takes {p : PageHandle} {x : PageEntry} (entry : e.entry = some n)
    (queued : s.recept.entryNumbered n = some q) (job : q.job = .document g) (there : s.page h = some r)
    (listed : (s.recept.docs.get g.slot).pages[min 255 (e.index + 1)]? = some p) (also : s.page p = some x)
    (closed : x.state = .closed) (octets : 0 < x.byteLen) (coded : 0 < x.committed) :
    nextPage (s.pageOver e h r port) = { s.pageOver e h r port with
      engine := { e.pageOver with
        page := some p, cls := x.cls, pageStrikes := 0, decoder := { Decoder.reset with asked := 1 } },
      store := { (s.pageOver e h r port).store with
        waiting := (s.store.waiting.filter fun x => decide (x.client ≠ .print)) ++
          [{ client := .print, level := 2, op := .read p 0 }] } } := by
  obtain ⟨y, live, state, -, len, blocks, cls⟩ := pageOver_live e port there also
  rw [nextPage_takes (by exact entry) (by exact queued) (pageChoice_listed job (by exact listed)) live (state.trans closed)
    (by omega) (by omega), cls]
  rfl

/-- The part as the entry of a discarded document ends, its references not yet lowered. -/
def State.discarded (s : State) (g : InHandle) (notices : List Notice) (lost : Nat) : State := { s with
  engine := { s.engine with entry := none, page := none },
  recept := { s.recept with
    docs := (s.recept.docs.set g.slot { s.recept.docs.get g.slot with printState := .printed }).set g.slot
      (.freeWith (((s.recept.docs.get g.slot).issue + 1) % 256)) },
  link := { s.link with notices, lost } }

/-- The last page of a document that auto-discard frees. -/
theorem pageOver_discards (entry : e.entry = some n) (printed : e.printed = s.engine.printed)
    (same : e.index = s.engine.index) (queued : s.recept.entryNumbered n = some q) (number : q.number = n)
    (short : s.engine.index < 255) (job : q.job = .document g) (discards : s.cfg.autoDiscard = true)
    (all : (s.recept.docs.get g.slot).pages.length = s.engine.index + 1)
    (ended : (s.recept.docs.get g.slot).state ≠ .receiving) :
    ∃ notices lost, nextPage (s.pageOver e h r port) =
        leaveQueue n (lowerRefs (s.recept.docs.get g.slot).pages ((s.pageOver e h r port).discarded g notices lost)) ∧
      { s.link with notices, lost } = (raise .printDone (printDoneFields q (min 255 (s.engine.printed + 1)) true) s).link := by
  subst number
  have count : (s.pageOver e h r port).engine.printed = min 255 (s.engine.printed + 1) :=
    congrArg (fun x => min 255 (x + 1)) printed
  have at_index : (s.pageOver e h r port).engine.index = s.engine.index + 1 := by
    show min 255 (e.index + 1) = _
    rw [same]
    omega
  have finishes : nextPage (s.pageOver e h r port) = finishEntry q (s.pageOver e h r port) :=
    nextPage_finishes (by exact entry) (by exact queued)
      (pageChoice_over job (by rw [at_index]; exact Nat.le_of_eq all) ended)
  obtain ⟨notices, lost, finished, told⟩ := finishEntry_discards (s := s.pageOver e h r port) job discards
  rw [count] at told
  exact ⟨notices, lost, finishes.trans finished, told.trans (raise_link_congr _ _ rfl rfl)⟩

/-- What the entry of a discarded document leaves behind, whatever becomes of its pages. -/
theorem discarded_effect {notices : List Notice} {lost : Nat} {u : State}
    (only : OnlyChanges [.store, .link] ((s.pageOver e h r port).discarded g notices lost) u)
    (none : s.recept.waitList = []) (printed : e.printed = s.engine.printed) :
    let t := leaveQueue n u
    t.engine.entry = .none ∧ t.engine.page = .none ∧ t.engine.ring = [] ∧ t.engine.cutFeed = true ∧
      t.engine.uncut = true ∧ t.engine.printed = min 255 (s.engine.printed + 1) ∧
      t.recept.queue = s.recept.queue.filter (fun e => decide (e.number ≠ n)) ∧
      t.recept.docs.get g.slot = .freeWith (((s.recept.docs.get g.slot).issue + 1) % 256) ∧
      (∀ k, k ≠ g.slot → t.recept.docs.get k = s.recept.docs.get k) ∧
      OnlyChanges [.engine, .store, .recept, .link] s t := by
  have recept : u.recept = ((s.pageOver e h r port).discarded g notices lost).recept := only .recept (by decide)
  have engine : u.engine = _ := only .engine (by decide)
  have waits : u.recept.waitList = [] := by rw [recept]; exact none
  rw [leaveQueue_plain n waits]
  intro t
  have engine' : t.engine = ((s.pageOver e h r port).discarded g notices lost).engine := engine
  have docs : t.recept.docs = ((s.pageOver e h r port).discarded g notices lost).recept.docs :=
    (congrArg Reception.docs recept :)
  have queue : t.recept.queue = s.recept.queue.filter (fun e => decide (e.number ≠ n)) :=
    (congrArg (fun r : Reception => r.queue.filter fun e => decide (e.number ≠ n)) recept :)
  rw [engine', docs]
  refine ⟨rfl, rfl, rfl, rfl, rfl, congrArg (fun x => min 255 (x + 1)) printed, queue, Table.get_set_self .., fun k other => ?_,
    fun p other => ?_⟩
  · exact (Table.get_set_ne _ _ other).trans (Table.get_set_ne _ _ other)
  · have kept := only p fun mem => other (by revert mem other; cases p <;> decide)
    revert kept
    cases p <;> first | exact fun kept => kept | exact absurd (by decide) other

end

/-! ### The steps -/

/-- The engine's steps ask a held scan's write again; with none held they are the engine's alone. -/
theorem exec_headLineStruck {t : State} (on : s.power = true) (quiet : s.scan.state ≠ .held)
    (act : headLineStruck s = t) (same : t.scan = s.scan) : exec .headLineStruck s = .next t := by
  refine (exec_event (act := fun s => scanRetry (headLineStruck s)) on rfl).trans ?_
  rw [act, scanRetry_eq (by rw [same]; exact quiet)]

/-- The entry at the queue's head begins with its first page (R138 to R140). -/
theorem entryBegin_page {q : QueueEntry} {rest : List QueueEntry} {p : PageHandle} {e : PageEntry} {docs : Table InDoc}
    (queue : s.recept.queue = q :: rest) (free : s.engine.entry = none) (clear : s.engine.stopped = false)
    (which : q.job = .page p ∧ docs = s.recept.docs ∨
      ∃ h, q.job = .document h ∧ (s.recept.docs.get h.slot).pages[0]? = some p ∧
        docs = s.recept.docs.set h.slot { s.recept.docs.get h.slot with printState := .printing })
    (there : s.page p = some e) (closed : e.state = .closed) (octets : 0 < e.byteLen) (coded : 0 < e.committed) :
    entryBegin s = { s with
      recept := { s.recept with queue := { q with begun := true } :: rest, docs },
      engine := { s.engine with
        entry := some q.number, index := 0, page := some p, cls := e.cls, printed := 0, struck := 0, damaged := 0,
        ring := [], readSlot := 0, writeSlot := 0, halfStruck := false, decoder := { Decoder.reset with asked := 1 },
        pageStrikes := 0 },
      store := { s.store with waiting := s.store.waiting ++ [{ client := .print, level := 2, op := .read p 0 }] } } := by
  have numbered (r : Reception) (same : r.queue = { q with begun := true } :: rest) :
      r.entryNumbered q.number = some { q with begun := true } := by
    unfold Reception.entryNumbered
    rw [same]
    exact List.find?_cons_of_pos (decide_eq_true rfl)
  obtain ⟨number, job, urgent, begun⟩ := q
  unfold entryBegin
  rw [free, clear, queue]
  obtain ⟨rfl, rfl⟩ | ⟨h, rfl, first, rfl⟩ := which
  · exact nextPage_takes (s := { s with
      recept := { s.recept with queue := ⟨number, _, urgent, true⟩ :: rest }
      engine := { s.engine with entry := some number, index := 0, printed := 0, damaged := 0, struck := 0 } })
      rfl (numbered _ rfl) rfl there closed octets coded
  · refine nextPage_takes (s := { s with
      recept := { s.recept with
        queue := ⟨number, _, urgent, true⟩ :: rest
        docs := s.recept.docs.set h.slot { s.recept.docs.get h.slot with printState := .printing } }
      engine := { s.engine with entry := some number, index := 0, printed := 0, damaged := 0, struck := 0 } })
      rfl (numbered _ rfl) (pageChoice_listed (k := h) rfl ?_) there closed octets coded
    show ((s.recept.docs.set h.slot { s.recept.docs.get h.slot with printState := .printing }).get h.slot).pages[0]? = _
    rw [Table.get_set_self]
    exact first

/-- A document being received that has no page yet leaves the engine waiting. -/
theorem entryBegin_waits {q : QueueEntry} {rest : List QueueEntry} {g : InHandle} (queue : s.recept.queue = q :: rest)
    (free : s.engine.entry = none) (clear : s.engine.stopped = false) (job : q.job = .document g)
    (pages : (s.recept.docs.get g.slot).pages = []) (receiving : (s.recept.docs.get g.slot).state = .receiving) :
    entryBegin s = { s with
      recept := { s.recept with
        queue := { q with begun := true } :: rest,
        docs := s.recept.docs.set g.slot { s.recept.docs.get g.slot with printState := .printing } },
      engine := { s.engine with entry := some q.number, index := 0, printed := 0, damaged := 0, struck := 0, page := none } } := by
  obtain ⟨number, job, urgent, begun⟩ := q
  subst job
  unfold entryBegin
  rw [free, clear, queue]
  have at_slot : (s.recept.docs.set g.slot { s.recept.docs.get g.slot with printState := .printing }).get g.slot =
      { s.recept.docs.get g.slot with printState := .printing } := Table.get_set_self ..
  refine nextPage_waits (s := { s with
    recept := { s.recept with
      queue := ⟨number, .document g, urgent, true⟩ :: rest
      docs := s.recept.docs.set g.slot { s.recept.docs.get g.slot with printState := .printing } }
    engine := { s.engine with entry := some number, index := 0, printed := 0, damaged := 0, struck := 0 } })
    (q := ⟨number, .document g, urgent, true⟩) rfl ?_ (pageChoice_awaited (k := g) rfl ?_ ?_)
  · exact List.find?_cons_of_pos (decide_eq_true rfl)
  · show ((s.recept.docs.set g.slot { s.recept.docs.get g.slot with printState := .printing }).get g.slot).pages[0]? = _
    rw [at_slot, show ({ s.recept.docs.get g.slot with printState := .printing } : InDoc).pages = [] from pages]
    rfl
  · show ((s.recept.docs.set g.slot { s.recept.docs.get g.slot with printState := .printing }).get g.slot).state = _
    rw [at_slot]
    exact receiving

/-- The engine's part in the clauses of O51: entries begun, head lines struck, blocks taken. -/
theorem entriesBegin (q : QueueEntry) (rest : List QueueEntry) (on : s.power = true) (quiet : s.scan.state ≠ .held)
    (queue : s.recept.queue = q :: rest) (free : s.engine.entry = none) (clear : s.engine.stopped = false) :
    (∀ (p : PageHandle) (e : PageEntry) (docs : Table InDoc),
       (q.job = .page p ∧ docs = s.recept.docs ∨
         ∃ h, q.job = .document h ∧ (s.recept.docs.get h.slot).pages[0]? = some p ∧
           docs = s.recept.docs.set h.slot { s.recept.docs.get h.slot with printState := .printing }) →
       s.page p = some e → e.state = .closed → 0 < e.byteLen → 0 < e.committed →
       exec .printEntryBegin s = .next { s with
         recept := { s.recept with queue := { q with begun := true } :: rest, docs },
         engine := { s.engine with
           entry := some q.number, index := 0, page := some p, cls := e.cls, printed := 0, struck := 0, damaged := 0,
           ring := [], readSlot := 0, writeSlot := 0, halfStruck := false, decoder := { Decoder.reset with asked := 1 },
           pageStrikes := 0 },
         store := { s.store with waiting := s.store.waiting ++ [{ client := .print, level := 2, op := .read p 0 }] } }) ∧
     ∀ h, q.job = .document h → (s.recept.docs.get h.slot).pages = [] → (s.recept.docs.get h.slot).state = .receiving →
       ∃ t, exec .printEntryBegin s = .next t ∧ t.engine.state = .waitPage ∧ t.engine.entry = some q.number ∧
         (t.recept.docs.get h.slot).printState = .printing ∧ OnlyChanges [.recept, .engine] s t := by
  have begins {t : State} (act : entryBegin s = t) (same : t.scan = s.scan) : exec .printEntryBegin s = .next t := by
    refine (exec_event (act := fun s => scanRetry (entryBegin s)) on rfl).trans ?_
    rw [act, scanRetry_eq (by rw [same]; exact quiet)]
  refine ⟨fun p e docs which there closed octets coded => ?_, fun g job pages receiving => ?_⟩
  · exact begins (entryBegin_page queue free clear which there closed octets coded) rfl
  · refine ⟨_, begins (entryBegin_waits queue free clear job pages receiving) rfl, Engine.state_waiting rfl rfl clear, rfl,
      congrArg InDoc.printState (Table.get_set_self ..), fun p other => ?_⟩
    cases p <;> first | rfl | exact absurd (by decide) other

/-- A block read for the engine joins the decoder's stream, and the decoder goes on. -/
theorem blockDelivered {k level addr : Nat} (on : s.power = true) (quiet : s.scan.state ≠ .held)
    (granted : s.store.port = some { req := { client := .print, level, op := .read h k }, addr, void := false })
    (page : s.engine.page = some h) (clear : s.engine.stopped = false) (there : s.page h = some r)
    (closed : r.state = .closed) :
    let e := decodeOn r.byteLen { s.engine with decoder := { s.engine.decoder with
      delivered := s.engine.decoder.delivered + 1,
      stream := s.engine.decoder.stream ++ Memory.readBlock s.mem addr } }
    e.decoder.ended = false →
    (e.decoder.asked = e.decoder.delivered → e.decoder.asked < r.committed →
      e.decoder.asked < e.decoder.decoded / 256 + 2 →
      exec (.blockReadComplete []) s = .next { s with
        engine := { e with decoder := { e.decoder with asked := e.decoder.asked + 1 } },
        store := { s.store with port := none, waiting := s.store.waiting ++
          [{ client := .print, level := 2, op := .read h e.decoder.asked }] } }) ∧
    ((r.committed ≤ e.decoder.asked ∨ e.decoder.decoded / 256 + 2 ≤ e.decoder.asked) →
      exec (.blockReadComplete []) s = .next { s with engine := e, store := { s.store with port := none } }) := by
  intro e goes
  have completes {t : State} (act : readStep [] s = t) (same : t.scan = s.scan) :
      exec (.blockReadComplete []) s = .next t := by
    refine (exec_event (act := fun s => scanRetry (readStep [] s)) on rfl).trans ?_
    rw [act, scanRetry_eq (by rw [same]; exact quiet)]
  have reads : readStep [] s = engineOn { freePort s with engine := { s.engine with decoder := { s.engine.decoder with
      delivered := s.engine.decoder.delivered + 1
      stream := s.engine.decoder.stream ++ Memory.readBlock s.mem addr } } } := by
    rw [readStep_clean granted]
    rfl
  obtain ⟨asks, rests⟩ := engineOn_decodes (h := h) (r := r) (s := { freePort s with
    engine := { s.engine with decoder := { s.engine.decoder with
      delivered := s.engine.decoder.delivered + 1
      stream := s.engine.decoder.stream ++ Memory.readBlock s.mem addr } } }) page clear there closed goes
  exact ⟨fun idle more room => completes (reads.trans (asks idle more room)) rfl,
    fun not => completes (reads.trans (rests (.inr not))) rfl⟩

end Sys2Proof.Machine
end

section
/-! PROOFS. Head lines struck (R120, R143 to R147). -/

namespace Sys2Proof.Machine

section
variable {h : PageHandle} {n frees : Nat} {dots : DotLine} {s : State}

/-- The engine prints: an entry and a page in hand, no stop, no cut feed. -/
def Engine.prints (e : Engine) (n : Nat) (h : PageHandle) : Prop :=
  e.entry = some n ∧ e.page = some h ∧ e.stopped = false ∧ e.cutFeed = false

/-- A page's last head line, and what the engine chooses after it. -/
theorem lastHeadLine {r : PageEntry} (on : s.power = true) (quiet : s.scan.state ≠ .held) (prints : s.engine.prints n h)
    (ended : s.engine.decoder.ended = true) (ready : headLine s.engine = some (dots, frees))
    (last : frees = s.engine.ring.length) (there : s.page h = some r) :
    ∃ port, ∀ t, nextPage (s.pageOver (s.engine.struckBy s.cfg.strikeLimit dots frees) h r port) = t →
      OnlyChanges [.engine, .store, .recept, .link] s t → exec .headLineStruck s = .next t := by
  obtain ⟨entry, page, clear, whole⟩ := prints
  obtain ⟨port, ends⟩ := headLineStruck_ends entry page clear whole ended ready last there
  exact ⟨port, fun t chosen only => exec_headLineStruck on quiet (ends.trans chosen) (only .scan (by decide))⟩

/-- A head line with others left after it. -/
theorem headLine_leaves (on : s.power = true) (quiet : s.scan.state ≠ .held) (prints : s.engine.prints n h)
    (ended : s.engine.decoder.ended = true) (ready : headLine s.engine = some (dots, frees))
    (more : frees < s.engine.ring.length) :
    ∃ t, exec .headLineStruck s = .next t ∧ OnlyChanges [.engine, .store] s t ∧
      t.engine = s.engine.struckBy s.cfg.strikeLimit dots frees := by
  obtain ⟨entry, page, clear, whole⟩ := prints
  refine ⟨_, exec_headLineStruck on quiet (headLineStruck_goesOn entry page clear whole ended ready more) rfl,
    fun p other => ?_, rfl⟩
  cases p <;> first | rfl | exact absurd (by decide) other

theorem discarded_entry (g : InHandle) (notices : List Notice) (lost k : Nat) :
    (s.discarded g notices lost).entry k = s.entry k := rfl

theorem pageOver_entry_self (e : Engine) (r : PageEntry) (port : Option Transfer) :
    (s.pageOver e h r port).entry h.slot = { r with damagedLines := s.engine.damaged } := Table.get_set_self ..

theorem pageOver_entry_ne (e : Engine) {r : PageEntry} (port : Option Transfer) {k : Nat} (other : k ≠ h.slot) :
    (s.pageOver e h r port).entry k = s.entry k := Table.get_set_ne _ _ other

/-- The last page of a discarded document, whose pages keep other references. -/
theorem discard_held {q : QueueEntry} {g : InHandle} {r : PageEntry} (on : s.power = true) (quiet : s.scan.state ≠ .held)
    (prints : s.engine.prints n h) (ended : s.engine.decoder.ended = true) (ready : headLine s.engine = some (dots, frees))
    (last : frees = s.engine.ring.length) (queued : s.recept.entryNumbered n = some q) (none : s.recept.waitList = [])
    (there : s.page h = some r) (number : q.number = n) (short : s.engine.index < 255) (job : q.job = .document g)
    (discards : s.cfg.autoDiscard = true) (all : (s.recept.docs.get g.slot).pages.length = s.engine.index + 1)
    (ceased : (s.recept.docs.get g.slot).state ≠ .receiving)
    (held : ∀ p ∈ (s.recept.docs.get g.slot).pages, ∃ e, s.page p = some e ∧ (s.recept.docs.get g.slot).pages.count p < e.refs) :
    ∃ t, exec .headLineStruck s = .next t ∧
      (t.engine.entry = .none ∧ t.engine.page = .none ∧ t.engine.ring = [] ∧ t.engine.cutFeed = true ∧
        t.engine.uncut = true ∧ t.engine.printed = min 255 (s.engine.printed + 1) ∧
        t.recept.queue = s.recept.queue.filter (fun e => decide (e.number ≠ n)) ∧
        t.recept.docs.get g.slot = .freeWith (((s.recept.docs.get g.slot).issue + 1) % 256) ∧
        (∀ k, k ≠ g.slot → t.recept.docs.get k = s.recept.docs.get k) ∧
        OnlyChanges [.engine, .store, .recept, .link] s t) ∧
      t.store.pool = s.store.pool ∧
      (∀ k, t.entry k = { s.entry k with
        damagedLines := if k = h.slot then s.engine.damaged else (s.entry k).damagedLines,
        refs := (s.entry k).refs - ((s.recept.docs.get g.slot).pages.filter fun p => decide (p.slot = k)).length }) ∧
      t.link = (raise .printDone (printDoneFields q (min 255 (s.engine.printed + 1)) true) s).link := by
  obtain ⟨entry, page, clear, whole⟩ := prints
  obtain ⟨port, strikes_⟩ := lastHeadLine on quiet ⟨entry, page, clear, whole⟩ ended ready last there
  obtain ⟨notices, lost, chosen, told⟩ := pageOver_discards (r := r) (h := h) (port := port)
    (e := s.engine.struckBy s.cfg.strikeLimit dots frees) entry rfl rfl queued number short job discards all ceased
  obtain ⟨dir, lowered, entries, -⟩ := lowerRefs_held (pages := (s.recept.docs.get g.slot).pages)
    (s := (s.pageOver (s.engine.struckBy s.cfg.strikeLimit dots frees) h r port).discarded g notices lost) fun p mem => by
      obtain ⟨x, also, more⟩ := held p mem
      obtain ⟨y, live, -, refs, -⟩ := pageOver_live (s.engine.struckBy s.cfg.strikeLimit dots frees) port there also
      exact ⟨y, live, by omega⟩
  have effect := discarded_effect (s := s) (n := n) (g := g) (h := h) (r := r) (port := port)
    (e := s.engine.struckBy s.cfg.strikeLimit dots frees) (notices := notices) (lost := lost)
    (u := lowerRefs (s.recept.docs.get g.slot).pages
      ((s.pageOver (s.engine.struckBy s.cfg.strikeLimit dots frees) h r port).discarded g notices lost))
    (fun p other => by rw [lowered]; cases p <;> first | rfl | exact absurd (by decide) other) none rfl
  obtain ⟨-, -, -, -, -, -, -, -, -, only⟩ := id effect
  refine ⟨_, strikes_ _ chosen only, effect, ?_⟩
  rw [leaveQueue_plain n (by rw [lowered]; exact none), lowered]
  refine ⟨rfl, fun k => (entries k).trans ?_, told⟩
  obtain ⟨-, same, -, -⟩ := State.page_some there
  rw [discarded_entry]
  by_cases here : k = h.slot
  · subst here
    rw [if_pos rfl, pageOver_entry_self, ← same]
  · rw [if_neg here, pageOver_entry_ne _ _ here]

theorem lowerRefs_one (h : PageHandle) (s : State) : lowerRefs [h] s = lowerRef h s := rfl

/-- The last page of a discarded document, whose only hold the document's reference was. -/
theorem discard_releases {q : QueueEntry} {g : InHandle} {r : PageEntry} (on : s.power = true) (quiet : s.scan.state ≠ .held)
    (prints : s.engine.prints n h) (ended : s.engine.decoder.ended = true) (ready : headLine s.engine = some (dots, frees))
    (last : frees = s.engine.ring.length) (queued : s.recept.entryNumbered n = some q) (none : s.recept.waitList = [])
    (there : s.page h = some r) (number : q.number = n) (short : s.engine.index < 255) (job : q.job = .document g)
    (discards : s.cfg.autoDiscard = true) (all : (s.recept.docs.get g.slot).pages.length = s.engine.index + 1)
    (ceased : (s.recept.docs.get g.slot).state ≠ .receiving) (pages : (s.recept.docs.get g.slot).pages = [h])
    (closed : r.state = .closed) (refs : r.refs = 1) (pins : r.pins = 0) :
    ∃ t, exec .headLineStruck s = .next t ∧
      (t.engine.entry = .none ∧ t.engine.page = .none ∧ t.engine.ring = [] ∧ t.engine.cutFeed = true ∧
        t.engine.uncut = true ∧ t.engine.printed = min 255 (s.engine.printed + 1) ∧
        t.recept.queue = s.recept.queue.filter (fun e => decide (e.number ≠ n)) ∧
        t.recept.docs.get g.slot = .freeWith (((s.recept.docs.get g.slot).issue + 1) % 256) ∧
        (∀ k, k ≠ g.slot → t.recept.docs.get k = s.recept.docs.get k) ∧
        OnlyChanges [.engine, .store, .recept, .link] s t) ∧
      PageReleased h r s t ∧
      (s.link.mask = 0 → s.link.notices.length ≤ 30 → ∃ x ∈ t.link.notices, x.kind = .printDone ∧
        x.fields = printDoneFields q (min 255 (s.engine.printed + 1)) true) := by
  obtain ⟨entry, page, clear, whole⟩ := prints
  obtain ⟨port, strikes_⟩ := lastHeadLine on quiet ⟨entry, page, clear, whole⟩ ended ready last there
  obtain ⟨notices, lost, chosen, told⟩ := pageOver_discards (r := r) (h := h) (port := port)
    (e := s.engine.struckBy s.cfg.strikeLimit dots frees) entry rfl rfl queued number short job discards all ceased
  obtain ⟨released, low, kept⟩ := lowerRef_releases (h := h) (r := { r with damagedLines := s.engine.damaged })
    (s := (s.pageOver (s.engine.struckBy s.cfg.strikeLimit dots frees) h r port).discarded g notices lost)
    (by exact pageOver_page (s.engine.struckBy s.cfg.strikeLimit dots frees) port there) closed refs pins
  have effect := discarded_effect (s := s) (n := n) (g := g) low none rfl
  obtain ⟨-, -, -, -, -, -, -, -, -, only⟩ := id effect
  rw [pages, lowerRefs_one] at chosen
  have waits : (lowerRef h ((s.pageOver (s.engine.struckBy s.cfg.strikeLimit dots frees) h r port).discarded g notices
      lost)).recept.waitList = [] := by
    rw [show State.recept (lowerRef h _) = _ from low .recept (by decide)]
    exact none
  refine ⟨_, strikes_ _ chosen only, effect, ?_, fun unmasked room => ?_⟩
  · obtain ⟨slot, others, pool⟩ := released
    rw [leaveQueue_plain n waits]
    refine ⟨slot, fun k other => (others k other).trans ?_, pool⟩
    rw [discarded_entry, pageOver_entry_ne _ _ other]
  · rw [leaveQueue_plain n waits]
    refine ⟨⟨.printDone, s.tk.time, s.tk.suspect, printDoneFields q (min 255 (s.engine.printed + 1)) true⟩, kept ?_, rfl,
      rfl⟩
    show _ ∈ ({ s.link with notices, lost } : Link).notices
    rw [told, raise_room (by rw [unmasked]; exact Nat.zero_le _) (by omega)]
    exact List.mem_append_right _ (List.mem_singleton.2 rfl)

end

end Sys2Proof.Machine
end

section
/-! PROOFS. Reception: a page that closes is listed, and its document offered to the print queue (R124, R127, R128). -/

namespace Sys2Proof.Machine

/-! ### Places in the queue and in the wait list (R127, R128) -/

/-- Among 49 numbers in a row one is held by no entry of a queue of fewer than 49. -/
theorem exists_free_number {queue : List QueueEntry} (c : Nat) (room : queue.length < 49) :
    ∃ k, k ≤ 48 ∧ (∀ e ∈ queue, e.number ≠ (c + k) % 65536) ∧
      ∀ j, j < k → ∃ e ∈ queue, e.number = (c + j) % 65536 := by
  have free : ∃ k, k ≤ 48 ∧ ∀ e ∈ queue, e.number ≠ (c + k) % 65536 := by
    by_contra none
    have held (k : Nat) (near : k ≤ 48) : (c + k) % 65536 ∈ queue.map QueueEntry.number := by
      by_contra absent
      exact none ⟨k, near, fun e mem same => absent (same ▸ List.mem_map_of_mem mem)⟩
    have apart : ((List.range 49).map fun k => (c + k) % 65536).Nodup := by
      refine (List.nodup_range).map_on fun x hx y hy same => ?_
      rw [List.mem_range] at hx hy
      omega
    have within : ((List.range 49).map fun k => (c + k) % 65536) ⊆ queue.map QueueEntry.number := by
      intro x mem
      obtain ⟨k, small, rfl⟩ := List.mem_map.1 mem
      exact held k (Nat.le_of_lt_succ (List.mem_range.1 small))
    have longer := (List.subperm_of_subset apart within).length_le
    rw [List.length_map, List.length_map, List.length_range] at longer
    omega
  classical
  obtain ⟨near, unheld⟩ := Nat.find_spec free
  refine ⟨Nat.find free, near, unheld, fun j less => ?_⟩
  by_contra none
  refine Nat.find_min free less ⟨by omega, fun e mem same => none ⟨e, mem, same⟩⟩

/-- The queue splits after its last entry urgent or begun. -/
theorem queue_split (queue : List QueueEntry) : ∃ front back, queue = front ++ back ∧
    (∀ e ∈ back, e.urgent = false ∧ e.begun = false) ∧
    ∀ e, front.getLast? = some e → e.urgent = true ∨ e.begun = true := by
  induction queue using List.reverseRecOn with
  | nil => exact ⟨[], [], rfl, nofun, nofun⟩
  | append_singleton queue x ih =>
    by_cases marked : x.urgent = true ∨ x.begun = true
    · refine ⟨queue ++ [x], [], (List.append_nil _).symm, nofun, fun e last => ?_⟩
      rw [List.getLast?_concat] at last
      rwa [← Option.some.inj last]
    · obtain ⟨front, back, split, plain, last⟩ := ih
      refine ⟨front, back ++ [x], by rw [split, List.append_assoc], fun e mem => ?_, last⟩
      obtain mem | mem := List.mem_append.1 mem
      · exact plain e mem
      · rw [List.mem_singleton.1 mem]
        simpa using marked

/-- An entry made by the rules of R127 and R128. -/
theorem placeEntry_entryPlaced (job : PrintJob) (urgent : Bool) {s : State} (room : s.recept.queue.length < 48)
    (small : s.recept.entryCounter < 65536) : ∃ queue counter n, EntryPlaced job urgent s.recept queue counter ∧
      placeEntry job urgent s = ({ s with recept := { s.recept with queue, entryCounter := counter } }, n) ∧
      ∀ m q, s.recept.entryNumbered m = some q → ({ s.recept with queue, entryCounter := counter } : Reception).entryNumbered m =
        some q := by
  obtain ⟨k, near, unheld, taken⟩ := exists_free_number (queue := s.recept.queue) s.recept.entryCounter (by omega)
  have split : ∃ front back, s.recept.queue = front ++ back ∧ (urgent = false ∧ back = [] ∨
      urgent = true ∧ (∀ e ∈ back, e.urgent = false ∧ e.begun = false) ∧
        (∀ e, front.getLast? = some e → e.urgent = true ∨ e.begun = true)) := by
    cases urgent with
    | false => exact ⟨s.recept.queue, [], (List.append_nil _).symm, .inl ⟨rfl, rfl⟩⟩
    | true =>
      obtain ⟨front, back, split, plain, last⟩ := queue_split s.recept.queue
      exact ⟨front, back, split, .inr ⟨rfl, plain, last⟩⟩
  obtain ⟨front, back, split, place⟩ := split
  have placed := placeEntry_placed (job := job) split near rfl small unheld taken place
  refine ⟨_, _, _, ⟨_, k, front, back, near, rfl, unheld, taken, split, place, rfl, rfl⟩, placed, fun m q found => ?_⟩
  unfold Reception.entryNumbered at found ⊢
  have number : q.number = m := by simpa using List.find?_some found
  have mem := List.mem_of_find?_eq_some found
  have other : (s.recept.entryCounter + k) % 65536 ≠ m := fun same => unheld q mem (number.trans same.symm)
  rw [split, List.find?_append] at found
  rw [List.find?_append, List.find?_cons_of_neg (by simpa using other)]
  exact found

/-- Where a document joins the wait list: behind every one that comes before it. -/
theorem insertWaiting_split (docs : Table InDoc) (h : InHandle) (waits : List InHandle) :
    ∃ front back, waits = front ++ back ∧ insertWaiting docs h waits = front ++ h :: back ∧
      (∀ x ∈ front, waitsBefore docs h x = false) ∧ ∀ x, back.head? = some x → waitsBefore docs h x = true := by
  induction waits with
  | nil => exact ⟨[], [], rfl, rfl, nofun, nofun⟩
  | cons y ys ih =>
    by_cases before : waitsBefore docs h y = true
    · refine ⟨[], y :: ys, rfl, if_pos before, nofun, fun x head => ?_⟩
      rwa [← Option.some.inj head]
    · obtain ⟨front, back, split, inserted, behind, ahead⟩ := ih
      refine ⟨y :: front, back, congrArg (y :: ·) split, (if_neg before).trans (congrArg (y :: ·) inserted),
        fun x mem => ?_, ahead⟩
      obtain rfl | mem := List.mem_cons.1 mem
      · simpa using before
      · exact behind x mem

theorem waitsBefore_iff (docs : Table InDoc) (a b : InHandle) : waitsBefore docs a b = true ↔
    waitsAhead (((docs.get a.slot).firstClose).getD 0) a.slot (((docs.get b.slot).firstClose).getD 0) b.slot := by
  unfold waitsBefore waitsAhead
  dsimp only
  split
  · rename_i before
    rw [seqBefore_iff] at before
    exact iff_of_true rfl (.inl before)
  · rename_i before
    rw [seqBefore_iff] at before
    split
    · rename_i after
      rw [seqBefore_iff] at after
      refine iff_of_false nofun fun ahead => ?_
      omega
    · rename_i after
      rw [seqBefore_iff] at after
      rw [decide_eq_true_iff]
      omega

/-! ### The page's close and its place in the list (R9, R124) -/

section
variable {l : LineNo} {h : InHandle} {d : InDoc} {p : PageHandle} {e : PageEntry} {s : State}

/-- A close that takes a reference: the entry, and PAGE_CLOSED. -/
theorem finishClose_reference {c : CloseReq} (quiet : Bool) (there : s.page p = some e) (hold : c.hold = .reference) :
    ∃ notices lost, finishClose quiet p c s = { s with
      store := { s.store with dir := s.store.dir.set p.slot { e.closedBy c with refs := min 4095 (e.refs + 1) } },
      link := { s.link with notices, lost } } := by
  obtain ⟨-, same, -, -⟩ := State.page_some there
  have page := State.page_setEntry (e' := { e.closedBy c with refs := min 4095 (e.refs + 1) }) there nofun rfl
  have closes : finishClose quiet p c s = releaseTest p (raiseUnless quiet .pageClosed
      (pageClosedFields p { e.closedBy c with refs := min 4095 (e.refs + 1) })
      (s.setEntry p.slot { e.closedBy c with refs := min 4095 (e.refs + 1) })) := by
    unfold finishClose applyHold
    rw [hold]
    dsimp only [State.modEntry]
    rw [State.entry_setEntry_self, State.setEntry_setEntry, ← same, State.entry_setEntry_self]
    rfl
  have raised : ∃ notices lost, raiseUnless quiet .pageClosed
      (pageClosedFields p { e.closedBy c with refs := min 4095 (e.refs + 1) })
      (s.setEntry p.slot { e.closedBy c with refs := min 4095 (e.refs + 1) }) =
      { s.setEntry p.slot { e.closedBy c with refs := min 4095 (e.refs + 1) } with link := { s.link with notices, lost } } := by
    cases quiet with
    | true => exact ⟨s.link.notices, s.link.lost, rfl⟩
    | false => exact raise_frame _ _ _
  obtain ⟨notices, lost, raised⟩ := raised
  refine ⟨notices, lost, ?_⟩
  rw [closes, raised]
  exact releaseTest_stays (by exact page) (.inr (.inl (by show 0 < min 4095 (e.refs + 1); omega)))

/-- A page that has closed joins its document's list, and the document the print queue or wait list. -/
theorem listPage_listed (there : s.inDoc h = some d) (p : PageHandle) (small : s.recept.entryCounter < 65536) :
    ∃ recept, listPage h p s = { s with recept } ∧ PageListed h d p true s.cfg.autoPrint s.recept recept ∧
      ∀ m q, s.recept.entryNumbered m = some q → recept.entryNumbered m = some q := by
  unfold listPage PageListed
  rw [there]
  dsimp only
  by_cases first : d.pages = []
  · rw [if_pos first, first]
    unfold offerToPrint
    cases auto : s.cfg.autoPrint with
    | false =>
      rw [State.setInDoc_cfg, auto]
      refine ⟨_, rfl, ?_, fun m q found => found⟩
      rw [if_neg nofun, if_neg (not_not_intro rfl), if_pos rfl]
      rfl
    | true =>
      rw [State.setInDoc_cfg, auto]
      have at_slot (x : InDoc) : (s.recept.docs.set h.slot x).get h.slot = x := Table.get_set_self ..
      by_cases room : s.recept.queue.length < 48
      · obtain ⟨queue, counter, n, entry, placed, found⟩ := placeEntry_entryPlaced (.document h) d.urgent (s := { s with
          recept := { s.recept with
            docs := s.recept.docs.set h.slot { d with
              pages := [p]
              inPage := none
              firstClose := some s.recept.closeCounter
              printState := .queued }
            closeCounter := wrapSucc 65536 s.recept.closeCounter } }) room small
        refine ⟨_, ((if_neg nofun).trans ((if_pos room).trans ?_)).trans (congrArg Prod.fst placed), ?_, found⟩
        · unfold placeDoc
          dsimp only [State.setInDoc]
          rw [at_slot, Table.set_set]
          rfl
        · rw [if_neg nofun, if_neg (not_not_intro rfl), if_neg nofun, if_pos room]
          exact ⟨queue, counter, entry, rfl⟩
      · obtain ⟨front, back, split, inserted, behind, ahead⟩ := insertWaiting_split
          (s.recept.docs.set h.slot { d with
            pages := [p]
            inPage := none
            firstClose := some s.recept.closeCounter
            printState := .queueWait }) h s.recept.waitList
        refine ⟨{ s.recept with
          docs := s.recept.docs.set h.slot { d with
            pages := [p]
            inPage := none
            firstClose := some s.recept.closeCounter
            printState := .queueWait }
          closeCounter := wrapSucc 65536 s.recept.closeCounter
          waitList := front ++ h :: back }, (if_neg nofun).trans ((if_neg room).trans ?_), ?_, fun m q found => found⟩
        · rw [← inserted]
          dsimp only [State.modInDoc, State.setInDoc]
          rw [at_slot, Table.set_set]
          rfl
        · rw [if_neg nofun, if_neg (not_not_intro rfl), if_neg nofun, if_neg room]
          refine ⟨front, back, split, rfl, fun x mem => ?_, fun x head => ?_⟩
          · have late := mt (waitsBefore_iff _ _ _).2 (by rw [behind x mem]; nofun)
            rw [at_slot] at late
            exact late
          · have early := (waitsBefore_iff _ _ _).1 (ahead x head)
            rw [at_slot] at early
            exact early
  · rw [if_neg first]
    refine ⟨_, rfl, ?_, fun m q found => found⟩
    rw [if_neg nofun, if_pos first]

end

end Sys2Proof.Machine
end

section
/-! PROOFS. Reception: a page closed and listed, with the engine told or not; the store failure (R109, R110, R124, R147). -/

namespace Sys2Proof.Machine

section
variable {l : LineNo} {h : InHandle} {c : CallRec} {d : InDoc} {p : PageHandle} {e : PageEntry} {s : State}

/-- The engine, not waiting for this document, is told nothing. -/
theorem tellEngine_notAwaited (not : NotAwaited h s) : tellEngine h s = s := by
  unfold tellEngine
  split
  · rfl
  · rename_i n entry
    split
    · rfl
    · rename_i q found
      refine if_neg fun both => ?_
      obtain ⟨job, waits⟩ := Bool.and_eq_true_iff.1 both
      obtain other | ⟨m, x, at_entry, there, other⟩ := not
      · exact other (of_decide_eq_true waits)
      · obtain rfl := Option.some.inj (entry.symm.trans at_entry)
        obtain rfl := Option.some.inj (found.symm.trans there)
        exact other (of_decide_eq_true job)

/-- A page that has closed joins its document's list, and the engine is not waiting for it. -/
theorem listAndTell_listed (held : Bool) (there : s.inDoc h = some d) (p : PageHandle)
    (small : s.recept.entryCounter < 65536) (not : NotAwaited h s) :
    ∃ recept, listAndTell held h p s = { s with recept } ∧ PageListed h d p held s.cfg.autoPrint s.recept recept := by
  cases held with
  | false =>
    refine ⟨_, listAndTell_refused h p s, ?_⟩
    obtain ⟨-, -, -, at_slot⟩ := State.inDoc_some there
    unfold PageListed
    rw [if_pos rfl, at_slot]
  | true =>
    obtain ⟨recept, listed, joins, found⟩ := listPage_listed there p small
    refine ⟨recept, ?_, joins⟩
    rw [listAndTell_taken, listed]
    refine tellEngine_notAwaited ?_
    obtain other | ⟨n, q, entry, there, other⟩ := not
    · exact .inl other
    · exact .inr ⟨n, q, entry, found n q there, other⟩

/-- A line whose call counts one page more. -/
def Line.countsPage (x : Line) : Line := { x with call := x.call.map fun c => { c with pages := min 255 (c.pages + 1) } }

theorem callInbound_some (call : (s.line l).call = some c) (inbound : c.inbound = some h) : s.callInbound l = some h := by
  unfold State.callInbound
  rw [call]
  exact inbound

theorem pageInReception_some (call : (s.line l).call = some c) (inbound : c.inbound = some h) (there : s.inDoc h = some d) :
    s.pageInReception l = d.inPage := by
  unfold State.pageInReception
  rw [callInbound_some call inbound]
  dsimp only
  rw [there]

/-- A page as the receiver closes it before its end (R109, R113). -/
def PageEntry.cutShort (e : PageEntry) : PageEntry := { e with
  state := .closed, writer := none, lineCount := 0, truncated := true, refs := min 4095 (e.refs + 1), pending := [] }

theorem refTaken_eq (page : s.page p = some e) : s.refTaken p = decide (e.refs < 4095) := by
  obtain ⟨-, same, -, -⟩ := State.page_some page
  rw [Bool.eq_iff_iff, State.refTaken_iff, decide_eq_true_iff, same]

/-- The part as a line's page closes before its end, not yet listed. -/
def State.pageCut (s : State) (l : LineNo) (p : PageHandle) (e : PageEntry) (notices : List Notice) (lost : Nat) : State :=
  { (withdraw (.lc l) s).setLine l (s.line l).countsPage with
    store := { (withdraw (.lc l) s).store with dir := s.store.dir.set p.slot e.cutShort },
    link := { s.link with notices, lost } }

/-- A page's close at the receiver, its place in the list and its count (R109, R113, R117, R124). -/
theorem closeReceived_closes (quiet : Bool) (call : (s.line l).call = some c) (inbound : c.inbound = some h)
    (there : s.inDoc h = some d) (reception : d.inPage = some p) (page : s.page p = some e)
    (small : s.recept.entryCounter < 65536) (not : NotAwaited h s) :
    ∃ recept notices lost, closeReceived quiet l s = { s.pageCut l p e notices lost with recept } ∧
      PageListed h d p (decide (e.refs < 4095)) s.cfg.autoPrint s.recept recept := by
  obtain ⟨notices, lost, closed⟩ := finishClose_reference (s := withdraw (.lc l) s)
    (c := { code := 0, lineCount := 0, truncated := true, hold := .reference }) quiet (by exact page) rfl
  have cut : { e.closedBy { code := 0, lineCount := 0, truncated := true, hold := .reference } with
      refs := min 4095 (e.refs + 1) } = e.cutShort := by
    unfold PageEntry.closedBy PageEntry.cutShort
    rw [Bool.or_true]
    rfl
  rw [cut] at closed
  obtain ⟨recept, listed, joins⟩ := listAndTell_listed (decide (e.refs < 4095)) (s := s.pageCut l p e notices lost)
    (by exact there) p small not
  refine ⟨recept, notices, lost, ?_, joins⟩
  unfold closeReceived
  rw [callInbound_some call inbound, pageInReception_some call inbound there, reception]
  dsimp only
  rw [refTaken_eq page, closed]
  unfold State.modCall
  rw [State.modLine_eq]
  exact listed

/-! ### The answer that waited on the store (R96, R108 to R110) -/

/-- A line that has formed the answer that waited on the store. -/
def Line.formed (what : Sending) (x : Line) : Line :=
  if x.proc.incoming then { x with proc := { x.proc with storing := true, heldAnswer := some what } }
  else { x with
    params := { x.params with detector := .disarmed },
    proc := { x.proc with tx := .ready what, timer := false, incoming := false, storing := false } }

theorem answerStored_eq (l : LineNo) (what : Sending) (s : State) :
    answerStored l what s = s.setLine l ((s.line l).formed what) := by
  unfold Line.formed
  cases incoming : (s.line l).proc.incoming with
  | true => exact answerStored_held l what s incoming
  | false => exact answerStored_ready l what s incoming

theorem Line.formed_answer (what : Sending) (x : Line) : AnswerFormed what x (x.formed what) := by
  unfold AnswerFormed Line.formed
  cases incoming : x.proc.incoming with
  | true => exact ⟨rfl, rfl, rfl, incoming, rfl⟩
  | false => exact ⟨rfl, rfl, rfl, rfl, rfl, rfl⟩

theorem Line.formed_ready (what : Sending) {x : Line} (quiet : x.proc.incoming = false) : x.formed what = { x with
    params := { x.params with detector := .disarmed },
    proc := { x.proc with tx := .ready what, timer := false, incoming := false, storing := false } } := by
  unfold Line.formed
  rw [quiet]
  rfl

theorem Line.formed_call (what : Sending) (x : Line) : (x.formed what).call = x.call := by
  unfold Line.formed
  split <;> rfl

theorem Line.formed_state (what : Sending) (x : Line) : (x.formed what).state = x.state := by
  unfold Line.formed
  split <;> rfl

theorem Line.formed_recv (what : Sending) (x : Line) : (x.formed what).recv = x.recv := by
  unfold Line.formed
  split <;> rfl

theorem Line.formed_andThen (what : Sending) (x : Line) : (x.formed what).proc.andThen = x.proc.andThen := by
  unfold Line.formed
  split <;> rfl

/-- A receiving line that cannot store its page: RELEASING, its receive side empty, QUIT to follow (R109). -/
def Line.storeFailed (sub : StoreSub) (x : Line) : Line := { x.withCause (.storeFull sub) with
  state := .releasing, recv := .reset, proc := { x.proc with andThen := some .quit } }

/-- The store failure: PAGE_FAILED held, the call's page given up. -/
theorem storeFails_eq (sub : StoreSub)
    (other : ((closeReceived false l (withdraw (.lc l) s)).line l).state ≠ .releasing) :
    storeFails l sub s = (closeReceived false l (withdraw (.lc l) s)).entering l
      ((((closeReceived false l (withdraw (.lc l) s)).line l).storeFailed sub).formed (.msg .pageFailed)) := by
  unfold storeFails State.modCall
  dsimp only
  rw [State.modLine_eq _ l, State.modLine_eq _ l, State.line_setLine_self, State.setLine_setLine]
  refine (congrArg (answerStored l (.msg .pageFailed)) (changeState_entering
    (x := { ((closeReceived false l (withdraw (.lc l) s)).line l).withCause (.storeFull sub) with
      recv := .reset
      proc := { ((closeReceived false l (withdraw (.lc l) s)).line l).proc with andThen := some .quit } }) rfl other)).trans ?_
  rw [answerStored_eq, entering_line]
  exact entering_setLine (Line.formed_state ..)

end

end Sys2Proof.Machine
end

section
/-! PROOFS. The end of a received page, with no octets left to write (R110, R124, R147). -/

namespace Sys2Proof.Machine

section
variable {l : LineNo} {h : InHandle} {c : CallRec} {d : InDoc} {p : PageHandle} {e : PageEntry} {s : State} {lineCount : Nat}
  {next : Option ResClass}

/-- A PAGE_END that a receiving line awaits is acted on. -/
theorem pageEndReceived_takes (hears : (s.line l).listening = true) (receiving : (s.line l).state = .receiving)
    (free : (s.line l).proc.storing = false) (small : (s.line l).params.pageSeq < 256)
    (done_ : (s.line l).recv.finalDone = true) (count : lineCount ≤ 65535) :
    pageEndReceived l (s.line l).params.pageSeq lineCount next s =
      takePageEnd l lineCount next (heard l (.msg (.pageEnd (s.line l).params.pageSeq lineCount next)) s) := by
  have ranged : (Msg.pageEnd (s.line l).params.pageSeq lineCount next).inRange = true := by
    show (decide (_ ≤ 255) && decide (_ ≤ 65535)) = true
    rw [decide_eq_true (Nat.le_of_lt_succ small), decide_eq_true count]
    rfl
  unfold pageEndReceived
  dsimp only
  rw [hears, free]
  exact (if_neg nofun).trans ((if_neg nofun).trans (if_pos ⟨receiving, ranged, rfl, done_⟩))

/-- A receiving line that has heard PAGE_END, in POST_PAGE. -/
def Line.postPage (m : Msg) (next : Option ResClass) (x : Line) : Line := { x with
  state := .postPage,
  params := { x.params with repeats := 0, detector := .disarmed },
  proc := { x.proc with timer := false, incoming := false, lastIn := some (.msg m), afterGood := some next } }

/-- The end of a received page is taken up from POST_PAGE. -/
theorem heard_postPage (m : Msg) (next : Option ResClass) (receiving : (s.line l).state = .receiving) :
    ∃ notices lost, changeState l .postPage none ((heard l (.msg m) s).modProc l fun q => { q with afterGood := some next }) =
      { s.setLine l ((s.line l).postPage m next) with link := { s.link with notices, lost } } := by
  have line : (heard l (.msg m) s).modProc l (fun q => { q with afterGood := some next }) =
      s.setLine l { (s.line l).postPage m next with state := (s.line l).state } := by
    rw [heard_eq]
    unfold State.modProc
    rw [State.modLine_eq, State.line_setLine_self, State.setLine_setLine]
    rfl
  have entered : changeState l .postPage none ((heard l (.msg m) s).modProc l fun q => { q with afterGood := some next }) =
      s.entering l ((s.line l).postPage m next) := by
    rw [line]
    exact changeState_entering (x := { (s.line l).postPage m next with state := (s.line l).state }) rfl
      (by show (s.line l).state ≠ _; rw [receiving]; nofun)
  obtain ⟨notices, lost, frame⟩ := entering_frame l ((s.line l).postPage m next) s
  exact ⟨notices, lost, entered.trans frame⟩

theorem heard_pageInReception (m : Msg) : (heard l (.msg m) s).pageInReception l = s.pageInReception l := by
  rw [heard_eq]
  unfold State.pageInReception State.callInbound
  rw [State.line_setLine_self]
  rfl

/-- A received page that has closed is counted, listed and answered. -/
theorem pageReceived_eq (held : Bool) (call : (s.line l).call = some c) (inbound : c.inbound = some h)
    (there : s.inDoc h = some d) (reception : d.inPage = some p) : pageReceived l held s = answerStored l (.msg .pageGood)
      (listAndTell held h p (s.setLine l { s.line l with recv := { (s.line l).recv with short := [] } }.countsPage)) := by
  unfold pageReceived State.modCall
  rw [callInbound_some call inbound, pageInReception_some call inbound there, reception]
  dsimp only
  rw [State.modLine_eq, State.modLine_eq, State.line_setLine_self, State.setLine_setLine]
  rfl

/-- A received page as PAGE_END closes it (R110). -/
def PageEntry.endedAt (e : PageEntry) (lineCount : Nat) : PageEntry := { e with
  state := .closed, writer := none, lineCount := min 6912 lineCount, refs := min 4095 (e.refs + 1), pending := [] }

/-- The part as a page ends that needs no block more, the page not yet listed. -/
def State.pageEnds (s : State) (l : LineNo) (m : Msg) (next : Option ResClass) (p : PageHandle) (e : PageEntry)
    (lineCount : Nat) (notices : List Notice) (lost : Nat) : State :=
  { s.setLine l ({ (s.line l).postPage m next with recv := { (s.line l).recv with short := [] } } : Line).countsPage with
    store := { s.store with dir := s.store.dir.set p.slot (e.endedAt lineCount) },
    link := { s.link with notices, lost } }

/-- PAGE_END with no octets left to write: the page closes, is listed and answered. -/
theorem takePageEnd_closes (m : Msg) (receiving : (s.line l).state = .receiving) (short : (s.line l).recv.short = [])
    (call : (s.line l).call = some c) (inbound : c.inbound = some h) (there : s.inDoc h = some d)
    (reception : d.inPage = some p) (page : s.page p = some e) :
    ∃ notices lost, takePageEnd l lineCount next (heard l (.msg m) s) = answerStored l (.msg .pageGood)
      (listAndTell (decide (e.refs < 4095)) h p (s.pageEnds l m next p e lineCount notices lost)) := by
  obtain ⟨notices, lost, entered⟩ := heard_postPage (l := l) (s := s) m next receiving
  obtain ⟨notices', lost', closed⟩ := finishClose_reference (p := p) (e := e)
    (s := { s.setLine l ((s.line l).postPage m next) with link := { s.link with notices, lost } })
    (c := { code := 0, lineCount := clamp 0 6912 lineCount, truncated := false, hold := .reference }) false (by exact page) rfl
  refine ⟨notices', lost', ?_⟩
  have counted : clamp 0 6912 (clamp 0 6912 lineCount) = min 6912 lineCount := by
    unfold clamp
    omega
  have ended : { e.closedBy { code := 0, lineCount := clamp 0 6912 lineCount, truncated := false, hold := .reference } with
      refs := min 4095 (e.refs + 1) } = e.endedAt lineCount := by
    unfold PageEntry.closedBy PageEntry.endedAt
    dsimp only
    rw [counted, Bool.or_false]
  rw [ended] at closed
  unfold takePageEnd
  rw [heard_pageInReception, pageInReception_some call inbound there, reception]
  dsimp only
  have read : (({ s.setLine l ((s.line l).postPage m next) with link := { s.link with notices, lost } } : State).line
      l).recv.short = [] := by
    show ((s.setLine l ((s.line l).postPage m next)).line l).recv.short = []
    rw [State.line_setLine_self]
    exact short
  rw [entered, read]
  unfold startClose
  rw [if_pos rfl]
  dsimp only
  rw [closed]
  have held : (({ s.setLine l ((s.line l).postPage m next) with link := { s.link with notices, lost } } : State).refTaken p) =
      decide (e.refs < 4095) := refTaken_eq (by exact page)
  have line : (s.setLine l ((s.line l).postPage m next)).line l = (s.line l).postPage m next := State.line_setLine_self ..
  have received := pageReceived_eq (l := l) (s := { s.setLine l ((s.line l).postPage m next) with
      store := { s.store with dir := s.store.dir.set p.slot (e.endedAt lineCount) }
      link := { s.link with notices := notices', lost := lost' } }) (c := c) (decide (e.refs < 4095))
    ((congrArg Line.call line).trans call) inbound there reception
  refine (congrArg (fun held => pageReceived l held _) held).trans (received.trans
    (congrArg (fun t => answerStored l (.msg .pageGood) (listAndTell (decide (e.refs < 4095)) h p t)) ?_))
  refine Eq.trans ?_ (congrArg (fun t : State => ({ t with
    store := { s.store with dir := s.store.dir.set p.slot (e.endedAt lineCount) }
    link := { s.link with notices := notices', lost := lost' } } : State)) (State.setLine_setLine s l ((s.line l).postPage m next) _))
  exact congrArg (fun x : Line => ({ (s.setLine l ((s.line l).postPage m next)).setLine l
    { x with recv := { x.recv with short := [] } }.countsPage with
      store := { s.store with dir := s.store.dir.set p.slot (e.endedAt lineCount) }
      link := { s.link with notices := notices', lost := lost' } } : State)) line

end

end Sys2Proof.Machine
end

section
/-! PROOFS. The print engine's steps, assembled (R120, R129, R138 to R147). -/

namespace Sys2Proof.Machine

/-! ### A page closed and listed while the engine waits for it (R147) -/

section
variable {l : LineNo} {h : InHandle} {c : CallRec} {d : InDoc} {p : PageHandle} {e : PageEntry} {s : State} {lineCount : Nat}
  {next : Option ResClass}

theorem Engine.clear_of_waitPage {e : Engine} (waits : e.state = .waitPage) : e.stopped = false := by
  unfold Engine.state at waits
  unfold Engine.stopped
  cases jam : e.jamLatched with
  | true => rw [jam] at waits; exact nomatch waits
  | false =>
    cases paper : e.paperOut with
    | true => rw [jam, paper] at waits; exact nomatch waits
    | false =>
      cases pause : e.hostPause with
      | true => rw [jam, paper, pause] at waits; exact nomatch waits
      | false => rfl

/-- A later page joins its document's list, and an engine that waits for it takes it. -/
theorem listAndTell_takes {n : Nat} {q : QueueEntry} (there : s.inDoc h = some d) (later : d.pages ≠ [])
    (index : d.pages.length = s.engine.index) (page : s.page p = some e) (closed : e.state = .closed)
    (octets : 0 < e.byteLen) (coded : 0 < e.committed) (waits : s.engine.state = .waitPage)
    (entry : s.engine.entry = some n) (queued : s.recept.entryNumbered n = some q) (job : q.job = .document h) :
    listAndTell true h p s = { s with
      recept := { s.recept with docs := s.recept.docs.set h.slot { d with pages := d.pages ++ [p], inPage := none } },
      engine := { s.engine with
        ring := [], readSlot := 0, writeSlot := 0, halfStruck := false, struck := 0, damaged := 0, pageStrikes := 0,
        page := some p, cls := e.cls, decoder := { Decoder.reset with asked := 1 } },
      store := { s.store with waiting := s.store.waiting ++ [{ client := .print, level := 2, op := .read p 0 }] } } := by
  have listed : listPage h p s = s.setInDoc h.slot { d with pages := d.pages ++ [p], inPage := none } := by
    unfold listPage
    rw [there]
    exact if_neg later
  have told : tellEngine h (s.setInDoc h.slot { d with pages := d.pages ++ [p], inPage := none }) =
      nextPage (s.setInDoc h.slot { d with pages := d.pages ++ [p], inPage := none }) := by
    unfold tellEngine
    rw [State.setInDoc_engine, entry]
    dsimp only
    rw [show (s.setInDoc h.slot { d with pages := d.pages ++ [p], inPage := none }).recept.entryNumbered n = some q from queued]
    dsimp only
    rw [job, waits]
    simp
  rw [listAndTell_taken, listed, told]
  refine nextPage_takes (s := s.setInDoc h.slot { d with pages := d.pages ++ [p], inPage := none }) entry (by exact queued)
    (pageChoice_listed (k := h) job ?_) (by exact page) closed octets coded
  show ((s.recept.docs.set h.slot { d with pages := d.pages ++ [p], inPage := none }).get h.slot).pages[s.engine.index]? = _
  rw [Table.get_set_self, ← index]
  exact List.getElem?_concat_length

end

/-! ### The engine's steps -/

/-- A decode that has come to its end with lines left to strike: no later block is read. -/
theorem engineOn_left {h : PageHandle} {r : PageEntry} {s : State} (page : s.engine.page = some h)
    (clear : s.engine.stopped = false) (there : s.page h = some r)
    (ended : (decodeOn r.byteLen s.engine).decoder.ended = true) (left : (decodeOn r.byteLen s.engine).ring ≠ [])
    (idle : s.store.port = none) : engineOn s = { s with
      engine := decodeOn r.byteLen s.engine,
      store := { s.store with waiting := s.store.waiting.filter fun x => decide (x.client ≠ .print) } } := by
  obtain ⟨-, same, -, -⟩ := State.page_some there
  have stops : engineOn s = withdraw .print { s with engine := decodeOn r.byteLen s.engine } := by
    rw [engineOn_eq page clear, ← same]
    exact (if_pos ended).trans (if_neg (by rw [List.isEmpty_iff]; exact left))
  rw [stops]
  unfold withdraw
  dsimp only
  rw [idle]
  rfl

/-- Settles O51. -/
theorem enginePrints : Obligations.EnginePrints := by
  refine ⟨fun q rest s on quiet queue free clear => entriesBegin q rest on quiet queue free clear, ?_, ?_,
    fun h r k level addr s on quiet granted page clear there closed => blockDelivered on quiet granted page clear there closed⟩
  · intro h n frees dots s on quiet
    refine ⟨fun cut => ⟨?_, ?_⟩, fun whole => ?_, fun entry page clear whole ended lines => ?_,
      fun entry page clear whole goes => ⟨fun cls alone => ?_, fun r there closed lines => ?_⟩⟩
    · exact (exec_event (act := cutFeedDone) on rfl).trans (congrArg _ (if_pos cut))
    · refine exec_headLineStruck on quiet (if_neg ?_) rfl
      rw [cut]
      simp
    · exact (exec_event (act := cutFeedDone) on rfl).trans (congrArg _ (if_neg (by rw [whole]; nofun)))
    · intro fired
      have ready : headLine s.engine = some (dots, frees) := by
        refine headLine_ready ?_
        obtain coarse | fine | extra | both := lines
        · exact .inl coarse
        · exact .inr (.inl fine)
        · exact .inr (.inr (.inl ⟨extra, ended⟩))
        · exact .inr (.inr (.inr both))
      have prints : s.engine.prints n h := ⟨entry, page, clear, whole⟩
      refine ⟨fun more => headLine_leaves on quiet prints ended ready more,
        fun q r last queued none there held number short job => ?_,
        fun q g r last queued none there number short job discards => ?_, fun q g r last queued job there => ?_⟩
      · obtain ⟨port, strikes_⟩ := lastHeadLine on quiet prints ended ready last there
        have over_ := pageOver_finishes (e := s.engine.struckBy s.cfg.strikeLimit dots frees) (port := port) entry rfl rfl
          queued none there held number short job
        exact ⟨_, strikes_ _ rfl over_.1, over_⟩
      · intro d all ceased ended_
        refine ⟨fun held => ?_, fun pages accounted closed refs pins => ?_⟩
        · exact discard_held on quiet prints ended ready last queued none there number short job discards all ceased held
        · exact discard_releases on quiet prints ended ready last queued none there number short job discards all ceased
            pages closed refs pins
      · intro index spent waiting
        obtain ⟨port, strikes_⟩ := lastHeadLine on quiet prints ended ready last there
        refine ⟨fun unlisted receiving => ?_, fun p x listed also closed octets coded => ?_⟩
        · have chosen := pageOver_waits (h := h) (r := r) (port := port)
            (e := s.engine.struckBy s.cfg.strikeLimit dots frees) entry queued job (by exact unlisted) receiving
          have only := pageOver_frame (s := s) (s.engine.struckBy s.cfg.strikeLimit dots frees) h r port
          refine ⟨_, strikes_ _ chosen (only.mono (by decide)), rfl, Engine.state_waiting entry rfl clear,
            pageOver_entry_self .., rfl, only⟩
        · have chosen := pageOver_takes (h := h) (r := r) (port := port)
            (e := s.engine.struckBy s.cfg.strikeLimit dots frees) entry queued job there (by exact listed) also closed octets
            coded
          refine ⟨_, strikes_ _ chosen ?_, rfl, pageOver_entry_self (s.engine.struckBy s.cfg.strikeLimit dots frees) r port, rfl, ?_⟩ <;> intro p other
          · cases p <;> first | rfl | exact absurd (by decide) other
          · cases p <;> first | rfl | exact absurd (by decide) other
    · refine exec_headLineStruck on quiet (headLineStruck_none entry page clear whole ?_) rfl
      unfold headLine
      rw [cls, alone]
      exact if_neg (by rw [goes]; nofun)
    · intro fired e
      have ready : headLine s.engine = some (dots, frees) := by
        refine headLine_ready ?_
        obtain coarse | fine | both := lines
        · exact .inl coarse
        · exact .inr (.inl fine)
        · exact .inr (.inr (.inr both))
      have strikes_ := headLineStruck_strikes entry page clear whole ready
      refine ⟨fun over_ left idle => ?_, fun on_ => ?_⟩
      · exact exec_headLineStruck on quiet (strikes_.trans (engineOn_left
          (s := { s with engine := s.engine.struckBy s.cfg.strikeLimit dots frees }) page clear there over_ left idle)) rfl
      · obtain ⟨asks, rests⟩ := engineOn_decodes (s := { s with engine := s.engine.struckBy s.cfg.strikeLimit dots frees })
          (h := h) (r := r) page clear there closed on_
        exact ⟨fun idle more room => exec_headLineStruck on quiet (strikes_.trans (asks idle more room)) rfl,
          fun not => exec_headLineStruck on quiet (strikes_.trans (rests not)) rfl⟩
  · intro l lineCount n next c h d p e q s on quiet x hears receiving free small finalDone count short call inbound there
      reception later index page few octets coded waits entry queued job
    obtain ⟨notices, lost, taken⟩ := takePageEnd_closes (lineCount := lineCount) (next := next)
      (.pageEnd x.params.pageSeq lineCount next) receiving short call inbound there reception page
    have listed := listAndTell_takes (s := s.pageEnds l (.pageEnd x.params.pageSeq lineCount next) next p e lineCount notices
      lost) (e := e.endedAt lineCount) (by exact there) later index
      (State.page_setEntry (e' := e.endedAt lineCount) page nofun rfl) rfl octets coded waits entry queued job
    have ends := (pageEndReceived_takes hears receiving free small finalDone count).trans taken
    rw [decide_eq_true few, listed, answerStored_eq] at ends
    have row := exec_event (i := .pageEndReceived l x.params.pageSeq lineCount next)
      (act := fun s => scanRetry (pageEndReceived l x.params.pageSeq lineCount next s)) on rfl
    rw [ends, scanRetry_eq (by exact quiet)] at row
    have clear := Engine.clear_of_waitPage waits
    refine ⟨_, row, rfl, Engine.state_printing entry rfl clear, rfl, rfl, ?_⟩
    intro p other
    cases p <;> first | rfl | exact absurd (by decide) other

end Sys2Proof.Machine
end

section
/-! PROOFS. The receiver's frames and resend marks (R107). -/

namespace Sys2Proof.Machine

/-! ### Resend marks (R107, 11.7.5) -/

/-- An octet of marks has the bits that were set into it. -/
theorem foldl_flagBit_getLsbD {P : Nat → Bool} {j : Nat} {L : List Nat} (small : ∀ b ∈ L, b < 8) (o : Byte) :
    (L.foldl (fun o b => if P b then o ||| flagBit b true else o) o).getLsbD j =
      (o.getLsbD j || (L.any fun b => decide (b = j) && P b)) := by
  induction L generalizing o with
  | nil => simp
  | cons b L ih =>
    rw [List.foldl_cons, ih fun c mem => small c (List.mem_cons_of_mem _ mem), List.any_cons]
    cases marked : P b with
    | false => simp
    | true =>
      rw [if_pos rfl, BitVec.getLsbD_or, flagBit_getLsbD true (small b (List.mem_cons_self ..))]
      simp [Bool.or_assoc, eq_comm (a := j)]

theorem marksOctets_marked (missing : List Nat) {f : Nat} (small : f < 64) :
    ((marksOctets missing).getD (f / 8) 0).getLsbD (f % 8) = true ↔ f ∈ missing := by
  have octet : (marksOctets missing).getD (f / 8) 0 =
      (List.range 8).foldl (fun o b => if (8 * (f / 8) + b) ∈ missing then o ||| flagBit b true else o) 0 := by
    unfold marksOctets
    rw [List.getD_eq_getElem?_getD, List.getElem?_map, List.getElem?_range (by omega)]
    rfl
  have fold := foldl_flagBit_getLsbD (P := fun b => decide (8 * (f / 8) + b ∈ missing)) (j := f % 8)
    (L := List.range 8) (fun b mem => List.mem_range.1 mem) 0
  simp only [decide_eq_true_eq] at fold
  have zero : BitVec.getLsbD (0 : Byte) (f % 8) = false := BitVec.getLsbD_zero
  rw [octet, fold, zero, Bool.false_or, List.any_eq_true]
  have whole : 8 * (f / 8) + f % 8 = f := Nat.div_add_mod f 8
  constructor
  · rintro ⟨b, -, at_bit⟩
    obtain ⟨same, marked⟩ := Bool.and_eq_true_iff.1 at_bit
    obtain rfl := of_decide_eq_true same
    rw [whole] at marked
    exact of_decide_eq_true marked
  · intro mem
    refine ⟨f % 8, List.mem_range.2 (Nat.mod_lt _ (by decide)), ?_⟩
    rw [decide_eq_true rfl, whole]
    exact decide_eq_true mem

/-! ### Parts of frames (R107) -/

section
variable {r : ReceiveSide} {f p q : Nat} {data : List Byte}

theorem put_part_self (free : r.holds f p = false) : (r.put f p data).part f p = data := by
  have absent : (r.parts.find? fun x => x.1 == f && x.2.1 == p) = none := by
    rw [List.find?_eq_none]
    intro x mem at_part
    have held : r.holds f p = true := List.any_eq_true.2 ⟨x, mem, at_part⟩
    rw [free] at held
    exact nomatch held
  unfold ReceiveSide.put ReceiveSide.part
  rw [free, if_neg nofun]
  dsimp only
  rw [List.find?_append, absent, Option.none_or, List.find?_cons_of_pos (by simp)]

theorem put_part_other (other : p ≠ q) : (r.put f p data).part f q = r.part f q := by
  unfold ReceiveSide.put
  split
  · rfl
  · unfold ReceiveSide.part
    dsimp only
    rw [List.find?_append, List.find?_cons_of_neg (by simp [other]), List.find?_nil, Option.or_none]

theorem put_holds_other (other : p ≠ q) : (r.put f p data).holds f q = r.holds f q := by
  unfold ReceiveSide.put
  split
  · rfl
  · unfold ReceiveSide.holds
    dsimp only
    rw [List.any_append]
    simp [other]

/-- A frame that comes whole, none of its parts held, stands whole. -/
theorem store_frame (sequence block : Nat) (length : data.length = 256) (free : ∀ p, r.holds f p = false) :
    (r.store ⟨sequence, block, f, none, data⟩).frame f = data := by
  unfold ReceiveSide.store ReceiveSide.frame
  dsimp only
  rw [put_part_other (p := 3) (q := 0) (by decide), put_part_other (p := 2) (q := 0) (by decide),
    put_part_other (p := 1) (q := 0) (by decide), put_part_self (free 0),
    put_part_other (p := 3) (q := 1) (by decide), put_part_other (p := 2) (q := 1) (by decide),
    put_part_self ((put_holds_other (by decide)).trans (free 1)),
    put_part_other (p := 3) (q := 2) (by decide),
    put_part_self ((put_holds_other (by decide)).trans ((put_holds_other (by decide)).trans (free 2))),
    put_part_self ((put_holds_other (by decide)).trans ((put_holds_other (by decide)).trans
      ((put_holds_other (by decide)).trans (free 3))))]
  have last : (data.drop 192).take 64 = data.drop 192 := List.take_of_length_le (by rw [List.length_drop]; omega)
  have three : (data.drop 128).take 64 ++ data.drop 192 = data.drop 128 := by
    rw [← List.drop_drop (i := 64) (j := 128)]
    exact List.take_append_drop 64 _
  have two : (data.drop 64).take 64 ++ data.drop 128 = data.drop 64 := by
    rw [← List.drop_drop (i := 64) (j := 64)]
    exact List.take_append_drop 64 _
  rw [last, List.append_assoc, List.append_assoc, three, two, List.take_append_drop]

end

/-! ### BLOCK_END (R107) -/

/-- The frames to be marked, part by part. -/
theorem missingFrames_eq (r : ReceiveSide) (chop : Bool) (count : Nat) (final : Option Nat) :
    missingFrames r chop count final = (List.range count).filter fun f => !(r.holds f 0 &&
      ((chop && decide (f + 1 = count) && (match final with | some n => decide (n ≤ 64) | none => false)) ||
        (r.holds f 1 && r.holds f 2 && r.holds f 3))) := by
  unfold missingFrames ReceiveSide.received isShortLast
  refine List.filter_congr fun f _ => ?_
  cases final with
  | none => simp
  | some n =>
    dsimp only
    have short : n.ble 64 = decide (n ≤ 64) := by rw [Bool.eq_iff_iff, Nat.ble_eq, decide_eq_true_iff]
    have last : (f + 1 == count) = decide (f + 1 = count) := rfl
    rw [short, last]

end Sys2Proof.Machine
end

section
/-! PROOFS. BLOCK_END at the receiver: marks, the writes of a block, the page opened (R107 to R109). -/

namespace Sys2Proof.Machine

section
variable {l : LineNo} {h : InHandle} {c : CallRec} {d : InDoc} {p : PageHandle} {e : PageEntry} {s : State}
  {seq block round count : Nat} {final : Option Nat}

/-- A line that has heard a message that it awaited (R97, R116). -/
def Line.hears (m : Msg) (x : Line) : Line := { x with
  params := { x.params with repeats := 0, detector := .disarmed },
  proc := { x.proc with timer := false, incoming := false, lastIn := some (.msg m) } }

theorem heard_msg (l : LineNo) (m : Msg) (s : State) : heard l (.msg m) s = s.setLine l ((s.line l).hears m) := heard_eq ..

/-- A line that awaits the BLOCK_END of its block and round. -/
def Line.awaitsBlockEnd (x : Line) (seq block round count : Nat) (final : Option Nat) : Prop :=
  x.listening = true ∧ x.state = .receiving ∧ x.proc.storing = false ∧ seq = x.params.pageSeq ∧ block = x.params.block ∧
    seq < 256 ∧ block < 256 ∧ x.recv.finalDone = false ∧ x.proc.awaitQuit = none ∧ round = x.recv.nextRound ∧ round ≤ 4 ∧
    1 ≤ count ∧ count ≤ 64 ∧ ∀ n, final = some n → n ≤ 256

theorem blockEnd_inRange (seqSmall : seq < 256) (blockSmall : block < 256) (rounds : round ≤ 4) (some_ : 1 ≤ count)
    (most : count ≤ 64) (short : ∀ n, final = some n → n ≤ 256) : (Msg.blockEnd seq block round count final).inRange = true := by
  have fields : (decide (seq ≤ 255) && decide (block ≤ 255) && decide (round ≤ 4) && decide (1 ≤ count) && decide (count ≤ 64)) =
      true := by
    rw [decide_eq_true (Nat.le_of_lt_succ seqSmall), decide_eq_true (Nat.le_of_lt_succ blockSmall), decide_eq_true rounds,
      decide_eq_true some_, decide_eq_true most]
    rfl
  cases final with
  | none => exact Bool.and_eq_true_iff.2 ⟨fields, rfl⟩
  | some n => exact Bool.and_eq_true_iff.2 ⟨fields, decide_eq_true (short n rfl)⟩

/-- A BLOCK_END awaited, with no frame missing, has its block stored. -/
theorem blockEnd_whole (awaited : (s.line l).awaitsBlockEnd seq block round count final)
    (whole : missingFrames (s.line l).recv (s.line l).params.chop count final = []) :
    blockEndReceived l seq block round count final s =
      storeBlock l count final (heard l (.msg (.blockEnd seq block round count final)) s) := by
  obtain ⟨hears, receiving, free, same, also, seqSmall, blockSmall, open_, none_, due, rounds, some_, most, short⟩ := awaited
  unfold blockEndReceived
  dsimp only
  rw [hears, free]
  refine (if_neg nofun).trans ((if_neg nofun).trans ((if_pos ⟨receiving, blockEnd_inRange seqSmall blockSmall rounds some_
    most short, same, also, due, by rw [open_]; rfl, none_⟩).trans ?_))
  rw [whole]

/-- A BLOCK_END awaited, with frames missing, is answered with their marks. -/
theorem blockEnd_marked (awaited : (s.line l).awaitsBlockEnd seq block round count final)
    (gaps : missingFrames (s.line l).recv (s.line l).params.chop count final ≠ []) :
    blockEndReceived l seq block round count final s =
      answerMarks l round (missingFrames (s.line l).recv (s.line l).params.chop count final)
        (heard l (.msg (.blockEnd seq block round count final)) s) := by
  obtain ⟨hears, receiving, free, same, also, seqSmall, blockSmall, open_, none_, due, rounds, some_, most, short⟩ := awaited
  unfold blockEndReceived
  dsimp only
  rw [hears, free]
  refine (if_neg nofun).trans ((if_neg nofun).trans ((if_pos ⟨receiving, blockEnd_inRange seqSmall blockSmall rounds some_
    most short, same, also, due, by rw [open_]; rfl, none_⟩).trans ?_))
  cases missing : missingFrames (s.line l).recv (s.line l).params.chop count final with
  | nil => exact absurd missing gaps
  | cons f fs => rfl

/-! ### Marks -/

theorem answerMarks_again (m : Msg) (missing : List Nat) (low : round < 4) :
    answerMarks l round missing (heard l (.msg m) s) = s.setLine l
      { (s.line l).answering (.msg m) (.msg (.resend (marksOctets missing))) with
        params := { ((s.line l).answering (.msg m) (.msg (.resend (marksOctets missing)))).params with round },
        recv := { (s.line l).recv with answered := some round } } := by
  unfold answerMarks
  dsimp only
  rw [if_pos low, holdReady_eq, State.modLine_eq, heard_msg, State.line_setLine_self, State.setLine_setLine,
    State.line_setLine_self, State.setLine_setLine]
  rfl

/-- In answer to round 4 the line falls back to the next lower rate. -/
theorem answerMarks_fallsBack {cur low : LineRate} (m : Msg) (missing : List Nat) (last : ¬round < 4)
    (receiving : (s.line l).state = .receiving) (rate : (s.line l).params.rate = some cur) (next : stepDown cur = some low) :
    answerMarks l round missing (heard l (.msg m) s) = s.entering l
      { (s.line l).answering (.msg m) (.msg (.resend (marksOctets missing))) with
        state := .training,
        recv := { (s.line l).recv with parts := [], answered := none },
        params := { ((s.line l).answering (.msg m) (.msg (.resend (marksOctets missing)))).params with
          round, rate := some low, stepDowns := min 5 ((s.line l).params.stepDowns + 1) } } := by
  unfold answerMarks
  dsimp only
  rw [if_neg last, State.modLine_eq, heard_msg, State.line_setLine_self, State.setLine_setLine]
  rw [stepDownLine_low (by rw [State.line_setLine_self]; exact rate) next]
  dsimp only
  unfold State.modRecv
  rw [State.modLine_eq, State.setLine_setLine, State.line_setLine_self, State.line_setLine_self, State.setLine_setLine]
  exact holdReady_changeState _ _ _ _ _ rfl (by show (s.line l).state ≠ _; rw [receiving]; nofun)

/-- At 2400 it waits for the QUIT. -/
theorem answerMarks_last {cur : LineRate} (m : Msg) (missing : List Nat) (last : ¬round < 4)
    (rate : (s.line l).params.rate = some cur) (next : stepDown cur = none) :
    answerMarks l round missing (heard l (.msg m) s) = s.setLine l
      { (s.line l).answering (.msg m) (.msg (.resend (marksOctets missing))) with
        params := { ((s.line l).answering (.msg m) (.msg (.resend (marksOctets missing)))).params with round },
        recv := { (s.line l).recv with answered := some round },
        proc := { ((s.line l).answering (.msg m) (.msg (.resend (marksOctets missing)))).proc with
          awaitQuit := some .lineQuality } } := by
  unfold answerMarks
  dsimp only
  rw [if_neg last, State.modLine_eq, heard_msg, State.line_setLine_self, State.setLine_setLine]
  rw [stepDownLine_last (by rw [State.line_setLine_self]; exact rate) next]
  dsimp only
  unfold State.modProc
  rw [State.modLine_eq, State.setLine_setLine, holdReady_eq, State.line_setLine_self, State.line_setLine_self,
    State.setLine_setLine]
  rfl

end

end Sys2Proof.Machine
end

section
/-! PROOFS. The receiver's blocks in the store: writes, the page opened, the store failure (R5, R108, R109). -/

namespace Sys2Proof.Machine

section
variable {l : LineNo} {h : InHandle} {c : CallRec} {d : InDoc} {p : PageHandle} {e : PageEntry} {s : State}
  {count : Nat} {final : Option Nat}

/-! ### The writes of a block -/

/-- How many frames of a block are written as whole blocks. -/
def wholeFrames (count : Nat) (final : Option Nat) : Nat :=
  match final with
  | some n => if n < 256 then count - 1 else count
  | none => count

/-- The code octets kept aside as the page's short final block. -/
def ReceiveSide.shortOctets (r : ReceiveSide) (count : Nat) (final : Option Nat) : List Byte :=
  match final with
  | some n => if n < 256 then (r.frame (count - 1)).take n else []
  | none => []

/-- The receive side with a block read without marks. -/
def ReceiveSide.blockRead (r : ReceiveSide) (count : Nat) (final : Option Nat) : ReceiveSide := { r with
  toWrite := (List.range (wholeFrames count final)).map r.frame, short := r.shortOctets count final,
  finalDone := final.isSome }

theorem blockWrites_eq (r : ReceiveSide) (count : Nat) (final : Option Nat) :
    blockWrites r count final = ((List.range (wholeFrames count final)).map r.frame, r.shortOctets count final) := by
  unfold blockWrites wholeFrames ReceiveSide.shortOctets
  cases final with
  | none => rfl
  | some n =>
    dsimp only
    split
    · rfl
    · rfl

theorem storeBlock_ok {u : State} (opened : openReceived l s = .ok u) : storeBlock l count final s =
    writeNext l (u.setLine l { u.line l with recv := (u.line l).recv.blockRead count final }) := by
  unfold storeBlock
  rw [opened]
  dsimp only
  rw [blockWrites_eq]
  rfl

theorem storeBlock_error {sub : StoreSub} (failed : openReceived l s = .error sub) :
    storeBlock l count final s = storeFails l sub s := by
  unfold storeBlock
  rw [failed]

theorem openReceived_open (call : (s.line l).call = some c) (inbound : c.inbound = some h) (there : s.inDoc h = some d)
    (reception : d.inPage = some p) : openReceived l s = .ok s := by
  unfold openReceived
  rw [callInbound_some call inbound]
  dsimp only
  rw [there]
  exact if_pos (by rw [reception]; rfl)

/-- A page opened for the first block of a page that the receiver takes. -/
def openedPage (l : LineNo) (issue : Nat) (cls : ResClass) : PageEntry := { PageEntry.freeWith issue with
  state := .opened, origin := some (.line l), writer := some (.lc l), cls }

/-- The lowest FREE slot is opened for the line, as its document's page in reception (R108, R124). -/
theorem openReceived_opens {slot : Nat} {cls : ResClass} (call : (s.line l).call = some c) (inbound : c.inbound = some h)
    (there : s.inDoc h = some d) (none_ : d.inPage = none) (room : d.pages.length < 255)
    (single : Client.holdsOpen s (.lc l) = false) (small : slot < 1024) (free : (s.entry slot).state = .free)
    (lowest : ∀ k, k < slot → (s.entry k).state ≠ .free) (transfer : (s.line l).recv.cls = cls) :
    openReceived l s = .ok { s.setEntry slot (openedPage l (s.entry slot).issue cls) with
      recept := { s.recept with
        docs := s.recept.docs.set h.slot { d with inPage := some ⟨slot, (s.entry slot).issue⟩ } } } := by
  subst transfer
  obtain ⟨-, -, -, at_slot⟩ := State.inDoc_some there
  unfold openReceived
  rw [callInbound_some call inbound]
  dsimp only
  rw [there]
  refine (if_neg (by rw [none_]; nofun)).trans ((if_neg (Nat.not_le.2 room)).trans ?_)
  rw [openPage_opens (c := .lc l) _ _ (.inr ⟨nofun, single⟩) small free lowest]
  dsimp only [State.modInDoc, State.setInDoc]
  rw [State.setEntry_recept, at_slot]
  rfl

theorem openReceived_full {sub : StoreSub} (call : (s.line l).call = some c) (inbound : c.inbound = some h)
    (there : s.inDoc h = some d) (none_ : d.inPage = none)
    (full : sub = .pages ∧ 255 ≤ d.pages.length ∨
      sub = .directory ∧ d.pages.length < 255 ∧ ∀ k, k < 1024 → (s.entry k).state ≠ .free) :
    openReceived l s = .error sub := by
  unfold openReceived
  rw [callInbound_some call inbound]
  dsimp only
  rw [there]
  refine (if_neg (by rw [none_]; nofun)).trans ?_
  obtain ⟨rfl, many⟩ | ⟨rfl, few, taken⟩ := full
  · exact if_pos many
  · refine (if_neg (Nat.not_le.2 few)).trans ?_
    have found : (s.store.dir.lowest 1024 fun e => decide (e.state = .free)) = none :=
      Table.lowest_eq_none _ fun j below => decide_eq_false (taken j below)
    have refused : ∃ status, openPage (.lc l) (.line l) (s.line l).recv.cls s = .error status := by
      unfold openPage
      rw [if_neg (by simp), found]
      split
      · exact ⟨_, rfl⟩
      · exact ⟨_, rfl⟩
    obtain ⟨status, refused⟩ := refused
    rw [refused]

/-! ### The write asked for, or refused (R5, R108, R109) -/

/-- A receiving line writes at level 3. -/
theorem levelOf_receiver (call : (s.line l).call = some c) (inbound : c.out = none) : s.levelOf (.lc l) = 3 := by
  unfold State.levelOf
  dsimp only
  rw [call]
  dsimp only
  rw [inbound]

/-- A line's allocation test passes in the last segment's room, or with a segment left: no reserve is asked of it. -/
theorem allocTest_line (l : LineNo)
    (room : e.committed < 16 * e.chain.length ∨ e.chain.length < 2048 ∧ s.freeCount ≠ 0) :
    allocTest s e (.lc l) = .pass := by
  obtain room | ⟨short, free⟩ := room
  · exact allocTest_room room
  · unfold allocTest
    rw [if_neg (by omega : ¬2048 ≤ e.chain.length), if_neg free]
    have reserved : ¬((Client.lc l = .scan ∨ Client.lc l = .hostXfer) ∧ s.freeCount ≤ s.cfg.receptionReserve) := by simp
    rw [if_neg reserved]
    exact ite_self _

theorem allocTest_line_refused (l : LineNo) (full : 16 * e.chain.length ≤ e.committed)
    (why : s.freeCount = 0 ∨ 2048 ≤ e.chain.length) : allocTest s e (.lc l) ≠ .pass := by
  by_cases limit : 2048 ≤ e.chain.length
  · rw [allocTest_limit _ full limit]
    nofun
  · unfold allocTest
    rw [if_neg (by simp [PageEntry.needsSegment, full]), if_neg limit, if_pos (why.resolve_right limit)]
    nofun

/-- The next block is asked to be written, and the answer waits on the store. -/
theorem writeNext_asks {data : List Byte} {rest : List (List Byte)} (write : (s.line l).recv.toWrite = data :: rest)
    (call : (s.line l).call = some c) (received : c.out = none) (reception : s.pageInReception l = some p)
    (passes : allocTest s (s.entry p.slot) (.lc l) = .pass) : writeNext l s = { s.setLine l { s.line l with
        proc := { (s.line l).proc with storing := true } } with
      store := { s.store with waiting := s.store.waiting ++ [{ client := .lc l, level := 3, op := .write p data none }] } } := by
  unfold writeNext
  rw [write, reception]
  dsimp only
  rw [askWrite_pass _ _ passes, levelOf_receiver call received]
  dsimp only [State.modProc]
  rw [State.modLine_eq]
  rfl

theorem writeNext_refused {data : List Byte} {rest : List (List Byte)} (write : (s.line l).recv.toWrite = data :: rest)
    (reception : s.pageInReception l = some p) (refused : allocTest s (s.entry p.slot) (.lc l) ≠ .pass) :
    writeNext l s = storeFails l .segments s := by
  unfold writeNext
  rw [write, reception]
  dsimp only
  rw [askWrite_refused _ _ rfl refused]
  cases test : allocTest s (s.entry p.slot) (.lc l) with
  | pass => exact absurd test refused
  | storeFull => rfl
  | pageLimit => rfl

/-- A block with nothing to write is stored at once. -/
theorem writeNext_stored (write : (s.line l).recv.toWrite = []) : writeNext l s = s.setLine l
    (Line.formed (.msg (.resend (marksOctets []))) { s.line l with
      recv := { (s.line l).recv with parts := [], answered := none, toWrite := [] },
      params := { (s.line l).params with block := wrapSucc 256 (s.line l).params.block, round := 0 } }) := by
  unfold writeNext
  rw [write]
  dsimp only
  unfold blockStored
  dsimp only
  rw [State.modLine_eq, answerStored_eq, State.line_setLine_self, State.setLine_setLine]

/-- The store failure of a line with a page in reception: the page closed TRUNCATED, listed and counted, PAGE_FAILED held. -/
theorem storeFails_closes (sub : StoreSub) (call : (s.line l).call = some c) (inbound : c.inbound = some h)
    (there : s.inDoc h = some d) (reception : d.inPage = some p) (page : s.page p = some e)
    (small : s.recept.entryCounter < 65536) (not : NotAwaited h s) (other : (s.line l).state ≠ .releasing) :
    ∃ recept notices lost waiting port, storeFails l sub s =
      { s.setLine l ((((s.line l).countsPage).storeFailed sub).formed (.msg .pageFailed)) with
        store := { s.store with dir := s.store.dir.set p.slot e.cutShort, waiting, port },
        recept,
        link := { s.link with notices, lost } } ∧
      PageListed h d p (decide (e.refs < 4095)) s.cfg.autoPrint s.recept recept := by
  obtain ⟨recept, notices, lost, closed, listed⟩ := closeReceived_closes (s := withdraw (.lc l) s) (p := p) (e := e) false (by exact call) inbound
    there reception (by exact page) small not
  have line : (closeReceived false l (withdraw (.lc l) s)).line l = (s.line l).countsPage := by
    rw [closed]
    exact State.line_setLine_self ..
  have fails := storeFails_eq (l := l) (s := s) sub (by rw [line]; exact other)
  rw [line, closed] at fails
  obtain ⟨notices', lost', entered⟩ := entering_frame l ((((s.line l).countsPage).storeFailed sub).formed (.msg .pageFailed))
    { (withdraw (.lc l) s).pageCut l p e notices lost with recept }
  refine ⟨recept, notices', lost', (withdraw (.lc l) (withdraw (.lc l) s)).store.waiting,
    (withdraw (.lc l) (withdraw (.lc l) s)).store.port, fails.trans (entered.trans ?_), listed⟩
  exact (congrArg (fun t : State => ({ s with
    lines := t.lines
    store := { s.store with
      dir := s.store.dir.set p.slot e.cutShort
      waiting := (withdraw (.lc l) (withdraw (.lc l) s)).store.waiting
      port := (withdraw (.lc l) (withdraw (.lc l) s)).store.port }
    recept
    link := { s.link with notices := notices', lost := lost' } } : State))
    (State.setLine_setLine s l (s.line l).countsPage
      (((s.line l).countsPage.storeFailed sub).formed (.msg .pageFailed))) :)

/-- The store failure of a line with no page in reception. -/
theorem storeFails_unopened (sub : StoreSub) (none_ : s.pageInReception l = none) (other : (s.line l).state ≠ .releasing) :
    storeFails l sub s = (withdraw (.lc l) s).entering l (((s.line l).storeFailed sub).formed (.msg .pageFailed)) := by
  have closed : closeReceived false l (withdraw (.lc l) s) = withdraw (.lc l) s := closeReceived_none (by exact none_)
  have fails := storeFails_eq (l := l) (s := s) sub (by rw [closed]; exact other)
  rw [closed] at fails
  exact fails

end

end Sys2Proof.Machine
end

section
/-! PROOFS. What the receiver does with frames, blocks and pages, assembled (R107 to R110, R124, R128). -/

namespace Sys2Proof.Machine

section
variable {l : LineNo} {h : InHandle} {c : CallRec} {d : InDoc} {p : PageHandle} {e : PageEntry} {s : State}
  {seq block round count : Nat} {final : Option Nat}

/-- A line that has taken a whole block from its receive buffer. -/
def Line.takesBlock (m : Msg) (count : Nat) (final : Option Nat) (x : Line) : Line :=
  { x.hears m with recv := x.recv.blockRead count final }

theorem exec_blockEnd {t : State} (on : s.power = true) (quiet : s.scan.state ≠ .held)
    (act : blockEndReceived l seq block round count final s = t) (same : t.scan = s.scan) :
    exec (.blockEndReceived l seq block round count final) s = .next t := by
  refine (exec_event (act := fun s => scanRetry (blockEndReceived l seq block round count final s)) on rfl).trans ?_
  rw [act, scanRetry_eq (by rw [same]; exact quiet)]

/-- A whole block of a page that is open goes on to its writes. -/
theorem blockEnd_open (awaited : (s.line l).awaitsBlockEnd seq block round count final)
    (whole : missingFrames (s.line l).recv (s.line l).params.chop count final = []) (call : (s.line l).call = some c)
    (inbound : c.inbound = some h) (there : s.inDoc h = some d) (reception : d.inPage = some p) :
    blockEndReceived l seq block round count final s = writeNext l
      (s.setLine l ((s.line l).takesBlock (.blockEnd seq block round count final) count final)) := by
  rw [blockEnd_whole awaited whole, heard_msg, storeBlock_ok (openReceived_open
    (by rw [State.line_setLine_self]; exact call) inbound (by exact there) reception), State.line_setLine_self,
    State.setLine_setLine]
  rfl

theorem takesBlock_reception (m : Msg) (call : (s.line l).call = some c) (inbound : c.inbound = some h)
    (there : s.inDoc h = some d) :
    (s.setLine l ((s.line l).takesBlock m count final)).pageInReception l = d.inPage :=
  pageInReception_some (c := c) (by rw [State.line_setLine_self]; exact call) inbound (by exact there)

/-- The writes of a block with a frame to write begin with its first frame. -/
theorem takesBlock_toWrite (m : Msg) (some_ : 1 ≤ wholeFrames count final) :
    ∃ rest, ((s.setLine l ((s.line l).takesBlock m count final)).line l).recv.toWrite = (s.line l).recv.frame 0 :: rest := by
  rw [State.line_setLine_self]
  obtain ⟨n, more⟩ := Nat.exists_eq_add_of_le' some_
  refine ⟨(List.range n).map fun k => (s.line l).recv.frame (k + 1), ?_⟩
  show (List.range (wholeFrames count final)).map (s.line l).recv.frame = _
  rw [more, List.range_succ_eq_map, List.map_cons, List.map_map]
  rfl

/-- The first write of a block is asked for at level 3, before any answer. -/
theorem block_asked (on : s.power = true) (quiet : s.scan.state ≠ .held)
    (awaited : (s.line l).awaitsBlockEnd seq block round count final)
    (whole : missingFrames (s.line l).recv (s.line l).params.chop count final = []) (call : (s.line l).call = some c)
    (inbound : c.inbound = some h) (there : s.inDoc h = some d) (reception : d.inPage = some p) (page : s.page p = some e)
    (some_ : 1 ≤ wholeFrames count final) (received : c.out = none)
    (room : e.committed < 16 * e.chain.length ∨ e.chain.length < 2048 ∧ s.freeCount ≠ 0) :
    ∃ t, exec (.blockEndReceived l seq block round count final) s = .next t ∧
      t.store = { s.store with waiting := s.store.waiting ++
        [{ client := .lc l, level := 3, op := .write p ((s.line l).recv.frame 0) none }] } ∧
      (t.line l).recv = (s.line l).recv.blockRead count final ∧ (t.line l).proc.storing = true ∧
      (t.line l).proc.tx = .quiet ∧ OtherLines l s t ∧ OnlyChanges [.lines, .store] s t := by
  obtain ⟨rest, write⟩ := takesBlock_toWrite (l := l) (s := s) (.blockEnd seq block round count final) some_
  obtain ⟨-, same, -, -⟩ := State.page_some page
  have asks := writeNext_asks (c := c) (p := p) write (by rw [State.line_setLine_self]; exact call) received
    ((takesBlock_reception _ call inbound there).trans reception) (by
      rw [show (s.setLine l ((s.line l).takesBlock (.blockEnd seq block round count final) count final)).entry p.slot = e
        from same.symm]
      exact allocTest_line l room)
  rw [State.line_setLine_self, State.setLine_setLine] at asks
  have silent : (s.line l).proc.tx = .quiet := of_decide_eq_true (Bool.and_eq_true_iff.1 awaited.1).2
  have act := (blockEnd_open awaited whole call inbound there reception).trans asks
  refine ⟨_, exec_blockEnd on quiet act rfl, rfl, ?_, ?_, ?_, fun k other => State.line_setLine_ne _ _ other, fun p other => ?_⟩
  · exact congrArg Line.recv (State.line_setLine_self ..)
  · exact congrArg (fun x : Line => x.proc.storing) (State.line_setLine_self ..)
  · exact (congrArg (fun x : Line => x.proc.tx) (State.line_setLine_self ..)).trans silent
  · cases p <;> first | rfl | exact absurd (by decide) other

/-- A block that the allocation test refuses closes the page and ends the call (R109). -/
theorem block_refused (on : s.power = true) (quiet : s.scan.state ≠ .held)
    (awaited : (s.line l).awaitsBlockEnd seq block round count final)
    (whole : missingFrames (s.line l).recv (s.line l).params.chop count final = []) (call : (s.line l).call = some c)
    (inbound : c.inbound = some h) (there : s.inDoc h = some d) (reception : d.inPage = some p) (page : s.page p = some e)
    (some_ : 1 ≤ wholeFrames count final) (full : 16 * e.chain.length ≤ e.committed)
    (why : s.freeCount = 0 ∨ 2048 ≤ e.chain.length) (not : NotAwaited h s) (small : s.recept.entryCounter < 65536) :
    ∃ t, exec (.blockEndReceived l seq block round count final) s = .next t ∧
      t.entry p.slot = e.cutShort ∧
      PageListed h d p (decide (e.refs < 4095)) s.cfg.autoPrint s.recept t.recept ∧
      (t.line l).state = .releasing ∧ (t.line l).proc.tx = .ready (.msg .pageFailed) ∧
      (t.line l).proc.andThen = some .quit ∧ (t.line l).proc.storing = false ∧ (t.line l).recv = .reset ∧
      (t.line l).call = some { c with cause := some (.storeFull .segments), pages := min 255 (c.pages + 1) } ∧
      OtherLines l s t ∧ OnlyChanges [.lines, .link, .store, .recept] s t ∧ LinkRaises s t := by
  obtain ⟨rest, write⟩ := takesBlock_toWrite (l := l) (s := s) (.blockEnd seq block round count final) some_
  obtain ⟨-, same, -, -⟩ := State.page_some page
  have line : (s.setLine l ((s.line l).takesBlock (.blockEnd seq block round count final) count final)).line l =
      (s.line l).takesBlock (.blockEnd seq block round count final) count final := State.line_setLine_self ..
  have refuses := writeNext_refused (p := p) write ((takesBlock_reception _ call inbound there).trans reception) (by
      rw [show (s.setLine l ((s.line l).takesBlock (.blockEnd seq block round count final) count final)).entry p.slot = e
        from same.symm]
      exact allocTest_line_refused l full why)
  obtain ⟨recept, notices, lost, waiting, port, fails, listed⟩ := storeFails_closes (l := l) (p := p) (e := e) (c := c)
    (s := s.setLine l ((s.line l).takesBlock (.blockEnd seq block round count final) count final)) .segments
    (by rw [line]; exact call) inbound (by exact there) reception (by exact page) small (by exact not)
    (by rw [line]; show (s.line l).state ≠ _; rw [awaited.2.1]; nofun)
  rw [line, State.setLine_setLine] at fails
  have act := (blockEnd_open awaited whole call inbound there reception).trans (refuses.trans fails)
  have ready := Line.formed_ready (.msg .pageFailed) (x := (((s.line l).takesBlock (.blockEnd seq block round count final) count
    final).countsPage).storeFailed .segments) rfl
  rw [ready] at act
  refine ⟨_, exec_blockEnd on quiet act rfl, Table.get_set_self .., listed, ?_, ?_, ?_, ?_, ?_, ?_,
    fun k other => State.line_setLine_ne _ _ other, fun p other => ?_, ⟨notices, lost, rfl⟩⟩
  · exact congrArg Line.state (State.line_setLine_self ..)
  · exact congrArg (fun x : Line => x.proc.tx) (State.line_setLine_self ..)
  · exact congrArg (fun x : Line => x.proc.andThen) (State.line_setLine_self ..)
  · exact congrArg (fun x : Line => x.proc.storing) (State.line_setLine_self ..)
  · exact congrArg Line.recv (State.line_setLine_self ..)
  · refine (congrArg Line.call (State.line_setLine_self ..)).trans ?_
    show (((s.line l).call.map fun c => { c with pages := min 255 (c.pages + 1) }).map
      fun c : CallRec => { c with cause := some (.storeFull .segments) }) = _
    rw [call]
    rfl
  · cases p <;> first | rfl | exact absurd (by decide) other

end

end Sys2Proof.Machine
end

section
/-! PROOFS. The receiver's steps, assembled (R107 to R110, R124, R128). -/

namespace Sys2Proof.Machine

section
variable {l : LineNo} {h : InHandle} {c : CallRec} {d : InDoc} {p : PageHandle} {e : PageEntry} {s : State}
  {seq block round count lineCount : Nat} {final : Option Nat} {next : Option ResClass}

/-- A block of the page's short last frame alone has no write: RESEND without marks follows at once. -/
theorem block_kept (awaited : (s.line l).awaitsBlockEnd seq block round count final)
    (whole : missingFrames (s.line l).recv (s.line l).params.chop count final = []) (call : (s.line l).call = some c)
    (inbound : c.inbound = some h) (there : s.inDoc h = some d) (reception : d.inPage = some p)
    (none_ : wholeFrames count final = 0) : blockEndReceived l seq block round count final s = s.setLine l
      { (s.line l).answering (.msg (.blockEnd seq block round count final)) (.msg (.resend (marksOctets []))) with
        params := { ((s.line l).answering (.msg (.blockEnd seq block round count final))
          (.msg (.resend (marksOctets [])))).params with block := (block + 1) % 256, round := 0 },
        recv := { (s.line l).recv.blockRead count final with parts := [], answered := none } } := by
  obtain ⟨-, -, free, -, also, -⟩ := id awaited
  have line : (s.setLine l ((s.line l).takesBlock (.blockEnd seq block round count final) count final)).line l =
      (s.line l).takesBlock (.blockEnd seq block round count final) count final := State.line_setLine_self ..
  have write : ((s.setLine l ((s.line l).takesBlock (.blockEnd seq block round count final) count final)).line
      l).recv.toWrite = [] := by
    rw [line]
    show (List.range (wholeFrames count final)).map (s.line l).recv.frame = []
    rw [none_]
    rfl
  rw [blockEnd_open awaited whole call inbound there reception, writeNext_stored write, line, State.setLine_setLine,
    Line.formed_ready _ (by rfl)]
  refine congrArg (s.setLine l) ?_
  have writes : (s.line l).recv.blockRead count final =
      { (s.line l).recv.blockRead count final with toWrite := [] } := by
    unfold ReceiveSide.blockRead
    rw [none_]
    rfl
  rw [writes]
  unfold Line.takesBlock Line.hears Line.answering
  dsimp only
  rw [also, free]
  rfl

/-- A page opened at its first block goes on as one that stood open. -/
theorem blockEnd_opens {slot : Nat} (awaited : (s.line l).awaitsBlockEnd seq block round count final)
    (whole : missingFrames (s.line l).recv (s.line l).params.chop count final = []) (call : (s.line l).call = some c)
    (inbound : c.inbound = some h) (there : s.inDoc h = some d) (none_ : d.inPage = none) (room : d.pages.length < 255)
    (single : Client.holdsOpen s (.lc l) = false) (small : slot < 1024) (free : (s.entry slot).state = .free)
    (lowest : ∀ k, k < slot → (s.entry k).state ≠ .free) :
    let p : PageHandle := ⟨slot, (s.entry slot).issue⟩
    let s₂ : State := { s.setEntry slot (openedPage l (s.entry slot).issue (s.line l).recv.cls) with
      recept := { s.recept with docs := s.recept.docs.set h.slot { d with inPage := some p } } }
    s₂.inDoc h = some { d with inPage := some p } ∧
      s₂.page p = some (openedPage l (s.entry slot).issue (s.line l).recv.cls) ∧
      blockEndReceived l seq block round count final s = blockEndReceived l seq block round count final s₂ := by
  intro p s₂
  obtain ⟨slotted, live, issue, at_slot⟩ := State.inDoc_some there
  have doc : s₂.inDoc h = some { d with inPage := some p } := by
    unfold State.inDoc
    rw [show s₂.recept.docs.get h.slot = { d with inPage := some p } from Table.get_set_self ..]
    exact if_pos ⟨slotted, live, issue⟩
  have page : s₂.page p = some (openedPage l (s.entry slot).issue (s.line l).recv.cls) := by
    have entry : s₂.entry p.slot = openedPage l (s.entry slot).issue (s.line l).recv.cls := Table.get_set_self ..
    rw [State.page_eq small (by rw [entry]; nofun) (by rw [entry]; rfl), entry]
  refine ⟨doc, page, ?_⟩
  have opens := openReceived_opens (l := l) (c := c) (h := h) (d := d) (slot := slot) (cls := (s.line l).recv.cls)
    (s := s.setLine l ((s.line l).hears (.blockEnd seq block round count final))) (by rw [State.line_setLine_self]; exact call)
    inbound there none_ room single small free lowest (by rw [State.line_setLine_self]; rfl)
  rw [blockEnd_whole awaited whole, heard_msg, storeBlock_ok opens,
    blockEnd_open (s := s₂) (c := c) (p := p) (by exact awaited) (by exact whole) (by exact call) inbound doc rfl]
  refine congrArg (writeNext l) ?_
  have line : (s₂.setLine l ((s.line l).hears (.blockEnd seq block round count final))).line l =
      (s.line l).hears (.blockEnd seq block round count final) := State.line_setLine_self ..
  exact (congrArg (fun x : Line => (s₂.setLine l ((s.line l).hears (.blockEnd seq block round count final))).setLine l
    { x with recv := x.recv.blockRead count final }) line).trans (State.setLine_setLine s₂ l _ _)

/-- No slot, or a full document: no page is opened, and the call ends with PAGE_FAILED and QUIT (R109). -/
theorem block_unopened {sub : StoreSub} (awaited : (s.line l).awaitsBlockEnd seq block round count final)
    (whole : missingFrames (s.line l).recv (s.line l).params.chop count final = []) (call : (s.line l).call = some c)
    (inbound : c.inbound = some h) (there : s.inDoc h = some d) (none_ : d.inPage = none)
    (full : sub = .pages ∧ 255 ≤ d.pages.length ∨
      sub = .directory ∧ d.pages.length < 255 ∧ ∀ k, k < 1024 → (s.entry k).state ≠ .free) :
    blockEndReceived l seq block round count final s = (withdraw (.lc l) s).entering l
      { ((s.line l).answering (.msg (.blockEnd seq block round count final)) (.msg .pageFailed)).withCause (.storeFull sub) with
        state := .releasing, recv := .reset,
        proc := { (((s.line l).answering (.msg (.blockEnd seq block round count final)) (.msg .pageFailed)).withCause
          (.storeFull sub)).proc with andThen := some .quit } } := by
  obtain ⟨-, receiving, free, -⟩ := id awaited
  have line : (s.setLine l ((s.line l).hears (.blockEnd seq block round count final))).line l =
      (s.line l).hears (.blockEnd seq block round count final) := State.line_setLine_self ..
  have failed := openReceived_full (l := l) (c := c) (h := h) (d := d) (sub := sub)
    (s := s.setLine l ((s.line l).hears (.blockEnd seq block round count final))) (by rw [line]; exact call) inbound there
    none_ full
  have unopened : (s.setLine l ((s.line l).hears (.blockEnd seq block round count final))).pageInReception l = none :=
    (pageInReception_some (c := c) (by rw [line]; exact call) inbound (by exact there)).trans none_
  rw [blockEnd_whole awaited whole, heard_msg, storeBlock_error failed, storeFails_unopened sub unopened
    (by rw [line]; show (s.line l).state ≠ _; rw [receiving]; nofun), line, Line.formed_ready _ (by rfl)]
  refine (setLine_entering (s := withdraw (.lc l) s) (x := (s.line l).hears (.blockEnd seq block round count final))
    (by rfl)).trans (congrArg ((withdraw (.lc l) s).entering l) ?_)
  unfold Line.storeFailed Line.hears Line.answering Line.withCause
  dsimp only
  rw [free]

/-! ### PAGE_END (R110) -/

theorem exec_pageEnd {t : State} (on : s.power = true) (quiet : s.scan.state ≠ .held)
    (act : pageEndReceived l seq lineCount next s = t) (same : t.scan = s.scan) :
    exec (.pageEndReceived l seq lineCount next) s = .next t := by
  refine (exec_event (act := fun s => scanRetry (pageEndReceived l seq lineCount next s)) on rfl).trans ?_
  rw [act, scanRetry_eq (by rw [same]; exact quiet)]

/-- The part with a line in POST_PAGE, its page's close not yet begun. -/
def State.inPostPage (s : State) (l : LineNo) (m : Msg) (next : Option ResClass) (notices : List Notice) (lost : Nat) : State :=
  { s.setLine l ((s.line l).postPage m next) with link := { s.link with notices, lost } }

/-- A page end with octets left asks for the final block's write. -/
theorem pageEnd_asks (m : Msg) (receiving : (s.line l).state = .receiving) (silent : (s.line l).proc.tx = .quiet)
    (left : (s.line l).recv.short ≠ []) (short : (s.line l).recv.short.length < 256) (call : (s.line l).call = some c)
    (received : c.out = none) (inbound : c.inbound = some h) (there : s.inDoc h = some d) (reception : d.inPage = some p)
    (page : s.page p = some e) (room : e.committed < 16 * e.chain.length ∨ e.chain.length < 2048 ∧ s.freeCount ≠ 0) :
    let t := takePageEnd l lineCount next (heard l (.msg m) s)
    t.store = { s.store with waiting := s.store.waiting ++ [⟨.lc l, 3,
        .write p ((s.line l).recv.short ++ 0xCF :: List.replicate (255 - (s.line l).recv.short.length) 0)
          (some ⟨(s.line l).recv.short.length, min 6912 lineCount, false, .reference⟩)⟩] } ∧
      (t.line l).state = .postPage ∧ (t.line l).proc.storing = true ∧ (t.line l).proc.afterGood = some next ∧
      (t.line l).proc.tx = .quiet ∧ OtherLines l s t ∧ OnlyChanges [.lines, .link, .store] s t := by
  intro t
  obtain ⟨notices, lost, entered⟩ := heard_postPage (l := l) (s := s) m next receiving
  obtain ⟨-, same, -, -⟩ := State.page_some page
  have entered : _ = s.inPostPage l m next notices lost := entered
  have line : (s.inPostPage l m next notices lost).line l = (s.line l).postPage m next :=
    State.line_setLine_self s l ((s.line l).postPage m next)
  have entry : (s.inPostPage l m next notices lost).entry p.slot = e := same.symm
  have counted : clamp 0 6912 lineCount = min 6912 lineCount := by
    unfold clamp
    omega
  have asks := askWrite_pass (c := .lc l) (h := p)
    (s := s.inPostPage l m next notices lost)
    (finalBlock (s.line l).recv.short) (some ⟨(s.line l).recv.short.length, clamp 0 6912 lineCount, false, .reference⟩) (by
      rw [entry]
      exact allocTest_line l room)
  rw [levelOf_receiver (c := c) (by rw [line]; exact call) received, finalBlock_eq short, counted] at asks
  have ends : t = { s.setLine l { (s.line l).postPage m next with
        proc := { ((s.line l).postPage m next).proc with storing := true } } with
      link := { s.link with notices, lost }
      store := { s.store with waiting := s.store.waiting ++ [⟨.lc l, 3,
        .write p ((s.line l).recv.short ++ 0xCF :: List.replicate (255 - (s.line l).recv.short.length) 0)
          (some ⟨(s.line l).recv.short.length, min 6912 lineCount, false, .reference⟩)⟩] } } := by
    show takePageEnd l lineCount next (heard l (.msg m) s) = _
    unfold takePageEnd
    rw [heard_pageInReception, pageInReception_some call inbound there, reception]
    dsimp only
    rw [entered, line]
    unfold startClose
    rw [show ((s.line l).postPage m next).recv.short = (s.line l).recv.short from rfl, if_neg left, finalBlock_eq short, counted,
      asks]
    dsimp only [State.modProc]
    rw [State.modLine_eq, show (queueRequest _ (s.inPostPage l m next notices lost)).line l = (s.line l).postPage m next from line]
    exact (congrArg (fun t : State => ({ s with
      lines := t.lines
      link := { s.link with notices, lost }
      store := { s.store with waiting := s.store.waiting ++ [⟨.lc l, 3,
        .write p ((s.line l).recv.short ++ 0xCF :: List.replicate (255 - (s.line l).recv.short.length) 0)
          (some ⟨(s.line l).recv.short.length, min 6912 lineCount, false, .reference⟩)⟩] } } : State))
      (State.setLine_setLine s l ((s.line l).postPage m next) { (s.line l).postPage m next with
        proc := { ((s.line l).postPage m next).proc with storing := true } }) :)
  rw [ends]
  refine ⟨rfl, ?_, ?_, ?_, ?_, fun k other => State.line_setLine_ne _ _ other, fun q other => ?_⟩
  · exact congrArg Line.state (State.line_setLine_self ..)
  · exact congrArg (fun x : Line => x.proc.storing) (State.line_setLine_self ..)
  · exact congrArg (fun x : Line => x.proc.afterGood) (State.line_setLine_self ..)
  · exact (congrArg (fun x : Line => x.proc.tx) (State.line_setLine_self ..)).trans silent
  · cases q <;> first | rfl | exact absurd (by decide) other

/-- A page end with no octets left closes the page, lists it and holds PAGE_GOOD. -/
theorem pageEnd_closes (m : Msg) (receiving : (s.line l).state = .receiving)
    (short : (s.line l).recv.short = []) (call : (s.line l).call = some c) (inbound : c.inbound = some h)
    (there : s.inDoc h = some d) (reception : d.inPage = some p) (page : s.page p = some e) (not : NotAwaited h s)
    (small : s.recept.entryCounter < 65536) :
    let t := takePageEnd l lineCount next (heard l (.msg m) s)
    t.entry p.slot = e.endedAt lineCount ∧
      PageListed h d p (decide (e.refs < 4095)) s.cfg.autoPrint s.recept t.recept ∧
      (t.line l).state = .postPage ∧ (t.line l).proc.tx = .ready (.msg .pageGood) ∧
      (t.line l).proc.afterGood = some next ∧ (t.line l).call = some { c with pages := min 255 (c.pages + 1) } ∧
      OtherLines l s t ∧ OnlyChanges [.lines, .link, .store, .recept] s t := by
  intro t
  obtain ⟨notices, lost, closes⟩ := takePageEnd_closes (lineCount := lineCount) (next := next) m receiving short call inbound there
    reception page
  obtain ⟨recept, listed, joins⟩ := listAndTell_listed (decide (e.refs < 4095))
    (s := s.pageEnds l m next p e lineCount notices lost) (by exact there) p small (by exact not)
  have line : ({ s.pageEnds l m next p e lineCount notices lost with recept } : State).line l =
      ({ (s.line l).postPage m next with recv := { (s.line l).recv with short := [] } } : Line).countsPage :=
    State.line_setLine_self s l _
  rw [listed, answerStored_eq, line, Line.formed_ready _ (by rfl)] at closes
  have ends : t = _ := closes
  have others (k : LineNo) (other : k ≠ l) : ({ s.pageEnds l m next p e lineCount notices lost with recept } : State).line k =
      s.line k := State.line_setLine_ne s _ other
  rw [ends]
  refine ⟨Table.get_set_self .., joins, ?_, ?_, ?_, ?_, fun k other => (State.line_setLine_ne _ _ other).trans (others k other),
    fun q other => ?_⟩
  · exact congrArg Line.state (State.line_setLine_self ..)
  · exact congrArg (fun x : Line => x.proc.tx) (State.line_setLine_self ..)
  · exact congrArg (fun x : Line => x.proc.afterGood) (State.line_setLine_self ..)
  · refine (congrArg Line.call (State.line_setLine_self ..)).trans ?_
    show (s.line l).call.map _ = _
    rw [call]
    rfl
  · cases q <;> first | rfl | exact absurd (by decide) other

end

end Sys2Proof.Machine
end

section
/-! PROOFS. A final block's commit at the receiver, and O46 assembled (R7, R9, R107 to R110, R124, R128). -/

namespace Sys2Proof.Machine

/-! ### Commits (R7, R17) -/

section
variable {c : Client} {level addr : Nat} {data : List Byte} {p : PageHandle} {e : PageEntry} {s : State}

theorem needsSegment_room (room : e.committed < 16 * e.chain.length) : e.needsSegment = false := by
  simp [PageEntry.needsSegment, room]

theorem takesBlock_room (page : s.page p = some e) (opened : e.state = .opened)
    (room : e.committed < 16 * e.chain.length) : s.takesBlock p = true := by
  unfold State.takesBlock
  rw [page]
  dsimp only
  rw [opened, needsSegment_room room]
  rfl

/-- A block in the last segment's room commits in its page's entry alone. -/
theorem commitBlock_room (code : Nat) (page : s.page p = some e) (room : e.committed < 16 * e.chain.length) :
    commitBlock p code s = s.setEntry p.slot { e with committed := e.committed + 1, byteLen := e.byteLen + code } := by
  obtain ⟨-, same, -, -⟩ := State.page_some page
  unfold commitBlock
  dsimp only
  rw [← same, needsSegment_room room]
  rfl

/-- A live final block has its octets moved, commits and ends its writer's page. -/
theorem writeStep_final {req : CloseReq}
    (granted : s.store.port = some ⟨⟨c, level, .write p data (some req)⟩, addr, false⟩) (takes : s.takesBlock p = true) :
    writeStep s = closeCommitted c p req (commitBlock p req.code (moveBlock addr data (freePort s))) := by
  unfold writeStep
  rw [granted]
  dsimp only
  rw [show (moveBlock addr data (freePort s)).takesBlock p = true from takes]
  rfl

theorem exec_write {paper : Bool} {t : State} (on : s.power = true) (quiet : t.scan.state ≠ .held)
    (act : writeStep (s.modScan fun u => { u with paper }) = t) : exec (.blockWriteCommit paper) s = .next t := by
  refine (exec_event (act := fun s => scanRetry (writeStep (s.modScan fun u => { u with paper }))) on rfl).trans ?_
  rw [act, scanRetry_eq quiet]

end

section
variable {l : LineNo} {h : InHandle} {c : CallRec} {d : InDoc} {p : PageHandle} {e : PageEntry} {s : State} {data : List Byte}
  {level addr : Nat} {req : CloseReq}

/-- A received page as its final block's commit closes it (R9, R110). -/
def PageEntry.finished (e : PageEntry) (req : CloseReq) : PageEntry := { e with
  state := .closed, writer := none, committed := e.committed + 1, byteLen := e.byteLen + req.code,
  lineCount := min 6912 req.lineCount, truncated := e.truncated || req.truncated,
  refs := min 4095 (e.refs + 1), pending := [] }

/-- The commit of a received page's final block: the page closes, is listed and answered. -/
theorem finalBlock_received (granted : s.store.port = some ⟨⟨.lc l, level, .write p data (some req)⟩, addr, false⟩)
    (call : (s.line l).call = some c) (inbound : c.inbound = some h) (there : s.inDoc h = some d)
    (reception : d.inPage = some p) (page : s.page p = some e) (opened : e.state = .opened)
    (room : e.committed < 16 * e.chain.length) (hold : req.hold = .reference) (not : NotAwaited h s)
    (small : s.recept.entryCounter < 65536) :
    let t := writeStep s
    t.entry p.slot = e.finished req ∧
      PageListed h d p (decide (e.refs < 4095)) s.cfg.autoPrint s.recept t.recept ∧
      AnswerFormed (.msg .pageGood) (s.line l) (t.line l) ∧ (t.line l).recv.short = [] ∧
      (t.line l).call = some { c with pages := min 255 (c.pages + 1) } ∧
      OtherLines l s t ∧ OnlyChanges [.lines, .link, .store, .mem, .recept] s t := by
  intro t
  have step := writeStep_final granted (takesBlock_room page opened room)
  rw [commitBlock_room (s := moveBlock addr data (freePort s)) req.code (by exact page) room] at step
  have committed := State.page_setEntry (s := moveBlock addr data (freePort s))
    (e' := { e with committed := e.committed + 1, byteLen := e.byteLen + req.code }) page (by show e.state ≠ _; rw [opened]; nofun)
    rfl
  obtain ⟨notices, lost, closed⟩ := finishClose_reference (c := req) false committed hold
  have counted : ∀ n, clamp 0 6912 n = min 6912 n := fun n => by
    unfold clamp
    omega
  have ended : { PageEntry.closedBy { e with committed := e.committed + 1, byteLen := e.byteLen + req.code } req with
      refs := min 4095 (e.refs + 1) } = e.finished req := by
    unfold PageEntry.closedBy PageEntry.finished
    dsimp only
    rw [counted]
  rw [ended] at closed
  have received := pageReceived_eq (l := l) (c := c) (h := h) (d := d) (p := p)
    (s := finishClose false p req ((moveBlock addr data (freePort s)).setEntry p.slot
      { e with committed := e.committed + 1, byteLen := e.byteLen + req.code })) (decide (e.refs < 4095))
    (by rw [closed]; exact call) inbound (by rw [closed]; exact there) reception
  have held : State.refTaken ((moveBlock addr data (freePort s)).setEntry p.slot
      { e with committed := e.committed + 1, byteLen := e.byteLen + req.code }) p = decide (e.refs < 4095) :=
    (refTaken_eq committed :)
  have goes : t = pageReceived l (decide (e.refs < 4095)) (finishClose false p req ((moveBlock addr data (freePort s)).setEntry
      p.slot { e with committed := e.committed + 1, byteLen := e.byteLen + req.code })) := by
    rw [← held]
    exact step
  rw [received, closed] at goes
  obtain ⟨recept, listed, joins⟩ := listAndTell_listed (decide (e.refs < 4095))
    (s := { (moveBlock addr data (freePort s)).setLine l
        ({ s.line l with recv := { (s.line l).recv with short := [] } } : Line).countsPage with
      store := { (moveBlock addr data (freePort s)).store with
        dir := (s.store.dir.set p.slot { e with committed := e.committed + 1, byteLen := e.byteLen + req.code }).set p.slot
          (e.finished req) }
      link := { s.link with notices, lost } }) (by exact there) p small (by exact not)
  have line : ({ (moveBlock addr data (freePort s)).setLine l
        ({ s.line l with recv := { (s.line l).recv with short := [] } } : Line).countsPage with
      store := { (moveBlock addr data (freePort s)).store with
        dir := (s.store.dir.set p.slot { e with committed := e.committed + 1, byteLen := e.byteLen + req.code }).set p.slot
          (e.finished req) }
      link := { s.link with notices, lost }
      recept } : State).line l = ({ s.line l with recv := { (s.line l).recv with short := [] } } : Line).countsPage :=
    State.line_setLine_self s l _
  have ends : t = _ := goes.trans ((congrArg (answerStored l (.msg .pageGood)) listed).trans (answerStored_eq ..))
  rw [line] at ends
  rw [ends]
  refine ⟨Table.get_set_self .., joins, ?_, ?_, ?_, fun k other => ?_, fun q other => ?_⟩
  · rw [State.line_setLine_self]
    exact Line.formed_answer (.msg .pageGood) ({ s.line l with recv := { (s.line l).recv with short := [] } } : Line).countsPage
  · rw [State.line_setLine_self, Line.formed_recv]
    rfl
  · rw [State.line_setLine_self, Line.formed_call]
    show (s.line l).call.map _ = _
    rw [call]
    rfl
  · exact (State.line_setLine_ne _ _ other).trans (State.line_setLine_ne s _ other)
  · cases q <;> first | rfl | exact absurd (by decide) other

/-! ### Frames (R107) -/

theorem frameReceived_reads {octets : List Byte} (hears : (s.line l).listening = true) (receiving : (s.line l).state = .receiving)
    (free : (s.line l).proc.storing = false) :
    (readLineFrame (inLineOrder (s.line l).params.order octets) = none → frameReceived l octets s =
      s.setLine l { s.line l with proc := { (s.line l).proc with incoming := true } }) ∧
    ∀ y, readLineFrame (inLineOrder (s.line l).params.order octets) = some y → y.sequence = (s.line l).params.pageSeq →
      y.block = (s.line l).params.block → (s.line l).recv.finalDone = false → frameReceived l octets s =
        s.setLine l { s.line l with
          proc := { (s.line l).proc with incoming := true }, recv := (s.line l).recv.store y } := by
  have hearing : (!((s.line l).listening && decide ((s.line l).state = .receiving) && !(s.line l).proc.storing)) = false := by
    rw [hears, receiving, free]
    rfl
  refine ⟨fun unread => ?_, fun y read seq block more => ?_⟩
  · unfold frameReceived
    dsimp only
    rw [hearing, unread]
    rfl
  · unfold frameReceived
    dsimp only
    rw [hearing, read]
    refine (if_neg nofun).trans ((if_pos ⟨seq, block, by rw [more]; rfl⟩).trans ?_)
    unfold State.modRecv State.modProc
    rw [State.modLine_eq, State.modLine_eq, State.line_setLine_self, State.setLine_setLine]

end

/-! ### O46 -/

/-- Settles O46. -/
theorem receiverStoresBlocks : Obligations.ReceiverStoresBlocks := by
  refine ⟨fun missing f small => marksOctets_marked missing small, ?_, ?_⟩
  · intro l s on quiet hears receiving free x seq block seqSmall blockSmall
    have silent : x.proc.tx = .quiet := of_decide_eq_true (Bool.and_eq_true_iff.1 hears).2
    refine ⟨fun f part data small more shape => ⟨?_, fun whole unheld => ?_⟩, fun octets unread => ?_,
      fun round count final more calm due rounds some_ most short => ?_,
      fun lineCount next c h d p e finalDone fits left short call received inbound there reception page room => ?_,
      fun lineCount next c h d p e finalDone fits short call inbound there reception page not counter => ?_⟩
    · have read := readLineFrame_pageFrame seqSmall blockSmall small shape
      refine (exec_event (act := frameReceived l _) on rfl).trans (congrArg _ ?_)
      refine (frameReceived_reads hears receiving free).2 _ ?_ rfl rfl more
      rw [inLineOrder_inLineOrder]
      exact read
    · obtain ⟨-, length⟩ | ⟨p, -, same, -⟩ := shape
      · subst whole
        exact store_frame seq block length unheld
      · rw [whole] at same
        exact nomatch same
    · exact (exec_event (act := frameReceived l _) on rfl).trans
        (congrArg _ ((frameReceived_reads hears receiving free).1 unread))
    · intro m missing
      have awaited : x.awaitsBlockEnd seq block round count final :=
        ⟨hears, receiving, free, rfl, rfl, seqSmall, blockSmall, more, calm, due, rounds, some_, most, short⟩
      have marks : missingFrames x.recv x.params.chop count final = missing := missingFrames_eq ..
      refine ⟨fun gaps low => ?_, fun cur gaps last rate => ?_, fun c h d whole call inbound there => ?_⟩
      · refine exec_blockEnd on quiet ?_ rfl
        rw [blockEnd_marked awaited (by rw [marks]; exact gaps), marks]
        exact answerMarks_again m missing low
      · have answers := blockEnd_marked awaited (by rw [marks]; exact gaps)
        rw [marks] at answers
        cases next : stepDown cur with
        | none =>
          refine exec_blockEnd on quiet (answers.trans (answerMarks_last m missing (by omega) rate next)) rfl
        | some low =>
          refine exec_blockEnd on quiet (answers.trans (answerMarks_fallsBack m missing (by omega) receiving rate next)) ?_
          exact entering_only _ _ _ .scan (by decide)
      · have whole : missingFrames x.recv x.params.chop count final = [] := marks.trans whole
        intro frames short_ read
        have frames_eq : frames = wholeFrames count final := by cases final <;> rfl
        have read_eq : read = x.recv.blockRead count final := by cases final <;> rfl
        rw [frames_eq, read_eq]
        refine ⟨fun p e reception page => ⟨fun some_ received room => ?_, fun some_ full why not small => ?_, fun none_ => ?_⟩,
          fun none_ => ⟨fun slot room single small free_ lowest => ?_, fun sub full => ?_⟩⟩
        · exact block_asked on quiet awaited whole call inbound there reception page some_ received room
        · exact block_refused on quiet awaited whole call inbound there reception page some_ full why not small
        · exact exec_blockEnd on quiet (block_kept awaited whole call inbound there reception none_) rfl
        · intro p opened s₂
          obtain ⟨doc, page, same⟩ := blockEnd_opens awaited whole call inbound there none_ room single small free_ lowest
          have row : exec (.blockEndReceived l seq block round count final) s =
              exec (.blockEndReceived l seq block round count final) s₂ := by
            have here := exec_event (i := .blockEndReceived l seq block round count final) (s := s)
              (act := fun s => scanRetry (blockEndReceived l seq block round count final s)) on rfl
            have there := exec_event (i := .blockEndReceived l seq block round count final) (s := s₂)
              (act := fun s => scanRetry (blockEndReceived l seq block round count final s)) on rfl
            rw [here, there]
            exact congrArg _ (congrArg scanRetry same)
          refine ⟨doc, page, row, fun some_ left received => ?_⟩
          obtain ⟨t, asked, store, recv, storing, tx, others, only⟩ := block_asked (s := s₂) (c := c) on quiet awaited whole call
            inbound doc rfl page some_ received (.inr ⟨by show 0 < 2048; decide, left⟩)
          have entry (k : Nat) : t.entry k = s₂.entry k := (congrArg (fun x : Store => x.dir.get k) store :)
          refine ⟨t, row.trans asked, (entry slot).trans (Table.get_set_self ..),
            fun k other => (entry k).trans (Table.get_set_ne _ _ other), only .recept (by decide), store, recv, storing, tx,
            others, fun q other => ?_⟩
          have kept := only q fun mem => other (by revert mem other; cases q <;> decide)
          revert kept
          cases q <;> first | exact fun kept => kept | exact absurd (by decide) other
        · exact exec_blockEnd on quiet (block_unopened awaited whole call inbound there none_ full)
            (entering_only _ _ _ .scan (by decide))
    · have asks := pageEnd_asks (lineCount := lineCount) (next := next) (.pageEnd seq lineCount next) receiving silent left short
        call received inbound there reception page room
      obtain ⟨store, state, storing, after, tx, others, only⟩ := asks
      exact ⟨_, exec_pageEnd on quiet (pageEndReceived_takes hears receiving free seqSmall finalDone fits)
        (only .scan (by decide)), store, state, storing, after, tx, others, only⟩
    · have closes := pageEnd_closes (lineCount := lineCount) (next := next) (.pageEnd seq lineCount next) receiving short call
        inbound there reception page not counter
      obtain ⟨entry, listed, state, tx, after, counts, others, only⟩ := closes
      exact ⟨_, exec_pageEnd on quiet (pageEndReceived_takes hears receiving free seqSmall finalDone fits)
        (only .scan (by decide)), entry, listed, state, tx, after, counts, others, only⟩
  · intro paper l level addr data req p e c h d s on quiet granted call inbound there reception page opened room hold not small
    obtain ⟨entry, listed, answer, short, counts, others, only⟩ := finalBlock_received
      (s := s.modScan fun u => { u with paper }) granted call inbound there reception page opened room hold not small
    refine ⟨_, exec_write on ?_ rfl, entry, listed, answer, short, counts, others, ?_⟩
    · rw [show State.scan (writeStep _) = _ from only .scan (by decide)]
      exact quiet
    · refine OnlyChanges.trans (t := s.modScan fun u => { u with paper }) (fun q other => ?_) (only.mono (by decide))
      cases q <;> first | rfl | exact absurd (by decide) other

end Sys2Proof.Machine
end

section
/-! PROOFS. Pages confirmed and failed at the sender, the answer timer, and messages not awaited (R95, R97, R111). -/

namespace Sys2Proof.Machine

section
variable {l : LineNo} {s : State}

/-! ### PAGE_GOOD and PAGE_FAILED at the sender (R60, R111) -/

/-- A confirmed page advances its destination's count (R60). -/
theorem confirmPage_eq {h : DocHandle} {index r : Nat} {d : Doc} {y : Dest} (there : s.doc h = some d)
    (listed : d.dests[index]? = some r) (record : s.dest r = some y) :
    confirmPage h index s = s.setDest r (some { y with confirmed := min d.pages.length (y.confirmed + 1) }) := by
  unfold confirmPage
  rw [there]
  dsimp only
  rw [listed]
  dsimp only
  rw [record]

/-- What the page at a position of an OUT call's document is. -/
theorem sendPage_eq {c : CallRec} {o : OutCall} {d : Doc} (call : (s.line l).call = some c) (out : c.out = some o)
    (there : s.doc o.doc = some d) (pos : Nat) : s.sendPage l pos = (d.pages[pos]?).map fun p => s.entry p.slot := by
  unfold State.sendPage State.callDoc
  rw [call]
  dsimp only
  rw [out]
  dsimp only
  rw [there]

theorem cancelAsked_eq {c : CallRec} {o : OutCall} {d : Doc} (call : (s.line l).call = some c) (out : c.out = some o)
    (there : s.doc o.doc = some d) : s.cancelAsked l = d.cancelReq := by
  unfold State.cancelAsked State.callDoc
  rw [call]
  dsimp only
  rw [out]
  dsimp only
  rw [there]

/-- A line that ends its call with QUIT, held for the turnaround (R112). -/
def Line.quitting (cause : Cause) (x : Line) : Line := { x.withCause cause with
  state := .releasing, params := { x.params with detector := .disarmed },
  proc := { x.proc with tx := .ready (.msg .quit), timer := false, incoming := false } }

/-- A sending line that turns to its next page (R111). -/
def Line.turnsPage (x : Line) : Line := { x with
  params := { x.params with
    pageSeq := wrapSucc 256 x.params.pageSeq, pagePos := x.params.pagePos + 1, block := 0, round := 0 },
  send := { x.send with block := 0 } }

theorem nextSentPage_eq {x : Line} {e : PageEntry} (before : (s.line l).state = x.state) (other : x.state ≠ .sending)
    (page : (s.setLine l x).sendPage l (x.params.pagePos + 1) = some e) : ∃ y, nextSentPage l (s.setLine l x) = s.entering l y ∧
      y.state = .sending ∧ y.call = x.call ∧ y.proc.tx = .ready .frames ∧ y.send.block = 0 ∧
      y.params.pageSeq = (x.params.pageSeq + 1) % 256 ∧ y.params.pagePos = x.params.pagePos + 1 ∧ y.params.block = 0 ∧
      y.params.round = 0 := by
  have turned : (s.setLine l x).modLine l (fun x => x.turnsPage) = s.setLine l x.turnsPage := by
    rw [State.modLine_eq, State.line_setLine_self, State.setLine_setLine]
  have sends : (s.entering l { x.turnsPage with state := .sending }).pageSent l = some e := by
    have call : ((s.entering l { x.turnsPage with state := .sending }).line l).call = ((s.setLine l x).line l).call := by
      rw [entering_line, State.line_setLine_self]
      rfl
    have same := sendPage_congr (s := s.setLine l x) (by exact entering_docs) (by exact congrArg Store.dir entering_store) call
      (x.params.pagePos + 1)
    rw [page] at same
    unfold State.pageSent
    rw [entering_line]
    exact same
  have eq : nextSentPage l (s.setLine l x) = queueBlock l (s.entering l { x.turnsPage with state := .sending }) := by
    show queueBlock l (changeState l .sending none ((s.setLine l x).modLine l (fun x => x.turnsPage))) = _
    rw [turned, changeState_entering (x := x.turnsPage) (by exact before) (by exact other)]
  rw [eq, queueBlock_eq sends, entering_line, entering_setLine (by rfl)]
  exact ⟨_, rfl, rfl, rfl, rfl, rfl, rfl, rfl, rfl, rfl⟩

/-- PAGE_GOOD awaited: the page is counted and confirmed, and QUIT or the next page follows. -/
theorem pageGoodReceived_confirms {c : CallRec} {o : OutCall} {d : Doc} {r : Nat} {y : Dest}
    (hears : (s.line l).listening = true) (state : (s.line l).state = .postPage) (role : (s.line l).role = some .sender)
    (call : (s.line l).call = some c) (out : c.out = some o) (there : s.doc o.doc = some d)
    (listed : d.dests[o.index]? = some r) (record : s.dest r = some y) :
    ∃ x c', pageGoodReceived l s =
        (s.setDest r (some { y with confirmed := min d.pages.length (y.confirmed + 1) })).entering l x ∧
      x.call = some c' ∧ c'.pages = min 255 (c.pages + 1) ∧
      (d.pages.length ≤ (s.line l).params.pagePos + 1 →
        x.state = .releasing ∧ x.proc.tx = .ready (.msg .quit) ∧ c'.cause = some .normal) ∧
      ∀ p classes, d.pages[(s.line l).params.pagePos + 1]? = some p → d.cancelReq = false →
        (s.line l).params.classes = some classes →
        (classes.getLsbD (classIndex (s.entry p.slot).cls) = true →
          x.state = .sending ∧ x.proc.tx = .ready .frames ∧
            x.params.pageSeq = ((s.line l).params.pageSeq + 1) % 256 ∧
            x.params.pagePos = (s.line l).params.pagePos + 1 ∧ x.params.block = 0 ∧ x.params.round = 0 ∧ x.send.block = 0) ∧
        (classes.getLsbD (classIndex (s.entry p.slot).cls) = false →
          x.state = .releasing ∧ x.proc.tx = .ready (.msg .quit) ∧ c'.cause = some (.remoteRefused .cls)) := by
  let x := ((s.line l).hears .pageGood).countsPage
  let u := s.setDest r (some { y with confirmed := min d.pages.length (y.confirmed + 1) })
  have here : (u.setLine l x).line l = x := State.line_setLine_self ..
  have counted : x.call = some { c with pages := min 255 (c.pages + 1) } := congrArg (Option.map _) call
  have before : (u.line l).state = x.state := rfl
  have other : x.state ≠ .releasing := by show (s.line l).state ≠ _; rw [state]; nofun
  have called : ((u.setLine l x).line l).call = some { c with pages := min 255 (c.pages + 1) } :=
    (congrArg Line.call here).trans counted
  have page := sendPage_eq (s := u.setLine l x) called out there ((s.line l).params.pagePos + 1)
  have cancel := cancelAsked_eq (s := u.setLine l x) called out there
  have confirmed : confirmPage o.doc o.index ((heard l (.msg .pageGood) s).modCall l fun c =>
      { c with pages := satAdd 255 c.pages 1 }) = u.setLine l x := by
    rw [heard_msg, State.modCall, State.modLine_eq, State.line_setLine_self, State.setLine_setLine]
    exact confirmPage_eq (s := s.setLine l x) there listed record
  have quits (cause : Cause) : releaseLater l cause (u.setLine l x) = u.entering l (x.quitting cause) :=
    releaseLater_setLine before other
  have quit_call (cause : Cause) : (x.quitting cause).call =
      some { c with pages := min 255 (c.pages + 1), cause := some cause } := congrArg (Option.map _) counted
  unfold pageGoodReceived
  dsimp only
  rw [hears, call]
  dsimp only
  rw [if_neg (by nofun), if_pos ⟨state, role⟩]
  simp only [out]
  rw [confirmed, page, cancel]
  cases next : d.pages[(s.line l).params.pagePos + 1]? with
  | none =>
    exact ⟨_, _, quits .normal, quit_call .normal, rfl, fun _ => ⟨rfl, rfl, rfl⟩, nofun⟩
  | some p =>
    have more : ¬d.pages.length ≤ (s.line l).params.pagePos + 1 := fun short => by
      rw [List.getElem?_eq_none short] at next; nomatch next
    rw [Option.map_some]
    dsimp only
    cases asked : d.cancelReq with
    | true => exact ⟨_, _, quits .cancelled, quit_call .cancelled, rfl, fun short => absurd short more, fun _ _ _ => nofun⟩
    | false =>
      rw [if_neg nofun]
      cases fits : (s.line l).params.classes.all fun c => hasClass c (s.entry p.slot).cls with
      | true =>
        obtain ⟨z, turns, sending, call', frames, block, seq, pos, block', round⟩ :=
          nextSentPage_eq (l := l) (s := u) (x := x) before (by show (s.line l).state ≠ _; rw [state]; nofun)
            (page.trans (by rw [next]; rfl))
        refine ⟨z, _, (if_pos fits).trans turns, call'.trans counted, rfl, fun short => absurd short more,
          fun q classes same _ some_ => ⟨fun _ => ⟨sending, frames, seq, pos, block', round, block⟩, fun lacks => ?_⟩⟩
        obtain rfl := Option.some.inj same
        rw [some_] at fits
        exact absurd (fits.symm.trans lacks) nofun
      | false =>
        refine ⟨_, _, (if_neg (ne_true_of_eq_false fits)).trans (quits (.remoteRefused .cls)), quit_call (.remoteRefused .cls), rfl,
          fun short => absurd short more, fun q classes same _ some_ => ⟨fun has => ?_, fun _ => ⟨rfl, rfl, rfl⟩⟩⟩
        obtain rfl := Option.some.inj same
        rw [some_] at fits
        exact absurd (fits.symm.trans has) nofun

theorem Line.awaitsResend_iff {x : Line} : x.awaitsResend = true ↔
    x.state = .sending ∧ x.role = some .sender ∧ ∃ a b c d e, x.proc.lastOut = some (.msg (.blockEnd a b c d e)) := by
  unfold Line.awaitsResend
  cases x.proc.lastOut with
  | none => simp
  | some out =>
    cases out with
    | msg m => cases m <;> simp
    | burst | frames => simp

/-- PAGE_FAILED awaited: the receiver's QUIT is waited for. -/
theorem pageFailedReceived_waits (hears : (s.line l).listening = true) (role : (s.line l).role = some .sender)
    (awaits : (s.line l).state = .postPage ∨ (s.line l).awaitsResend = true) :
    pageFailedReceived l s = s.entering l { (s.line l).withCause (.remoteRefused .pageFailed) with
      state := .releasing, params := { (s.line l).params with repeats := 0, detector := .disarmed },
      proc := { (s.line l).proc with timer := true, incoming := false, lastIn := none,
                                     awaitQuit := some (.remoteRefused .pageFailed) } } := by
  have other : (s.line l).state ≠ .releasing := by
    obtain state | resend := awaits
    · rw [state]; nofun
    · rw [(Line.awaitsResend_iff.1 resend).1]; nofun
  unfold pageFailedReceived
  dsimp only
  rw [hears, if_neg (by nofun), if_pos ⟨role, awaits⟩]
  simp only [heard_msg, State.modCall, State.modProc, State.modLine_eq, State.line_setLine_self, State.setLine_setLine]
  exact changeState_entering (by rfl) (by exact other)

/-! ### The answer timer (R97, R99) -/

/-- The answer timer runs for a line that listens and hears nothing. -/
theorem answerWaitExpiry_quits {cause : Cause} (hears : (s.line l).listening = true) (runs : (s.line l).proc.timer = true)
    (quiet : (s.line l).proc.incoming = false) (waits : (s.line l).proc.awaitQuit = some cause) :
    answerWaitExpiry l s = hangUp false l cause s := by
  unfold answerWaitExpiry
  dsimp only
  rw [hears, runs, quiet, waits]
  exact if_neg nofun

theorem answerWaitExpiry_repeats {out : Sending} (hears : (s.line l).listening = true) (runs : (s.line l).proc.timer = true)
    (quiet : (s.line l).proc.incoming = false) (none_ : (s.line l).proc.awaitQuit = none)
    (last : (s.line l).proc.lastOut = some out) :
    answerWaitExpiry l s = if 3 ≤ (s.line l).params.repeats then releaseNow l .timeout s
      else beginSending l out (s.modParams l fun q => { q with repeats := q.repeats + 1 }) := by
  unfold answerWaitExpiry
  dsimp only
  rw [hears, runs, quiet, none_, last]
  exact if_neg nofun

theorem answerWaitExpiry_counts (hears : (s.line l).listening = true) (runs : (s.line l).proc.timer = true)
    (quiet : (s.line l).proc.incoming = false) (none_ : (s.line l).proc.awaitQuit = none)
    (last : (s.line l).proc.lastOut = none) (role : (s.line l).role = some .receiver) :
    answerWaitExpiry l s = if (s.line l).proc.waits + 1 < 4 then s.modProc l fun p => { p with waits := p.waits + 1 }
      else releaseNow l .timeout (s.modProc l fun p => { p with waits := p.waits + 1 }) := by
  unfold answerWaitExpiry
  dsimp only
  rw [hears, runs, quiet, none_, last]
  exact (if_neg nofun).trans (if_pos role)

/-! ### Messages not awaited (R95, R97) -/

/-- What a received message does. -/
def Msg.acts (l : LineNo) : Msg → State → State
  | .offer identity rates orders chop cls => offerReceived l identity rates orders chop cls
  | .choose identity rate order chop classes => chooseReceived l identity rate order chop classes
  | .trainGood => trainGoodReceived l
  | .trainBad => trainBadReceived l
  | .blockEnd sequence block round count final => blockEndReceived l sequence block round count final
  | .resend marks => resendReceived l marks
  | .pageEnd sequence lineCount next => pageEndReceived l sequence lineCount next
  | .pageGood => pageGoodReceived l
  | .pageFailed => pageFailedReceived l
  | .quit => quitReceived l

theorem received_acts {m : Msg} {t : State} (on : s.power = true) (acts : m.acts l s = t) (still : t.scan.state ≠ .held) :
    exec (m.received l) s = .next t := by
  have retried : scanRetry (m.acts l s) = t := by rw [acts, scanRetry_eq still]
  cases m
  case blockEnd | pageEnd | quit => exact (exec_event (act := fun s => scanRetry (Msg.acts l _ s)) on rfl).trans (congrArg _ retried)
  all_goals exact (exec_event (act := Msg.acts l _) on rfl).trans (congrArg _ acts)

/-- A line that does not listen hears no message (log 30). -/
theorem acts_deaf (m : Msg) (deaf : (s.line l).listening = false) : m.acts l s = s := by
  have silent : (!(s.line l).listening) = true := by rw [deaf]; rfl
  cases m <;> exact if_pos silent

/-- A message that waits on the store for its answer. -/
def Msg.storeAnswered : Msg → Bool
  | .blockEnd _ _ _ _ _ | .pageEnd _ _ _ => true
  | _ => false

theorem acts_storing {m : Msg} (hears : (s.line l).listening = true) (storing : (s.line l).proc.storing = true)
    (kind : m.storeAnswered = true) : m.acts l s = s.setLine l (s.line l).receptionOver := by
  rw [← unheard_eq]
  have hears : ¬(!(s.line l).listening) = true := by rw [hears]; nofun
  cases m
  case blockEnd | pageEnd => exact (if_neg hears).trans (if_pos storing)
  all_goals exact nomatch kind

/-- A QUIT that is not awaited: nothing has been sent yet (R113). -/
theorem acts_quit (hears : (s.line l).listening = true) (not : ¬(s.line l).awaits .quit) :
    Msg.acts l .quit s = s.setLine l (s.line l).receptionOver := by
  have hears : ¬(!(s.line l).listening) = true := by rw [hears]; nofun
  obtain ⟨role, nothing⟩ := Classical.not_imp.1 not
  rw [← unheard_eq]
  exact (if_neg hears).trans (if_pos ⟨role, not_not.1 nothing⟩)

/-- A message out of range or not awaited, whose answer does not wait on the store, is a repeat or discarded. -/
theorem acts_unawaited {m : Msg} (hears : (s.line l).listening = true) (not : m.inRange = false ∨ ¬(s.line l).awaits m)
    (other : m ≠ .quit) (free : m.storeAnswered = true → (s.line l).proc.storing = false) :
    m.acts l s = repeatOrDiscard l (.msg m) s := by
  have hears : ¬(!(s.line l).listening) = true := by rw [hears]; nofun
  have unfit {P : Prop} (fits : P → m.inRange = true ∧ (s.line l).awaits m) : ¬P := fun both => by
    obtain ⟨ranged, awaited⟩ := fits both
    obtain far | none_ := not
    · exact nomatch far.symm.trans ranged
    · exact none_ awaited
  cases m with
  | offer => exact (if_neg hears).trans (if_neg (unfit fun ⟨state, role, ranged⟩ => ⟨ranged, state, role⟩))
  | choose =>
    exact (if_neg hears).trans (if_neg (unfit fun ⟨state, role, sent, ranged⟩ =>
      ⟨ranged, state, role, Option.isSome_iff_ne_none.1 sent⟩))
  | trainGood | trainBad =>
    exact (if_neg hears).trans (if_neg (unfit fun awaits => ⟨rfl, Line.awaitsTraining_iff.1 awaits⟩))
  | blockEnd =>
    have free : ¬(s.line l).proc.storing = true := ne_true_of_eq_false (free rfl)
    exact (if_neg hears).trans ((if_neg free).trans (if_neg (unfit fun ⟨state, ranged, seq, block, round, open_, quit⟩ =>
      ⟨ranged, state, seq, block, round, by simpa using open_, quit, by simpa using free⟩)))
  | resend =>
    refine (if_neg hears).trans (if_neg (unfit fun both => ?_))
    obtain ⟨awaits, ranged⟩ := Bool.and_eq_true_iff.1 both
    exact ⟨ranged, Line.awaitsResend_iff.1 awaits⟩
  | pageEnd =>
    have free : ¬(s.line l).proc.storing = true := ne_true_of_eq_false (free rfl)
    exact (if_neg hears).trans ((if_neg free).trans (if_neg (unfit fun ⟨state, ranged, seq, over_⟩ =>
      ⟨ranged, state, seq, over_, by simpa using free⟩)))
  | pageGood => exact (if_neg hears).trans (if_neg (unfit fun awaits => ⟨rfl, awaits⟩))
  | pageFailed =>
    refine (if_neg hears).trans (if_neg (unfit fun ⟨role, awaits⟩ => ⟨rfl, role, awaits.imp_right fun resend => ?_⟩))
    obtain ⟨state, -, last⟩ := Line.awaitsResend_iff.1 resend
    exact ⟨state, last⟩
  | quit => exact absurd rfl other

end

end Sys2Proof.Machine
end

section
/-! PROOFS. The end of a received call: its page in reception closed, the call logged, the document ended (R113, R117, R125). -/

namespace Sys2Proof.Machine

/-! ### The notice queue as notices are raised (R209) -/

/-- The notice queue has kept its notices and gained at most `n`. -/
def NoticesGrow (n : Nat) (s t : State) : Prop :=
  s.link.notices ⊆ t.link.notices ∧ t.link.notices.length ≤ s.link.notices.length + n ∧ t.link.mask = s.link.mask

theorem NoticesGrow.trans {m n : Nat} {s t u : State} (h : NoticesGrow m s t) (g : NoticesGrow n t u) :
    NoticesGrow (m + n) s u := by
  obtain ⟨kept, few, mask⟩ := h
  obtain ⟨kept', few', mask'⟩ := g
  exact ⟨fun x mem => kept' (kept mem), by omega, mask'.trans mask⟩

theorem NoticesGrow.of_link {s t : State} (same : t.link = s.link) : NoticesGrow 0 s t := by
  unfold NoticesGrow
  rw [same]
  exact ⟨fun _ mem => mem, Nat.le_refl _, rfl⟩

theorem raise_grows (kind : NoticeKind) (fields : List Byte) (s : State) : NoticesGrow 1 s (raise kind fields s) := by
  refine ⟨raise_keeps kind fields s, ?_, ?_⟩ <;> rw [raise_eq] <;> split_ifs <;> simp

theorem changeState_grows (l : LineNo) (new : CallState) (cause : Option Cause) (s : State) :
    NoticesGrow 1 s (changeState l new cause s) := by
  unfold changeState
  dsimp only
  split
  · exact ⟨fun _ mem => mem, Nat.le_succ _, rfl⟩
  · exact raise_grows _ _ (s.modLine l fun x => { x with state := new })

theorem logFill_grows (r : LogRecord) (s : State) : NoticesGrow 1 s (logFill r s) := by
  unfold logFill
  dsimp only
  split
  · exact raise_grows .logNearFull _ { s with log := s.log.filled r false }
  · exact ⟨fun _ mem => mem, Nat.le_succ _, rfl⟩

theorem chargeAndLog_grows {l : LineNo} {c : CallRec} (cause : Cause) (release : DateTime) (s : State) (inbound : c.out = none) :
    NoticesGrow 1 s (chargeAndLog l c cause release s).1 := by
  unfold chargeAndLog
  rw [inbound]
  exact logFill_grows _ (s.modLine l fun x => { x with charging := { x.charging with captured := false } })

/-- With every level let through and a place left, the notice joins the queue. -/
theorem raise_joins (kind : NoticeKind) (fields : List Byte) {s : State} (mask : s.link.mask = 0)
    (room : s.link.notices.length < 32) :
    ∃ n ∈ (raise kind fields s).link.notices, n.kind = kind ∧ n.fields = fields := by
  rw [raise_room (by rw [mask]; exact Nat.zero_le _) room]
  exact ⟨_, List.mem_append_right _ (List.mem_singleton_self _), rfl, rfl⟩

/-! ### The page in reception closes -/

section
variable {l : LineNo} {h : InHandle} {c : CallRec} {d : InDoc} {p : PageHandle} {e : PageEntry} {s : State}

/-- What a page's close tells the host. -/
theorem finishClose_link {c : CloseReq} (there : s.page p = some e) (hold : c.hold = .reference) :
    (finishClose false p c s).link = (raise .pageClosed
      (pageClosedFields p { e.closedBy c with refs := min 4095 (e.refs + 1) }) s).link := by
  obtain ⟨-, same, -, -⟩ := State.page_some there
  have page := State.page_setEntry (e' := { e.closedBy c with refs := min 4095 (e.refs + 1) }) there nofun rfl
  have closes : finishClose false p c s = releaseTest p (raise .pageClosed
      (pageClosedFields p { e.closedBy c with refs := min 4095 (e.refs + 1) })
      (s.setEntry p.slot { e.closedBy c with refs := min 4095 (e.refs + 1) })) := by
    unfold finishClose applyHold
    rw [hold]
    dsimp only [State.modEntry]
    rw [State.entry_setEntry_self, State.setEntry_setEntry, ← same, State.entry_setEntry_self]
    rfl
  obtain ⟨notices, lost, raised⟩ := raise_frame .pageClosed
    (pageClosedFields p { e.closedBy c with refs := min 4095 (e.refs + 1) })
    (s.setEntry p.slot { e.closedBy c with refs := min 4095 (e.refs + 1) })
  rw [closes, ← raise_link_congr .pageClosed _ (t := s.setEntry p.slot { e.closedBy c with refs := min 4095 (e.refs + 1) })
    (s := s) rfl rfl, raised]
  exact congrArg State.link (releaseTest_stays (by exact page) (.inr (.inl (by show 0 < min 4095 (e.refs + 1); omega))))

/-- What the close of the page in reception tells the host. -/
theorem closeReceived_link (call : (s.line l).call = some c) (inbound : c.inbound = some h)
    (there : s.inDoc h = some d) (reception : d.inPage = some p) (page : s.page p = some e)
    (small : s.recept.entryCounter < 65536) (not : NotAwaited h s) :
    (closeReceived false l s).link = (raise .pageClosed (pageClosedFields p e.cutShort) s).link := by
  obtain ⟨notices, lost, closed⟩ := finishClose_reference (s := withdraw (.lc l) s)
    (c := { code := 0, lineCount := 0, truncated := true, hold := .reference }) false (by exact page) rfl
  have told := finishClose_link (s := withdraw (.lc l) s)
    (c := { code := 0, lineCount := 0, truncated := true, hold := .reference }) (by exact page) rfl
  have cut : { e.closedBy { code := 0, lineCount := 0, truncated := true, hold := .reference } with
      refs := min 4095 (e.refs + 1) } = e.cutShort := by
    unfold PageEntry.closedBy PageEntry.cutShort
    rw [Bool.or_true]
    rfl
  rw [cut] at closed told
  obtain ⟨recept, listed, -⟩ := listAndTell_listed (decide (e.refs < 4095)) (s := s.pageCut l p e notices lost)
    (by exact there) p small not
  have steps : closeReceived false l s = listAndTell (decide (e.refs < 4095)) h p (s.pageCut l p e notices lost) := by
    unfold closeReceived
    rw [callInbound_some call inbound, pageInReception_some call inbound there, reception]
    dsimp only
    rw [refTaken_eq page, closed]
    unfold State.modCall
    rw [State.modLine_eq]
    rfl
  rw [steps, listed, ← raise_link_congr .pageClosed _ (t := withdraw (.lc l) s) (s := s) rfl rfl, ← told, closed]
  rfl

/-- A listed page leaves its document as it was but for the list, and no page in reception. -/
theorem PageListed.doc {taken auto : Bool} {r r' : Reception} (listed : PageListed h d p taken auto r r') :
    ∃ pages firstClose printState, r'.docs.get h.slot = { d with pages, firstClose, printState, inPage := none } := by
  unfold PageListed at listed
  split_ifs at listed
  · rw [listed]
    exact ⟨_, _, _, Table.get_set_self ..⟩
  · rw [listed]
    exact ⟨_, _, _, Table.get_set_self ..⟩
  · rw [listed]
    exact ⟨_, _, _, Table.get_set_self ..⟩
  · obtain ⟨_, _, -, rfl⟩ := listed
    exact ⟨_, _, _, Table.get_set_self ..⟩
  · obtain ⟨_, _, -, rfl, -⟩ := listed
    exact ⟨_, _, _, Table.get_set_self ..⟩

/-- A listed page leaves the entries of the print queue in their places by number. -/
theorem PageListed.entries {taken auto : Bool} {r r' : Reception} (listed : PageListed h d p taken auto r r') {n : Nat}
    {q : QueueEntry} (found : r.entryNumbered n = some q) : r'.entryNumbered n = some q := by
  unfold PageListed at listed
  split_ifs at listed
  · rw [listed]
    exact found
  · rw [listed]
    exact found
  · rw [listed]
    exact found
  · obtain ⟨_, _, ⟨m, k, front, back, -, -, unheld, -, split, -, rfl, -⟩, rfl⟩ := listed
    unfold Reception.entryNumbered at found ⊢
    have number : q.number = n := by simpa using List.find?_some found
    have other : m ≠ n := fun same => unheld q (List.mem_of_find?_eq_some found) (number.trans same.symm)
    rw [split, List.find?_append] at found
    rw [List.find?_append, List.find?_cons_of_neg (by simpa using other)]
    exact found
  · obtain ⟨_, _, -, rfl, -⟩ := listed
    exact found

theorem NotAwaited.listed {t : State} {taken auto : Bool} (not : NotAwaited h s) (engine : t.engine = s.engine)
    (listed : PageListed h d p taken auto s.recept t.recept) : NotAwaited h t := by
  obtain other | ⟨n, q, entry, there, other⟩ := not
  · exact .inl (by rw [engine]; exact other)
  · exact .inr ⟨n, q, by rw [engine]; exact entry, listed.entries there, other⟩

/-! ### The reception ends (R125) -/

/-- A document as its reception leaves it. -/
def InDoc.ended (d : InDoc) (now : DateTime) (cause : Cause) (lastSent : Bool) : InDoc := { d with
  release := some now, cause := some cause, lastSent,
  state := if lastSent then .complete else if d.pages = [] then .failed else .part }

/-- A document's slot after its reception: FREE when it has failed and auto-discard is on. -/
def InDoc.left (d : InDoc) (now : DateTime) (cause : Cause) (lastSent discard : Bool) : InDoc :=
  if (d.ended now cause lastSent).state = .failed ∧ discard = true then .freeWith ((d.issue + 1) % 256)
  else d.ended now cause lastSent

theorem raiseUnless_frame (quiet : Bool) (kind : NoticeKind) (fields : List Byte) (s : State) :
    ∃ notices lost, raiseUnless quiet kind fields s = { s with link := { s.link with notices, lost } } := by
  cases quiet with
  | true => exact ⟨_, _, rfl⟩
  | false => exact raise_frame kind fields s

theorem raiseUnless_setInDoc (quiet : Bool) (kind : NoticeKind) (fields : List Byte) (slot : Nat) (d : InDoc) (s : State) :
    raiseUnless quiet kind fields (s.setInDoc slot d) =
      { s.setInDoc slot d with link := (raiseUnless quiet kind fields s).link } := by
  cases quiet with
  | true => rfl
  | false =>
    have loud (s : State) : raiseUnless false kind fields s = raise kind fields s := rfl
    obtain ⟨notices, lost, raised⟩ := raise_frame kind fields (s.setInDoc slot d)
    rw [loud, loud, ← raise_link_congr kind fields (t := s.setInDoc slot d) (s := s) rfl rfl, raised]

/-- What the end of a reception does with its document as it then stands. -/
def InDoc.leaves (quiet : Bool) (h : InHandle) (cause : Cause) (s : State) (d : InDoc) : State :=
  let t := raiseUnless quiet .inboundEnd (inboundEndFields h d cause) (s.setInDoc h.slot d)
  if d.state = .failed && t.cfg.autoDiscard then freeInbound h.slot t else t

/-- A reception ends: the document in its last state, freed when it has failed and auto-discard is on. -/
theorem endInbound_ends {quiet last : Bool} {cause : Cause} {now : DateTime} (there : s.inDoc h = some d)
    (gone : d.inPage = none) : endInbound quiet h cause now last s = { s with
      recept := { s.recept with docs := s.recept.docs.set h.slot (d.left now cause last s.cfg.autoDiscard) },
      link := (raiseUnless quiet .inboundEnd (inboundEndFields h (d.ended now cause last) cause) s).link } := by
  have ended : { d with
      release := some now, cause := some cause, lastSent := last, inPage := none, state := endState d last } =
      d.ended now cause last := by
    unfold InDoc.ended
    rw [← gone]
    rfl
  have steps : endInbound quiet h cause now last s = InDoc.leaves quiet h cause s (d.ended now cause last) := by
    unfold endInbound
    rw [there]
    exact congrArg (InDoc.leaves quiet h cause s) ended
  rw [steps]
  unfold InDoc.leaves
  rw [raiseUnless_setInDoc]
  unfold InDoc.left
  by_cases frees : (d.ended now cause last).state = .failed ∧ s.cfg.autoDiscard = true
  · have none_ : d.pages = [] := by
      obtain ⟨failed, -⟩ := frees
      unfold InDoc.ended at failed
      dsimp only at failed
      split_ifs at failed with _ empty
      exact empty
    have slot : (s.recept.docs.set h.slot (d.ended now cause last)).get h.slot = d.ended now cause last := Table.get_set_self ..
    have empty : (d.ended now cause last).pages = [] := none_
    rw [if_pos frees, if_pos (by show (decide _ && s.cfg.autoDiscard) = true; rw [frees.2, decide_eq_true frees.1]; rfl)]
    unfold freeInbound
    dsimp only [State.setInDoc]
    rw [slot, empty, Table.set_set]
    rfl
  · rw [if_neg frees]
    exact if_neg fun both => frees (by simpa using both)

/-- The end of a received call, its page in reception closed: on hook, logged, the document ended. -/
theorem hangUp_in {quiet : Bool} {cause : Cause} {v : State} (closed : closeReceived quiet l s = v)
    (call : (v.line l).call = some c) (now : v.tk = s.tk) (out : c.out = none) (inbound : c.inbound = some h)
    (there : v.inDoc h = some d) (gone : d.inPage = none) (not : NotAwaited h v) :
    ∃ notices lost armed, hangUp quiet l cause s = { v.setLine l ((v.line l).released.onHook cause) with
        recept := { v.recept with
          docs := v.recept.docs.set h.slot (d.left s.now cause (v.line l).proc.goodLast v.cfg.autoDiscard) },
        store := (withdraw (.lc l) v).store,
        link := { v.link with notices, lost }, docs := { v.docs with passAsked := true },
        log := v.log.filled (releaseRecord l c cause v) armed } ∧
      (quiet = false → v.link.mask = 0 → v.link.notices.length ≤ 30 → v.link.notices ⊆ notices ∧ ∃ n ∈ notices,
        n.kind = .inboundEnd ∧ n.fields = inboundEndFields h (d.ended s.now cause (v.line l).proc.goodLast) cause) := by
  have ended_out : (c.ended cause s.now s.tk.suspect).out = none := by rw [CallRec.ended_eq]; exact out
  have ended_in : (c.ended cause s.now s.tk.suspect).inbound = some h := by rw [CallRec.ended_eq]; exact inbound
  obtain ⟨notices, lost, passAsked, desks, armed, charged, same, -⟩ :=
    chargeAndLog_frame l (c.ended cause s.now s.tk.suspect) cause s.now v
  obtain rfl := same ended_out
  rw [callFigures_ended] at charged
  have grows := chargeAndLog_grows (l := l) cause s.now v ended_out
  rw [hangUp_steps closed call now]
  rw [charged] at grows ⊢
  let w : State := { v.setLine l (v.line l).released with
    desks := v.desks, link := { v.link with notices, lost }, docs := { v.docs with passAsked },
    log := v.log.filled (releaseRecord l c cause v) armed }
  have record : (logRecordOf l v.log.sequence (c.ended cause s.now s.tk.suspect) cause s.now
      (callFigures v.charge v.cfg.tolerance (v.line l).charging c s.now)) = releaseRecord l c cause v := by
    unfold releaseRecord State.now
    rw [now]
  have w_line : w.line l = (v.line l).released := State.line_setLine_self ..
  have last : (w.line l).proc.goodLast = (v.line l).proc.goodLast := by rw [w_line]; rfl
  have ends := endInbound_ends (quiet := quiet) (last := (w.line l).proc.goodLast) (cause := cause) (now := s.now) (s := w)
    (by exact there) gone
  have report : reportEnd quiet l (c.ended cause s.now s.tk.suspect) cause s.now v.log.sequence w =
      endInbound quiet h cause s.now (w.line l).proc.goodLast w := by
    unfold reportEnd endAndTell
    rw [ended_out]
    dsimp only
    rw [ended_in]
    dsimp only
    rw [ends]
    exact tellEngine_notAwaited (by exact not)
  rw [last] at ends report
  rw [record]
  obtain ⟨notices₁, lost₁, raised⟩ := raiseUnless_frame quiet .inboundEnd (inboundEndFields h (d.ended s.now cause
    (v.line l).proc.goodLast) cause) w
  have told := ends
  rw [(congrArg State.link raised :)] at ends
  generalize u_eq : endInbound quiet h cause s.now (v.line l).proc.goodLast w = u at ends report told
  obtain ⟨notices', lost', hooks⟩ := onHook_frame l cause u
  have u_line : u.line l = (v.line l).released := (congrArg (fun t : State => t.line l) ends).trans w_line
  refine ⟨notices', lost', armed, ?_, fun loud mask room => ?_⟩
  · show onHook l cause (reportEnd quiet l _ cause s.now v.log.sequence w) = _
    rw [report, hooks, u_line, ends]
    exact (congrArg (fun t : State => ({ v with
      lines := t.lines
      recept := { v.recept with
        docs := v.recept.docs.set h.slot (d.left s.now cause (v.line l).proc.goodLast v.cfg.autoDiscard) }
      store := (withdraw (.lc l) v).store
      link := { v.link with notices := notices', lost := lost' }
      docs := { v.docs with passAsked := true }
      log := v.log.filled (releaseRecord l c cause v) armed } : State))
      (State.setLine_setLine v l (v.line l).released ((v.line l).released.onHook cause)) :)
  · have hooked : NoticesGrow 1 u (onHook l cause u) := changeState_grows l .rest (some cause) u
    rw [hooks] at hooked
    obtain ⟨kept, few, same⟩ := grows
    obtain ⟨kept', -, -⟩ := hooked
    have link : u.link = (raise .inboundEnd (inboundEndFields h (d.ended s.now cause (v.line l).proc.goodLast) cause) w).link := by
      rw [told, loud]
      rfl
    have room' : w.link.notices.length < 32 := by
      have few : w.link.notices.length ≤ v.link.notices.length + 1 := few
      omega
    obtain ⟨n, mem, kind, fields⟩ := raise_joins .inboundEnd
      (inboundEndFields h (d.ended s.now cause (v.line l).proc.goodLast) cause) (s := w) mask room'
    rw [← link] at mem
    refine ⟨fun x old => kept' ?_, n, kept' mem, kind, fields⟩
    rw [link]
    exact raise_keeps _ _ w (kept old)

end

end Sys2Proof.Machine
end

section
/-! PROOFS. The release of a call by the line procedure, logged and charged (R97, R112 to R117, R125). -/

namespace Sys2Proof.Machine

section
variable {l : LineNo} {h : InHandle} {i : Instr} {c : CallRec} {cause : Cause} {d : InDoc} {s : State}

/-- How the line procedure ends a call of a line in state `x`: the QUIT sent or received, 2 s without carrier, or the
wait for a QUIT run out. -/
def Line.endsBy (x : Line) (l : LineNo) (c : CallRec) (cause : Cause) (i : Instr) : Prop :=
  i = .quitSent l ∧ x.proc.tx = .sending (.msg .quit) ∧ c.cause = some cause ∨
    i = .quitReceived l ∧ x.listening = true ∧ ¬(x.role = some .sender ∧ x.proc.lastOut = none) ∧
      (x.proc.awaitQuit = some cause ∨
        x.proc.awaitQuit = none ∧ cause = if x.role = some .sender then .remoteRefused .quit else .remoteQuit) ∨
    i = .carrierLossExpiry l ∧ x.listening = true ∧ x.params.detector = .counting ∧ cause = .lineDrop ∨
    i = .answerWaitExpiry l ∧ x.listening = true ∧ x.proc.timer = true ∧ x.proc.incoming = false ∧
      x.proc.awaitQuit = some cause

/-- The part as a line is about to go on hook: in RELEASING after a loss of carrier, and else unchanged. -/
def State.hanging (s : State) (l : LineNo) (state : CallState) (notices : List Notice) (lost : Nat) : State :=
  { s.setLine l { s.line l with state } with link := { s.link with notices, lost } }

theorem hanging_line {state : CallState} {notices : List Notice} {lost : Nat} :
    (s.hanging l state notices lost).line l = { s.line l with state } := State.line_setLine_self ..

theorem hanging_others (s : State) (l : LineNo) (state : CallState) (notices : List Notice) (lost : Nat) :
    OtherLines l s (s.hanging l state notices lost) := fun _ other => s.line_setLine_ne _ other

/-- Every such end puts the line on hook. -/
theorem exec_releases (on : s.power = true) (call : (s.line l).call = some c) (which : (s.line l).endsBy l c cause i) :
    ∃ state notices lost, exec i s = .next (scanRetry (hangUp false l cause (s.hanging l state notices lost))) ∧
      NoticesGrow 1 s (s.hanging l state notices lost) := by
  have still : s.hanging l (s.line l).state s.link.notices s.link.lost = s :=
    (congrArg (fun t : State => ({ t with link := s.link } : State)) (s.setLine_line l) :)
  have plain (act : State → State) (row : exec i s = .next (whenOn (fun s => scanRetry (act s)) s))
      (hangs : act s = hangUp false l cause s) : ∃ state notices lost,
        exec i s = .next (scanRetry (hangUp false l cause (s.hanging l state notices lost))) ∧
        NoticesGrow 1 s (s.hanging l state notices lost) := by
    refine ⟨(s.line l).state, s.link.notices, s.link.lost, ?_, ?_⟩
    · rw [still, exec_event on row, hangs]
    · rw [still]
      exact ⟨fun _ mem => mem, Nat.le_succ _, rfl⟩
  obtain ⟨rfl, sending, caused⟩ | ⟨rfl, hears, sent, waits⟩ | ⟨rfl, hears, counting, rfl⟩ | ⟨rfl, hears, runs, quiet, waits⟩ := which
  · refine plain (quitSent l) rfl ?_
    unfold quitSent
    rw [sending, call]
    dsimp only
    rw [caused]
    rfl
  · refine plain (quitReceived l) rfl ?_
    unfold quitReceived
    dsimp only
    rw [hears]
    refine (if_neg nofun).trans ((if_neg sent).trans ?_)
    obtain awaited | ⟨none_, rfl⟩ := waits
    · rw [awaited]
    · rw [none_]
  · have row : exec (.carrierLossExpiry l) s = .next (whenOn (fun s => scanRetry (carrierLossExpiry l s)) s) := rfl
    obtain ⟨notices, lost, changed⟩ := changeState_frame l .releasing none s
    have lost_ : carrierLossExpiry l s = hangUp false l .lineDrop (changeState l .releasing none s) :=
      if_pos (by rw [hears, counting]; rfl)
    have grows := changeState_grows l .releasing none s
    rw [changed] at grows lost_
    exact ⟨.releasing, notices, lost, by rw [exec_event on row, lost_]; rfl, grows⟩
  · exact plain (answerWaitExpiry l) rfl (answerWaitExpiry_quits hears runs quiet waits)

/-- A record depends on nothing that changes as a line is about to go on hook. -/
theorem releaseRecord_congr {t : State} (log : t.log.sequence = s.log.sequence) (tk : t.tk = s.tk) (charge : t.charge = s.charge)
    (cfg : t.cfg = s.cfg) (line : (t.line l).charging = (s.line l).charging) :
    releaseRecord l c cause t = releaseRecord l c cause s := by
  unfold releaseRecord State.now
  rw [log, tk, charge, cfg, line]

/-- An OUT call ended by the line procedure. -/
theorem release_out {o : OutCall} {k : Doc} {r : Nat} {y : Dest} (on : s.power = true) (quiet : s.scan.state ≠ .held)
    (call : (s.line l).call = some c) (out : c.out = some o) (outbound : c.inbound = none) (there : s.doc o.doc = some k)
    (listed : k.dests[o.index]? = some r) (record : s.dest r = some y) (which : (s.line l).endsBy l c cause i) :
    ∃ t, exec i s = .next t ∧ Released l c cause (releaseRecord l c cause s) s t ∧
      (∀ n, t.desks.get n = if n = o.desk then
        (s.desk n).charged (releaseRecord l c cause s).units (releaseRecord l c cause s).cost else s.desk n) ∧
      t.dest r = some (y.reported k cause s.now (some s.log.sequence) s.now) := by
  obtain ⟨state, notices, lost, row, -⟩ := exec_releases on call which
  have line := hanging_line (s := s) (l := l) (state := state) (notices := notices) (lost := lost)
  obtain ⟨store, link, docs, desks, armed, ends, pool, asked, totals⟩ := hangUp_out_effect (quiet := false) (cause := cause)
    (s := s.hanging l state notices lost) ((congrArg Line.call line).trans call) out outbound there listed record
  have charging : ((s.hanging l state notices lost).line l).charging = (s.line l).charging := (congrArg Line.charging line :)
  rw [releaseRecord_congr (s := s) (t := s.hanging l state notices lost) rfl rfl rfl rfl charging] at ends
  rw [charging] at totals
  rw [ends, scanRetry_eq (by exact quiet)] at row
  refine ⟨_, row, released_of ?_ ?_ rfl asked, totals, ?_⟩
  · exact (State.line_setLine_self ..).trans (by rw [line]; rfl)
  · exact (hanging_others s l state notices lost).trans (setLine_others l _ _)
  · show docs.pool.get r = _
    rw [pool]
    exact Table.get_set_self ..

theorem inDoc_of {t : State} (slot : h.slot < 32) (live : (t.recept.docs.get h.slot).state ≠ .free)
    (issue : (t.recept.docs.get h.slot).issue = h.issue) : t.inDoc h = some (t.recept.docs.get h.slot) := by
  unfold State.inDoc
  exact if_pos ⟨slot, live, issue⟩

/-- A received call without a page in reception, ended by the line procedure. -/
theorem release_in (on : s.power = true) (quiet : s.scan.state ≠ .held) (call : (s.line l).call = some c) (out : c.out = none)
    (inbound : c.inbound = some h) (there : s.inDoc h = some d) (none_ : d.inPage = none) (not : NotAwaited h s)
    (which : (s.line l).endsBy l c cause i) :
    ∃ t, exec i s = .next t ∧ Released l c cause (releaseRecord l c cause s) s t ∧ t.desks = s.desks ∧
      t.recept.docs.get h.slot = d.left s.now cause (s.line l).proc.goodLast s.cfg.autoDiscard ∧
      (s.link.mask = 0 → s.link.notices.length ≤ 28 → ∃ n ∈ t.link.notices, n.kind = .inboundEnd ∧
        n.fields = inboundEndFields h (d.ended s.now cause (s.line l).proc.goodLast) cause) := by
  obtain ⟨state, notices, lost, row, grows⟩ := exec_releases on call which
  obtain ⟨-, few, mask⟩ := grows
  have line := hanging_line (s := s) (l := l) (state := state) (notices := notices) (lost := lost)
  have call' := (congrArg Line.call line).trans call
  obtain ⟨notices', lost', armed, ends, told⟩ := hangUp_in (quiet := false) (cause := cause) (c := c) (h := h) (d := d)
    (closeReceived_none ((pageInReception_some call' inbound there).trans none_)) call' rfl out inbound there none_ not
  have charging : ((s.hanging l state notices lost).line l).charging = (s.line l).charging := (congrArg Line.charging line :)
  have last : ((s.hanging l state notices lost).line l).proc.goodLast = (s.line l).proc.goodLast :=
    (congrArg (fun x : Line => x.proc.goodLast) line :)
  rw [releaseRecord_congr (s := s) (t := s.hanging l state notices lost) rfl rfl rfl rfl charging, last] at ends
  rw [last] at told
  rw [ends, scanRetry_eq (by exact quiet)] at row
  refine ⟨_, row, released_of ?_ ?_ rfl rfl, rfl, Table.get_set_self .., fun open_ room => (told rfl (mask.trans open_) (by omega)).2⟩
  · exact (State.line_setLine_self ..).trans (by rw [line]; rfl)
  · exact (hanging_others s l state notices lost).trans (setLine_others l _ _)

/-- A call's record with a page more. -/
theorem Released.of_pages {r : LogRecord} {t : State} {n : Nat} (released : Released l { c with pages := n } cause r s t) :
    Released l c cause r s t := released

/-- A received call with a page in reception, ended by the line procedure: the page is closed TRUNCATED and listed. -/
theorem release_cut {p : PageHandle} {e : PageEntry} (on : s.power = true) (quiet : s.scan.state ≠ .held)
    (call : (s.line l).call = some c) (out : c.out = none) (inbound : c.inbound = some h) (there : s.inDoc h = some d)
    (reception : d.inPage = some p) (page : s.page p = some e) (small : s.recept.entryCounter < 65536) (not : NotAwaited h s)
    (which : (s.line l).endsBy l c cause i) :
    ∃ t rec m, PageListed h d p (decide (e.refs < 4095)) s.cfg.autoPrint s.recept m ∧ exec i s = .next t ∧
      Released l c cause rec s t ∧ rec.pages = min 255 (c.pages + 1) ∧ t.desks = s.desks ∧
      t.recept = { m with
        docs := m.docs.set h.slot ((m.docs.get h.slot).left s.now cause (s.line l).proc.goodLast s.cfg.autoDiscard) } ∧
      t.store.dir = s.store.dir.set p.slot e.cutShort ∧ t.store.pool = s.store.pool ∧
      (s.link.mask = 0 → s.link.notices.length ≤ 27 →
        (∃ n ∈ t.link.notices, n.kind = .pageClosed ∧ n.fields = pageClosedFields p e.cutShort) ∧
        ∃ n ∈ t.link.notices, n.kind = .inboundEnd ∧
          n.fields = inboundEndFields h ((m.docs.get h.slot).ended s.now cause (s.line l).proc.goodLast) cause) := by
  obtain ⟨state, notices, lost, row, -, few, mask⟩ := exec_releases on call which
  have line := hanging_line (s := s) (l := l) (state := state) (notices := notices) (lost := lost)
  let u := s.hanging l state notices lost
  have call' : (u.line l).call = some c := (congrArg Line.call line).trans call
  obtain ⟨m, notices₁, lost₁, closed, listed⟩ := closeReceived_closes (s := u) false call' inbound (by exact there) reception
    (by exact page) small not
  have told₁ := closeReceived_link (s := u) call' inbound (by exact there) reception (by exact page) small not
  let v : State := { u.pageCut l p e notices₁ lost₁ with recept := m }
  have v_line : v.line l = ({ s.line l with state } : Line).countsPage :=
    (State.line_setLine_self ..).trans (congrArg Line.countsPage line)
  have called : (v.line l).call = some { c with pages := min 255 (c.pages + 1) } :=
    (congrArg Line.call v_line).trans (congrArg (Option.map _) call)
  obtain ⟨pages, firstClose, printState, doc⟩ := listed.doc
  obtain ⟨slot, live, issue, -⟩ := State.inDoc_some there
  have found : v.inDoc h = some (m.docs.get h.slot) := inDoc_of slot
    (by show (m.docs.get h.slot).state ≠ _; rw [doc]; exact live) (by show (m.docs.get h.slot).issue = _; rw [doc]; exact issue)
  obtain ⟨notices', lost', armed, ends, told⟩ := hangUp_in (quiet := false) (cause := cause) (v := v) closed called rfl out
    inbound found (by rw [doc]) (not.listed rfl listed)
  have charging : (v.line l).charging = (s.line l).charging := (congrArg Line.charging v_line :)
  have last : (v.line l).proc.goodLast = (s.line l).proc.goodLast := (congrArg (fun x : Line => x.proc.goodLast) v_line :)
  rw [releaseRecord_congr (s := s) (t := v) rfl rfl rfl rfl charging, last] at ends
  rw [last] at told
  rw [ends, scanRetry_eq (by exact quiet)] at row
  refine ⟨_, releaseRecord l { c with pages := min 255 (c.pages + 1) } cause s, m, listed, row,
    Released.of_pages (released_of ?_ ?_ rfl rfl), releaseRecord_pages .., rfl, rfl, rfl, rfl, fun open_ room => ?_⟩
  · exact (State.line_setLine_self ..).trans (by rw [v_line]; rfl)
  · refine (hanging_others s l state notices lost).trans (OtherLines.trans ?_ (setLine_others l _ v))
    exact setLine_others l _ (withdraw (.lc l) u)
  · have u_mask : u.link.mask = 0 := mask.trans open_
    have u_few : u.link.notices.length ≤ 28 := by
      have few : u.link.notices.length ≤ s.link.notices.length + 1 := few
      omega
    have link : v.link = (raise .pageClosed (pageClosedFields p e.cutShort) u).link := by
      rw [← told₁, closed]
    obtain ⟨n, mem, kind, fields⟩ := raise_joins .pageClosed (pageClosedFields p e.cutShort) u_mask (by omega)
    obtain ⟨-, few₁, -⟩ := raise_grows .pageClosed (pageClosedFields p e.cutShort) u
    rw [← link] at mem few₁
    obtain ⟨kept, ended⟩ := told rfl u_mask (by omega)
    exact ⟨⟨n, kept mem, kind, fields⟩, ended⟩

end

end Sys2Proof.Machine
end

section
/-! PROOFS. Pages confirmed and calls released (R97, R111 to R117, R125). -/

namespace Sys2Proof.Machine

section
variable {l : LineNo} {s : State}

/-- The answer timer's rows, for a line that has sent a message or none (R97, R99). -/
theorem exec_answerWait {t : State} (on : s.power = true) (does : answerWaitExpiry l s = t) (still : t.scan.state ≠ .held) :
    exec (.answerWaitExpiry l) s = .next t :=
  (exec_event (act := fun s => scanRetry (answerWaitExpiry l s)) on rfl).trans
    (congrArg _ ((congrArg scanRetry does).trans (scanRetry_eq still)))

theorem entering_scan {x : Line} : (s.entering l x).scan = s.scan := by
  obtain ⟨_, _, entered⟩ := entering_frame l x s
  rw [entered]
  rfl

theorem Line.awaitsBurst_iff {x : Line} : x.awaitsBurst = true ↔ x.role = some .receiver ∧
    (x.state = .training ∨ x.state = .receiving ∧ ∃ r, x.proc.lastIn = some (.burst r)) := by
  unfold Line.awaitsBurst
  cases x.proc.lastIn with
  | none => simp
  | some last => cases last <;> simp

theorem storeAnswered_iff {m : Msg} : m.storeAnswered = true ↔
    ((∃ a b c d e, m = .blockEnd a b c d e) ∨ ∃ a b c, m = .pageEnd a b c) := by
  cases m <;> simp [Msg.storeAnswered]

/-- A desk with a call added counts it, its units and its cost, each to its limit. -/
theorem Desk.charged_totals (d : Desk) (units cost : Nat) : (d.charged units cost).cost = min 4294967295 (d.cost + cost) ∧
    (d.charged units cost).units = min 4294967295 (d.units + units) ∧
    (d.charged units cost).calls = min 65535 (d.calls + 1) := ⟨rfl, rfl, rfl⟩

/-- Settles O47. -/
theorem pagesConfirmedAndCallsReleased : Obligations.PagesConfirmedAndCallsReleased := by
  intro l s on quiet x
  have deaf (hears : x.listening = true) : ¬(!(s.line l).listening) = true := by
    rw [show (s.line l).listening = true from hears]; nofun
  have set_scan (y : Line) : (s.setLine l y).scan.state ≠ .held := quiet
  have entering_quiet (y : Line) : (s.entering l y).scan.state ≠ .held := by rw [entering_scan]; exact quiet
  refine ⟨?_, ?_, ?_, ?_, ?_, ?_, ?_, ?_, ?_⟩
  · intro c o d r y hears state role call out there listed record
    obtain ⟨z, c', eq, called, pages, last, next⟩ := pageGoodReceived_confirms hears state role call out there listed record
    have row : exec (.pageGoodReceived l) s = .next _ := (exec_event (act := pageGoodReceived l) on rfl).trans (congrArg _ eq)
    refine ⟨_, row, ?_, ⟨c', ?_, pages, ?_, ?_⟩, ?_, ?_⟩
    · show (State.docs _).pool.get r = _
      rw [entering_docs]
      exact Table.get_set_self ..
    · rw [entering_line]
      exact called
    · rw [entering_line]
      exact last
    · rw [entering_line]
      exact next
    · exact fun k other => entering_others l z (s.setDest r _) k other
    · refine OnlyChanges.trans (t := s.setDest r _) ?_ ((entering_only l z _).mono (by decide))
      intro p other
      cases p <;> first | rfl | exact absurd (by decide) other
  · intro hears awaits role
    exact (exec_event (act := pageFailedReceived l) on rfl).trans (congrArg _ (pageFailedReceived_waits hears role awaits))
  · intro out hears runs still none_ last
    have expires := answerWaitExpiry_repeats (s := s) (l := l) hears runs still none_ last
    refine ⟨fun few => ?_, fun three other => ?_⟩
    · refine exec_answerWait on (expires.trans ((if_neg (Nat.not_le.2 few)).trans ?_)) (set_scan _)
      rw [beginSending_eq, State.modParams, State.modLine_eq, State.line_setLine_self, State.setLine_setLine]
    · exact exec_answerWait on (expires.trans ((if_pos (Nat.le_of_eq three.symm)).trans (releaseNow_eq other))) (entering_quiet _)
  · intro hears runs still none_ last role y
    have expires := answerWaitExpiry_counts (s := s) (l := l) hears runs still none_ last role
    have counted : s.modProc l (fun p => { p with waits := p.waits + 1 }) = s.setLine l y := State.modLine_eq ..
    have y_line : (s.setLine l y).line l = y := State.line_setLine_self ..
    rw [counted] at expires
    refine ⟨fun few => ?_, fun three other => ?_⟩
    · exact exec_answerWait on (expires.trans (if_pos (Nat.succ_lt_succ few))) (set_scan _)
    · refine exec_answerWait on (expires.trans ((if_neg (by rw [show (s.line l).proc.waits = 3 from three]; decide)).trans ?_))
        (entering_quiet _)
      rw [releaseNow_eq (by rw [y_line]; exact other), y_line]
      unfold State.entering
      rw [y_line, State.setLine_setLine]
      rfl
  · intro hears
    exact (exec_event (act := invalidTransmission l) on rfl).trans (congrArg _ ((if_pos hears).trans (unheard_eq l s)))
  · intro m
    refine ⟨fun deaf => received_acts on (acts_deaf m deaf) quiet, fun hears not => ?_⟩
    intro waits
    refine ⟨?_, ?_⟩
    · intro out other free heard_ answered
      refine received_acts on ((acts_unawaited hears not other fun kind => ?_).trans
        (repeatOrDiscard_repeat heard_ answered)) (set_scan _)
      exact eq_false_of_ne_true fun storing => free ⟨storing, storeAnswered_iff.1 kind⟩
    · intro fresh
      refine received_acts on ?_ (set_scan _)
      by_cases storing : waits
      · exact acts_storing hears storing.1 (storeAnswered_iff.2 storing.2)
      · by_cases ends : m = .quit
        · subst ends
          exact acts_quit hears (not.resolve_left nofun)
        · refine (acts_unawaited hears not ends fun kind => ?_).trans (repeatOrDiscard_discard ?_)
          · exact eq_false_of_ne_true fun busy => storing ⟨busy, storeAnswered_iff.1 kind⟩
          · exact fresh.imp_right fun rest => rest.resolve_right storing
  · intro rate good hears not
    refine (exec_event (act := burstReceived l rate good) on rfl).trans (congrArg _ ?_)
    have unawaited : ¬(s.line l).awaitsBurst = true := fun awaits => by
      obtain ⟨role, training | ⟨receiving, r, last⟩⟩ := Line.awaitsBurst_iff.1 awaits
      · exact (not role).1 training
      · exact (not role).2 receiving r last
    exact (if_neg (deaf hears)).trans ((if_neg unawaited).trans (unheard_eq l s))
  · intro i cause c o d r y call out outbound there listed record unlimited which
    have ends : x.endsBy l c cause i := by
      obtain now | ⟨row, hears, role, sent, none_, rfl⟩ | now | now := which
      · exact .inl now
      · refine .inr (.inl ⟨row, hears, fun both => ?_, .inr ⟨none_, (if_pos role).symm⟩⟩)
        rw [both.2] at sent
        exact nomatch sent
      · exact .inr (.inr (.inl now))
      · exact .inr (.inr (.inr now))
    obtain ⟨t, row, released, totals, dest⟩ := release_out on quiet call out outbound there listed record ends
    obtain ⟨cost, units, calls⟩ := (s.desk o.desk).charged_totals (releaseRecord l c cause s).units (releaseRecord l c cause s).cost
    have desk := (totals o.desk).trans (if_pos rfl)
    refine ⟨t, _, _, row, released, releaseRecord_pages .., ?_, ?_, ?_, fun k other => (totals k).trans (if_neg other), dest, rfl,
      rfl, rfl, fun confirmed => ?_⟩
    · rw [desk]
      exact cost
    · rw [desk]
      exact units
    · rw [desk]
      exact calls
    · exact (outcomeState_eq ..).trans (if_pos confirmed)
  · intro i cause c h d call out inbound there not small which
    have ends : x.endsBy l c cause i := by
      obtain ⟨row, hears, role, waits⟩ | now | now | now := which
      · refine .inr (.inl ⟨row, hears, fun both => ?_, ?_⟩)
        · exact nomatch role.symm.trans both.1
        · obtain ⟨none_, rfl⟩ | awaited := waits
          · exact .inr ⟨none_, (if_neg (by
              rw [show (s.line l).role = some .receiver from role]; nofun)).symm⟩
          · exact .inl awaited
      · exact .inl now
      · exact .inr (.inr (.inl now))
      · exact .inr (.inr (.inr now))
    refine ⟨fun p e reception page opened => ?_, ?_⟩
    · obtain ⟨t, rec, m, listed, row, released, pages, desks, recept, dir, pool, told⟩ :=
        release_cut on quiet call out inbound there reception page small not ends
      obtain ⟨pages', firstClose, printState, doc⟩ := listed.doc
      have entry : t.entry p.slot = e.cutShort := by
        unfold State.entry
        rw [dir]
        exact Table.get_set_self ..
      have issue : (m.docs.get h.slot).issue = d.issue := by rw [doc]
      have fields (ended : InDoc) (same : ended = (m.docs.get h.slot).ended s.now cause x.proc.goodLast) :
          inboundEndFields h ended cause = eIn h ++ e8 d.line ++ [ended.state.code] ++ eCause cause ++ e8 ended.pages.length ++
            eOpt eChars d.sender ++ eBool d.urgent := by
        have line : ended.line = d.line := by rw [same, doc]; rfl
        have sender : ended.sender = d.sender := by rw [same, doc]; rfl
        have urgent : ended.urgent = d.urgent := by rw [same, doc]; rfl
        unfold inboundEndFields
        rw [line, sender, urgent]
      refine ⟨t, rec, m, listed, row, released, pages, desks, ?_, entry, fun k other => ?_, pool, fun open_ room => ?_⟩
      · have left : (m.docs.get h.slot).left s.now cause x.proc.goodLast s.cfg.autoDiscard =
            if ((m.docs.get h.slot).ended s.now cause x.proc.goodLast).state = .failed ∧ s.cfg.autoDiscard = true then
              .freeWith ((d.issue + 1) % 256) else (m.docs.get h.slot).ended s.now cause x.proc.goodLast := by
          unfold InDoc.left
          rw [issue]
        exact recept.trans (congrArg (fun left => ({ m with docs := m.docs.set h.slot left } : Reception)) left)
      · show t.store.dir.get k = _
        rw [dir]
        exact Table.get_set_ne _ _ other
      · rw [entry]
        obtain ⟨closed, n, mem, kind, is⟩ := told open_ room
        exact ⟨closed, n, mem, kind, is.trans (fields _ rfl)⟩
    · intro ended none_
      obtain ⟨t, row, released, desks, doc, told⟩ := release_in on quiet call out inbound there none_ not ends
      exact ⟨t, _, row, released, releaseRecord_pages .., desks, doc, told⟩

end

end Sys2Proof.Machine
end

section
/-! PROOFS. A document cancelled or deleted (R47, R48, R65, R66, R68, R69). -/

namespace Sys2Proof.Machine

/-! ### Records and tallies -/

theorem freeRecordList_get (rs : List Nat) (pool : Table (Option Dest)) (r : Nat) :
    (freeRecordList rs pool).get r = if r ∈ rs then none else pool.get r := by
  induction rs generalizing pool with
  | nil => rfl
  | cons q qs ih =>
    show (freeRecordList qs (pool.set q none)).get r = _
    rw [ih]
    by_cases rest : r ∈ qs
    · rw [if_pos rest, if_pos (List.mem_cons_of_mem q rest)]
    · rw [if_neg rest]
      by_cases here : r = q
      · rw [here, Table.get_set_self, if_pos (List.mem_cons_self ..)]
      · rw [Table.get_set_ne _ _ here, if_neg (by simp [here, rest])]

section
variable {h : DocHandle} {d : Doc} {s : State}

/-- The part with the waiting destinations of document `d` in slot `k` CANCELLED and counted (R65). -/
def State.cancelling (s : State) (k : Nat) (d : Doc) : State := { s with docs := { s.docs with
  pool := (moveWaiting .cancelled d.dests s.docs.pool).1,
  docs := s.docs.docs.set k { d with cancelled := d.cancelled + (d.dests.filter (waitsIn s.docs.pool)).length } } }

theorem moveAllWaiting_cancels {k : Nat} (here : s.docs.docs.get k = d) (once : d.dests.Nodup) :
    moveAllWaiting .cancelled k s = (s.cancelling k d, (d.dests.filter (waitsIn s.docs.pool)).length) := by
  unfold moveAllWaiting State.cancelling
  rw [here]
  dsimp only
  rw [moveWaiting_count _ once]
  rfl

theorem cancelling_doc (k : Nat) : (s.cancelling k d).docs.docs.get k =
    { d with cancelled := d.cancelled + (d.dests.filter (waitsIn s.docs.pool)).length } := Table.get_set_self ..

theorem cancelling_dest (k r : Nat) : (s.cancelling k d).dest r =
    if r ∈ d.dests then (s.dest r).map (Dest.leaves .cancelled) else s.dest r := moveWaiting_get rfl ..

/-- A destination that is ON_LINE stays so. -/
theorem cancelling_onLine (k r : Nat) {x : Dest} (record : s.dest r = some x) (online : x.state = .onLine) :
    (s.cancelling k d).dest r = some x := by
  have stays : x.leaves .cancelled = x := if_neg (by rw [online]; nofun)
  rw [cancelling_dest, record, Option.map_some, stays, ite_self]

theorem countDests_eq_zero {p : DestState → Bool} :
    s.countDests d p = 0 ↔ ∀ r ∈ d.dests, ∀ x, s.dest r = some x → p x.state = false := by
  unfold State.countDests
  rw [List.length_eq_zero_iff, List.filter_eq_nil_iff]
  refine forall₂_congr fun r _ => ?_
  cases s.dest r with
  | none => simp
  | some x => simp

/-- After the waiting destinations, a destination that is not final is one that was ON_LINE. -/
theorem cancelling_open {k r : Nat} (mem : r ∈ d.dests) {x : Dest} (record : (s.cancelling k d).dest r = some x) :
    (!x.state.isFinal) = decide (x.state = .onLine) := by
  rw [cancelling_dest, if_pos mem] at record
  obtain ⟨y, -, rfl⟩ := Option.map_eq_some_iff.1 record
  unfold Dest.leaves
  cases state : y.state <;> simp [state, DestState.isWaiting, DestState.isFinal]

/-! ### A document's end (R48) -/

/-- Without RELEASE_PAGES a document's end is its new state and DOC_DONE. -/
theorem endDoc_plain {k : Nat} {st : DocState} (here : s.docs.docs.get k = d) (keeps : d.releasePages = false) :
    ∃ notices lost, endDoc false k st s =
      { s.setDoc k { d with state := st } with link := { s.link with notices, lost } } := by
  have held : releaseDocPages k (s.setDoc k { d with state := st }) = s.setDoc k { d with state := st } := by
    unfold releaseDocPages
    rw [State.setDoc_docs, Table.get_set_self, keeps]
    rfl
  unfold endDoc
  rw [here]
  dsimp only
  rw [held]
  exact raiseUnless_frame ..

/-- With RELEASE_PAGES it lets its references go, in list order. -/
theorem endDoc_releases {k : Nat} {st : DocState} (here : s.docs.docs.get k = d) (lets : d.releasePages = true)
    (held : d.pagesHeld = true) :
    ∃ fields, endDoc false k st s =
      raise .docDone fields (lowerRefs d.pages (s.setDoc k { d with state := st, pagesHeld := false })) := by
  have releases : releaseDocPages k (s.setDoc k { d with state := st }) =
      lowerRefs d.pages (s.setDoc k { d with state := st, pagesHeld := false }) := by
    unfold releaseDocPages
    rw [State.setDoc_docs, Table.get_set_self]
    refine (if_pos (by rw [lets, held]; rfl)).trans ?_
    unfold State.setDoc
    dsimp only
    rw [Table.set_set]
  refine ⟨docDoneFields k ((lowerRefs d.pages (s.setDoc k { d with state := st, pagesHeld := false })).docs.docs.get k), ?_⟩
  unfold endDoc
  rw [here]
  dsimp only
  rw [releases]
  rfl

/-! ### DOC-CANCEL (R65, R66) -/

/-- DOC-CANCEL of a document with no destination ON_LINE ends it. -/
theorem docCancel_ends {a b : Byte} (there : s.doc (docOf a b) = some d) (once : d.dests.Nodup)
    (state : d.state = .draft ∨ d.state = .queued ∨ d.state = .active)
    (offline : ∀ r ∈ d.dests, ∃ x, s.dest r = some x ∧ x.state ≠ .onLine)
    {t : State} (ends : endDoc false (docOf a b).slot .cancelled (s.cancelling (docOf a b).slot d) = t)
    (done_ : (t.docs.docs.get (docOf a b).slot).state = .cancelled) (quiet : t.scan.state ≠ .held) :
    docCancel [a, b] s = .ok (t, [5] ++ e8 (d.dests.filter (waitsIn s.docs.pool)).length) := by
  obtain ⟨-, here, -⟩ := State.doc_some there
  have moved := moveAllWaiting_cancels here once
  have offline' : ∀ r ∈ d.dests, ∀ x, (s.cancelling (docOf a b).slot d).dest r = some x → x.state ≠ .onLine := by
    intro r mem x record
    obtain ⟨y, was, not⟩ := offline r mem
    rw [cancelling_dest, if_pos mem, was] at record
    obtain rfl := Option.some.inj record
    show (if y.state.isWaiting then { y with state := .cancelled } else y).state ≠ .onLine
    split
    · nofun
    · exact not
  have lives : ¬(d.state = .done ∨ d.state = .cancelled) := by
    obtain h | h | h := state <;> rw [h] <;> nofun
  have cancels : (if d.state = .draft then cancelDraft (docOf a b).slot s else cancelRunning (docOf a b) s) =
      (t, (d.dests.filter (waitsIn s.docs.pool)).length) := by
    by_cases draft : d.state = .draft
    · rw [if_pos draft]
      unfold cancelDraft
      rw [moved]
      exact congrArg (·, _) ends
    · have running : d.state = .queued ∨ d.state = .active := state.resolve_left draft
      have none_ : (s.cancelling (docOf a b).slot d).countDests
          { d with cancelled := d.cancelled + (d.dests.filter (waitsIn s.docs.pool)).length } (fun st => st = .onLine) = 0 :=
        countDests_eq_zero.2 fun r mem x record => decide_eq_false (offline' r mem x record)
      have final : (s.cancelling (docOf a b).slot d).countDests
          { d with cancelled := d.cancelled + (d.dests.filter (waitsIn s.docs.pool)).length } (fun st => !st.isFinal) = 0 :=
        countDests_eq_zero.2 fun r mem x record =>
          (cancelling_open (s := s) (k := (docOf a b).slot) (d := d) mem record).trans (decide_eq_false (offline' r mem x record))
      rw [if_neg draft]
      unfold cancelRunning
      rw [moved]
      dsimp only
      rw [cancelling_doc, if_pos none_]
      unfold completeTest
      dsimp only
      rw [cancelling_doc, if_pos (by exact running), if_pos final]
      exact congrArg (·, _) ends
  unfold docCancel
  dsimp only
  rw [there]
  dsimp only
  rw [if_neg lives, cancels]
  dsimp only
  rw [done_, scanRetry_eq quiet]
  rfl

/-- A running document with a destination ON_LINE has its cancel asked, and the lines told of it. -/
theorem docCancel_asks {a b : Byte} (there : s.doc (docOf a b) = some d) (once : d.dests.Nodup)
    (state : d.state = .queued ∨ d.state = .active)
    (online : ∃ r ∈ d.dests, ∃ x, s.dest r = some x ∧ x.state = .onLine)
    {t : State} (told : allLines.foldl (cancelOnLine (docOf a b)) ((s.cancelling (docOf a b).slot d).setDoc (docOf a b).slot
      { d with cancelReq := true, cancelled := d.cancelled + (d.dests.filter (waitsIn s.docs.pool)).length }) = t)
    (quiet : t.scan.state ≠ .held) : docCancel [a, b] s = .ok (t, [(t.docs.docs.get (docOf a b).slot).state.code] ++
      e8 (d.dests.filter (waitsIn s.docs.pool)).length) := by
  obtain ⟨-, here, -⟩ := State.doc_some there
  have lives : ¬(d.state = .done ∨ d.state = .cancelled) := by
    obtain h | h := state <;> rw [h] <;> nofun
  have running : d.state ≠ .draft := by
    obtain h | h := state <;> rw [h] <;> nofun
  have some_ : ¬(s.cancelling (docOf a b).slot d).countDests
      { d with cancelled := d.cancelled + (d.dests.filter (waitsIn s.docs.pool)).length } (fun st => st = .onLine) = 0 := by
    rw [countDests_eq_zero]
    obtain ⟨r, mem, x, record, on⟩ := online
    exact fun none_ => absurd ((decide_eq_true on).symm.trans (none_ r mem x (cancelling_onLine _ r record on))) nofun
  unfold docCancel
  dsimp only
  rw [there]
  dsimp only
  rw [if_neg lives, if_neg running]
  unfold cancelRunning
  rw [moveAllWaiting_cancels here once]
  dsimp only
  rw [cancelling_doc, if_neg some_]
  dsimp only
  rw [told, scanRetry_eq quiet]

/-- A line not in a call of the document before or at its end is left alone. -/
theorem cancelOnLine_same {l : LineNo} (not : ∀ y, (s.line l).attempt = some y → y.doc = h →
    (s.line l).state ∉ [.seized, .dialling, .alerting, .releasing]) : cancelOnLine h s l = s := by
  unfold cancelOnLine
  dsimp only
  cases attempt : (s.line l).attempt with
  | none => rfl
  | some y =>
    dsimp only
    by_cases mine : y.doc = h
    · have away := not y attempt mine
      rw [if_neg (not_not_intro mine)]
      cases state : (s.line l).state <;> rw [state] at away <;> first | rfl | exact absurd (by decide) away
    · rw [if_pos mine]

theorem cancelOnLine_hangs {l : LineNo} {y : Attempt} (attempt : (s.line l).attempt = some y) (mine : y.doc = h)
    (state : (s.line l).state ∈ [.seized, .dialling, .alerting]) : cancelOnLine h s l = hangUp false l .cancelled s := by
  unfold cancelOnLine
  dsimp only
  rw [attempt]
  dsimp only
  rw [if_neg (not_not_intro mine)]
  simp only [List.mem_cons, List.mem_nil_iff, or_false] at state
  obtain h | h | h := state <;> rw [h]

/-- One element of a list acts, the others leave what it leaves alone. -/
theorem foldl_one {σ α : Type} {f : σ → α → σ} {l : α} {ks : List α} {s t : σ} (P : σ → Prop) (once : ks.Nodup) (mem : l ∈ ks)
    (before : P s) (others : ∀ k u, k ≠ l → P u → f u k = u) (acts : f s l = t) (after : P t) : ks.foldl f s = t := by
  have idle (js : List α) (without : l ∉ js) (u : σ) (fits : P u) : js.foldl f u = u := by
    induction js with
    | nil => rfl
    | cons k js ih =>
      rw [List.mem_cons, not_or] at without
      obtain ⟨first, rest⟩ := without
      rw [List.foldl_cons, others k u (Ne.symm first) fits, ih rest]
  obtain ⟨front, back, rfl⟩ := List.append_of_mem mem
  obtain ⟨-, later, apart⟩ := List.nodup_append.1 once
  rw [List.nodup_cons] at later
  rw [List.foldl_append, idle front (fun mem => apart l mem l (List.mem_cons_self ..) rfl) s before, List.foldl_cons, acts,
    idle back later.1 t after]

end

end Sys2Proof.Machine
end

section
/-! PROOFS. A call before connect that a cancel ends; DOC-CANCEL and DOC-DELETE (R65, R66, R68, R69). -/

namespace Sys2Proof.Machine

section
variable {h : DocHandle} {d : Doc} {s : State}

/-- A destination whose attempt a cancel has ended. -/
def Dest.cancelledBy (x : Dest) (cause : Cause) (logged : Nat) : Dest :=
  { x with state := .cancelled, attempts := x.attempts + 1, lastCause := some cause, lastLog := some logged }

/-- The outcome of an attempt of a cancelled document, not all of its pages confirmed. -/
theorem outcomeReport_cancels {index r logged : Nat} {cause : Cause} {release : DateTime} {x : Dest}
    (there : s.doc h = some d) (listed : d.dests[index]? = some r) (record : s.dest r = some x) (asked : d.cancelReq = true)
    (more : x.confirmed ≠ d.pages.length) (keeps : d.releasePages = false) (running : d.state = .queued ∨ d.state = .active) :
    ∃ st notices lost, outcomeReport false h index cause release (some logged) s = { s with
        link := { s.link with notices, lost },
        docs := { s.docs with
          pool := s.docs.pool.set r (some (x.cancelledBy cause logged)),
          docs := s.docs.docs.set h.slot { d with state := st, cancelled := d.cancelled + 1 },
          passAsked := true } } ∧
      ((s.setDest r (some (x.cancelledBy cause logged))).countDests d (fun st => !st.isFinal) = 0 → st = .cancelled) ∧
      ((s.setDest r (some (x.cancelledBy cause logged))).countDests d (fun st => !st.isFinal) ≠ 0 → st = d.state) := by
  have outcome : outcomeState d { x with attempts := x.attempts + 1, lastCause := some cause, lastLog := some logged } cause s.now =
      .cancelled := by
    rw [outcomeState_eq, if_neg (by exact more), if_pos asked]
  let v := (s.setDest r (some (x.cancelledBy cause logged))).setDoc h.slot { d with cancelled := d.cancelled + 1 }
  have report : outcomeReport false h index cause release (some logged) s = askPass (completeTest false true h.slot
      (raise .destDone (destDoneFields h index (x.cancelledBy cause logged) cause) v)) := by
    unfold outcomeReport
    rw [there]
    dsimp only
    rw [listed]
    dsimp only
    rw [record]
    dsimp only
    rw [outcome, asked]
    rfl
  obtain ⟨notices, lost, raised⟩ := raise_frame .destDone (destDoneFields h index (x.cancelledBy cause logged) cause) v
  rw [report, raised]
  let w : State := { v with link := { v.link with notices, lost } }
  have doc : w.docs.docs.get h.slot = { d with cancelled := d.cancelled + 1 } := Table.get_set_self ..
  have tests : completeTest false true h.slot w =
      if (s.setDest r (some (x.cancelledBy cause logged))).countDests d (fun st => !st.isFinal) = 0 then
        endDoc false h.slot .cancelled w else w := by
    unfold completeTest
    dsimp only
    rw [doc, if_pos (by exact running)]
    rfl
  show ∃ st notices lost, askPass (completeTest false true h.slot w) = _ ∧ _
  rw [tests]
  by_cases final : (s.setDest r (some (x.cancelledBy cause logged))).countDests d (fun st => !st.isFinal) = 0
  · obtain ⟨notices', lost', ends⟩ := endDoc_plain (s := w) (st := .cancelled) doc keeps
    refine ⟨.cancelled, notices', lost', ?_, fun _ => rfl, fun open_ => absurd final open_⟩
    rw [if_pos final, ends]
    unfold askPass State.setDoc
    dsimp only [w, v, State.setDoc]
    rw [Table.set_set]
    rfl
  · exact ⟨d.state, notices, lost, congrArg askPass (if_neg final), fun all => absurd all final, fun _ => rfl⟩

/-- A call before connect of a cancelled document, hung up. -/
theorem hangUp_cancels {l : LineNo} {c : CallRec} {o : OutCall} {r : Nat} {x : Dest} (call : (s.line l).call = some c)
    (out : c.out = some o) (outbound : c.inbound = none) (there : s.doc o.doc = some d) (listed : d.dests[o.index]? = some r)
    (record : s.dest r = some x) (asked : d.cancelReq = true) (more : x.confirmed ≠ d.pages.length)
    (keeps : d.releasePages = false) (running : d.state = .queued ∨ d.state = .active) :
    ∃ st notices lost store desks armed, hangUp false l .cancelled s = { s.setLine l ((s.line l).released.onHook .cancelled) with
        store, desks, link := { s.link with notices, lost },
        docs := { s.docs with
          pool := s.docs.pool.set r (some (x.cancelledBy .cancelled s.log.sequence)),
          docs := s.docs.docs.set o.doc.slot { d with state := st, cancelled := d.cancelled + 1 },
          passAsked := true },
        log := s.log.filled (releaseRecord l c .cancelled s) armed } ∧
      ((s.setDest r (some (x.cancelledBy .cancelled s.log.sequence))).countDests d (fun st => !st.isFinal) = 0 → st = .cancelled) ∧
      ((s.setDest r (some (x.cancelledBy .cancelled s.log.sequence))).countDests d (fun st => !st.isFinal) ≠ 0 → st = d.state) := by
  obtain ⟨notices, lost, passAsked, desks, armed, ends, -⟩ :=
    hangUp_out (quiet := false) (cause := .cancelled) call out outbound
  let v : State := { s.setLine l (s.line l).released with
    desks, link := { s.link with notices, lost }, docs := { s.docs with passAsked },
    log := s.log.filled (releaseRecord l c .cancelled s) armed }
  have v_line : v.line l = (s.line l).released := s.line_setLine_self l _
  obtain ⟨st, notices', lost', reports, final, open_⟩ := outcomeReport_cancels (s := v) (cause := .cancelled) (release := s.now)
    (logged := s.log.sequence) there listed record asked more keeps running
  obtain ⟨notices₁, lost₁, hooks⟩ := onHook_frame l .cancelled
    (outcomeReport false o.doc o.index .cancelled s.now (some s.log.sequence) v)
  rw [reports] at hooks
  refine ⟨st, notices₁, lost₁, (withdraw (.lc l) v).store, desks, armed, ?_, final, open_⟩
  rw [ends]
  show onHook l .cancelled (outcomeReport false o.doc o.index .cancelled s.now (some s.log.sequence) v) = _
  rw [reports, hooks]
  have lines : (State.setLine v l ((v.line l).onHook .cancelled)).lines =
      (s.setLine l ((s.line l).released.onHook .cancelled)).lines := by
    rw [v_line]
    exact (congrArg State.lines (s.setLine_setLine l (s.line l).released ((s.line l).released.onHook .cancelled)) :)
  exact congrArg (fun lines => { s with
    lines, store := (withdraw (.lc l) v).store, desks, link := { s.link with notices := notices₁, lost := lost₁ },
    docs := { s.docs with
      pool := s.docs.pool.set r (some (x.cancelledBy .cancelled s.log.sequence)),
      docs := s.docs.docs.set o.doc.slot { d with state := st, cancelled := d.cancelled + 1 },
      passAsked := true },
    log := s.log.filled (releaseRecord l c .cancelled s) armed }) lines

/-- The part with a document's cancel asked (R65). -/
def State.askingCancel (s : State) (k : Nat) (d : Doc) : State := (s.cancelling k d).setDoc k
  { d with cancelReq := true, cancelled := d.cancelled + (d.dests.filter (waitsIn s.docs.pool)).length }

theorem askingCancel_doc (k : Nat) : (s.askingCancel k d).docs.docs.get k =
    { d with cancelReq := true, cancelled := d.cancelled + (d.dests.filter (waitsIn s.docs.pool)).length } :=
  Table.get_set_self ..

/-- With record `r` CANCELLED too, the document is complete when no other destination was ON_LINE. -/
theorem askingCancel_complete {k r : Nat} {x : Dest} {e : Doc} (dests : e.dests = d.dests) (over_ : x.state = .cancelled)
    (offline : ∀ q z, q ∈ d.dests → q ≠ r → s.dest q = some z → z.state ≠ .onLine) :
    ((s.askingCancel k d).setDest r (some x)).countDests e (fun st => !st.isFinal) = 0 := by
  rw [countDests_eq_zero, dests]
  intro q mem y record
  by_cases same : q = r
  · subst same
    have own : ((s.askingCancel k d).setDest q (some x)).dest q = some x := Table.get_set_self ..
    obtain rfl := Option.some.inj (own.symm.trans record)
    rw [over_]
    rfl
  · have own : ((s.askingCancel k d).setDest r (some x)).dest q = (s.cancelling k d).dest q := Table.get_set_ne _ _ same
    rw [own] at record
    refine (cancelling_open mem record).trans (decide_eq_false fun online => ?_)
    rw [cancelling_dest, if_pos mem] at record
    obtain ⟨z, was, rfl⟩ := Option.map_eq_some_iff.1 record
    refine offline q z mem same was ?_
    unfold Dest.leaves at online
    split at online
    · exact nomatch online
    · exact online

theorem askingCancel_incomplete {k r q : Nat} {x z : Dest} {e : Doc} (dests : e.dests = d.dests) (mem : q ∈ d.dests)
    (other : q ≠ r) (record : s.dest q = some z) (online : z.state = .onLine) :
    ((s.askingCancel k d).setDest r (some x)).countDests e (fun st => !st.isFinal) ≠ 0 := by
  rw [Ne, countDests_eq_zero, dests]
  have own : ((s.askingCancel k d).setDest r (some x)).dest q = some z :=
    (Table.get_set_ne _ _ other).trans (cancelling_onLine k q record online)
  exact fun none_ => absurd (none_ q mem z own) (by rw [online]; nofun)

/-- What becomes of the destinations of a cancelled document. -/
theorem leaves_cancelled (r : Nat) : (if r ∈ d.dests then (s.dest r).map (Dest.leaves .cancelled) else s.dest r) =
    if r ∈ d.dests then (s.dest r).map fun x => if x.state.isWaiting then { x with state := .cancelled } else x
    else s.dest r := rfl

/-- DOC-DELETE of a document that is not running. -/
theorem docDelete_deletes {a b : Byte} (there : s.doc (docOf a b) = some d)
    (state : d.state = .draft ∨ d.state = .done ∨ d.state = .cancelled) {u t : State}
    (frees : { s with docs := { s.docs with
      pool := freeRecordList d.dests s.docs.pool,
      docs := s.docs.docs.set (docOf a b).slot (.freeWith ((d.issue + 1) % 256)) } } = u)
    (lowers : (if d.pagesHeld then lowerRefs d.pages u else u) = t) (quiet : t.scan.state ≠ .held) :
    docDelete [a, b] s = .ok (t, e16 t.docs.freeRecords) := by
  have still : ¬(d.state = .queued ∨ d.state = .active) := by
    obtain h | h | h := state <;> rw [h] <;> nofun
  unfold docDelete
  dsimp only
  rw [there]
  dsimp only
  rw [if_neg still]
  subst frees lowers
  exact (congrArg (fun t : State => Except.ok (t, e16 _)) (scanRetry_eq quiet) :)

end

/-- Settles O31. -/
theorem documentCancelledOrDeleted : Obligations.DocumentCancelledOrDeleted := by
  intro tag a b d s s₁ there quiet once waits
  obtain ⟨slot, here, live, issue⟩ := State.doc_some there
  let k := (docOf a b).slot
  refine ⟨?_, ?_, ?_, ?_, ?_, ?_, ?_, ?_⟩
  · intro taken state keeps offline
    obtain ⟨notices, lost, ends⟩ := endDoc_plain (s := s₁.cancelling k d) (st := .cancelled) (cancelling_doc k) keeps
    have cancels := docCancel_ends there once state offline ends (by exact congrArg Doc.state (Table.get_set_self ..)) (by exact quiet)
    refine ⟨_, exec_answers rfl taken cancels, Table.get_set_self .., fun r => (cancelling_dest k r).trans (leaves_cancelled r), ?_,
      ⟨_, _, rfl⟩⟩
    intro p other
    cases p <;> first | rfl | exact absurd (by decide) other
  · intro taken state online away
    have told : allLines.foldl (cancelOnLine (docOf a b)) (s₁.askingCancel k d) = s₁.askingCancel k d := by
      have same (l : LineNo) : cancelOnLine (docOf a b) (s₁.askingCancel k d) l = s₁.askingCancel k d :=
        cancelOnLine_same fun y attempt => away l y attempt
      unfold allLines
      simp only [List.foldl_cons, List.foldl_nil, same]
    have asks := docCancel_asks there once state online told (by exact quiet)
    have code : ((s₁.askingCancel k d).docs.docs.get (docOf a b).slot).state = d.state := by rw [askingCancel_doc]
    rw [code] at asks
    refine ⟨_, exec_answers rfl taken asks, askingCancel_doc k, ?_⟩
    intro p other
    cases p <;> first | rfl | exact absurd (by decide) other
  · intro l x c o r y taken state keeps line before attempt call outbound out mine listed record online more away
    subst line
    obtain ⟨att, at_line, att_doc⟩ := Option.map_eq_some_iff.1 attempt
    let v := s₁.askingCancel k d
    have v_doc : v.doc o.doc = some { d with
        cancelReq := true, cancelled := d.cancelled + (d.dests.filter (waitsIn s₁.docs.pool)).length } := by
      rw [mine]
      unfold State.doc
      dsimp only
      rw [askingCancel_doc]
      exact if_pos ⟨slot, live, issue⟩
    obtain ⟨st, notices, lost, store, desks, armed, hangs, final, open_⟩ := hangUp_cancels (s := v) (l := l) call out outbound v_doc listed
      (cancelling_onLine k r record online) rfl (Nat.ne_of_lt more) keeps state
    rw [mine] at hangs
    have every : ∀ l : LineNo, l ∈ allLines := by decide
    have told : allLines.foldl (cancelOnLine (docOf a b)) v = hangUp false l .cancelled v := by
      refine foldl_one (OtherLines l v) (by decide) (every l) (fun _ _ => rfl) (fun j u other apart => ?_)
        (cancelOnLine_hangs at_line att_doc before) ?_
      · refine cancelOnLine_same fun z attempt same => ?_
        rw [apart j other] at attempt ⊢
        exact away j z other attempt same
      · rw [hangs]
        exact setLine_others l _ v
    have quiet' : (hangUp false l .cancelled v).scan.state ≠ .held := by
      rw [hangs]
      exact quiet
    have mem : r ∈ d.dests := List.mem_of_getElem? listed
    have asks := docCancel_asks there once state ⟨r, mem, y, record, online⟩ told quiet'
    rw [hangs] at asks
    rw [(congrArg Doc.state (Table.get_set_self ..) : ((v.docs.docs.set (docOf a b).slot _).get (docOf a b).slot).state = st)] at asks
    refine ⟨_, _, st, exec_answers rfl taken asks, released_of (s := s₁) ?_ ?_ rfl rfl, Table.get_set_self ..,
      fun ⟨q, z, mem, other, record, online⟩ => open_ (askingCancel_incomplete rfl mem other record online),
      fun offline => final (askingCancel_complete rfl rfl offline), Table.get_set_self .., fun q other => ?_, ?_, ⟨_, _, rfl⟩⟩
    · exact State.line_setLine_self ..
    · exact setLine_others l _ v
    · exact (Table.get_set_ne _ _ other).trans ((cancelling_dest k q).trans (leaves_cancelled q))
    · intro p other
      cases p <;> first | rfl | exact absurd (by decide) other
  · intro taken state lets held offline
    have idle := State.takes_job taken
    obtain ⟨fields, ends⟩ := endDoc_releases (s := s₁.cancelling k d) (st := .cancelled) (cancelling_doc k) lets held
    generalize start : (s₁.cancelling k d).setDoc k { d with
      state := .cancelled, pagesHeld := false,
      cancelled := d.cancelled + (d.dests.filter (waitsIn s₁.docs.pool)).length } = u at ends
    have u_docs : u.docs.docs.get k = { d with
        state := .cancelled, pagesHeld := false,
        cancelled := d.cancelled + (d.dests.filter (waitsIn s₁.docs.pool)).length } := by
      rw [← start]
      exact Table.get_set_self ..
    have first : OnlyChanges [.docs, .store, .link] s₁ u ∧ LinkRaises s₁ u := by
      rw [← start]
      exact ⟨fun p other => by cases p <;> first | rfl | exact absurd (by decide) other, .of_link rfl⟩
    obtain ⟨only, raises⟩ := lowerRefs_effect (s := u) d.pages (by rw [← start]; exact idle)
    obtain ⟨notices, lost, raised⟩ := raise_frame .docDone fields (lowerRefs d.pages u)
    rw [raised] at ends
    have docs : (lowerRefs d.pages u).docs = u.docs := only .docs (by decide)
    have scan : (lowerRefs d.pages u).scan = s₁.scan := (only .scan (by decide)).trans (first.1 .scan (by decide))
    have cancels := docCancel_ends there once state offline ends
      (by show ((lowerRefs d.pages u).docs.docs.get k).state = _; rw [docs, u_docs]) (by show (lowerRefs d.pages u).scan.state ≠ _; rw [scan]; exact quiet)
    have same (w : State) (eq : w = u) : w.store = s₁.store := by rw [eq, ← start]; rfl
    refine ⟨_, exec_answers rfl taken cancels, ?_, ?_, ?_, fun enough => ?_, fun p e pages accounted page closed refs pins => ?_⟩
    · show (lowerRefs d.pages u).docs.docs.get k = _
      exact (congrArg (fun t : DocTable => t.docs.get k) docs).trans u_docs
    · refine OnlyChanges.trans first.1 (OnlyChanges.trans (only.mono (by decide)) ?_)
      intro p other
      cases p <;> first | rfl | exact absurd (by decide) other
    · exact first.2.trans (raises.trans ⟨_, _, rfl⟩)
    · obtain ⟨dir, lowered, entries, -⟩ := lowerRefs_held (pages := d.pages) (s := u) (by rw [← start]; exact enough)
      rw [lowered]
      refine ⟨(congrArg Store.pool (same u rfl) :), fun k => (entries k).trans ?_⟩
      rw [← start]
      rfl
    · rw [pages]
      obtain ⟨⟨gone, others, pool⟩, -, -⟩ := lowerRef_last (s := u) (p := p) (e := e) (by rw [← start]; exact idle)
        (by rw [← start]; exact page) closed refs pins
      rw [lowerRefs_one]
      rw [← start] at others pool gone ⊢
      exact ⟨gone, others, pool⟩
  · intro taken state
    refine exec_refuses rfl taken ?_
    unfold docCancel
    dsimp only
    rw [there]
    exact if_pos state
  · intro taken state
    refine exec_refuses rfl taken ?_
    unfold docDelete
    dsimp only
    rw [there]
    exact if_pos state
  · intro taken state enough
    let u : State := { s₁ with docs := { s₁.docs with
      pool := freeRecordList d.dests s₁.docs.pool,
      docs := s₁.docs.docs.set (docOf a b).slot (.freeWith ((d.issue + 1) % 256)) } }
    have lowered : ∃ dir, (if d.pagesHeld then lowerRefs d.pages u else u) = { u with store := { u.store with dir } } ∧
        ∀ k, dir.get k = { s₁.entry k with refs := (s₁.entry k).refs -
          if d.pagesHeld then (d.pages.filter fun p => decide (p.slot = k)).length else 0 } := by
      cases held : d.pagesHeld with
      | false => exact ⟨u.store.dir, rfl, fun k => rfl⟩
      | true =>
        obtain ⟨dir, lowered, entries, -⟩ := lowerRefs_held (pages := d.pages) (s := u) (enough held)
        exact ⟨dir, lowered, entries⟩
    obtain ⟨dir, lowered, entries⟩ := lowered
    have deletes := docDelete_deletes there state (u := u) rfl lowered (by exact quiet)
    refine ⟨_, exec_answers rfl taken deletes, Table.get_set_self .., fun r => freeRecordList_get .., entries,
      fun j other => Table.get_set_ne _ _ other, ?_⟩
    intro p other
    cases p <;> first | rfl | exact absurd (by decide) other
  · intro p e taken state held pages accounted page closed refs pins
    have idle := State.takes_job taken
    let u : State := { s₁ with docs := { s₁.docs with
      pool := freeRecordList d.dests s₁.docs.pool,
      docs := s₁.docs.docs.set (docOf a b).slot (.freeWith ((d.issue + 1) % 256)) } }
    obtain ⟨⟨gone, others, pool⟩, only, raises⟩ := lowerRef_last (s := u) (p := p) (e := e) idle page closed refs pins
    have docs : (lowerRef p u).docs = u.docs := only .docs (by decide)
    have scan : (lowerRef p u).scan = s₁.scan := only .scan (by decide)
    have lowered : (if d.pagesHeld then lowerRefs d.pages u else u) = lowerRef p u := by
      rw [held, pages]
      rfl
    have deletes := docDelete_deletes there state (u := u) rfl lowered (by rw [scan]; exact quiet)
    refine ⟨_, exec_answers rfl taken deletes, ?_, fun r => ?_, ⟨gone, others, pool⟩, ?_, raises⟩
    · rw [docs]
      exact Table.get_set_self ..
    · show (lowerRef p u).docs.pool.get r = _
      rw [docs]
      exact freeRecordList_get ..
    · refine OnlyChanges.trans (t := u) ?_ (only.mono (by decide))
      intro p other
      cases p <;> first | rfl | exact absurd (by decide) other

end Sys2Proof.Machine
end

section
/-! PROOFS. A scan job's start, stop, hold and endings (R36, R37, R40 to R43). -/

namespace Sys2Proof.Machine

section
variable {h : PageHandle} {e : PageEntry} {s : State}

/-! ### The next sheet's page (R37, R42) -/

/-- The lowest FREE entry is opened for the sheet. -/
theorem openSheet_opens {slot : Nat} (none_ : Client.scan.holdsOpen s = false) (small : slot < 1024)
    (free : (s.entry slot).state = .free) (lowest : ∀ k, k < slot → (s.entry k).state ≠ .free) :
    openSheet s = { s.setEntry slot { PageEntry.freeWith (s.entry slot).issue with
        state := .opened, origin := some .scan, writer := some .scan, cls := s.scan.settings.cls } with
      scan := { s.scan.emptied with
        page := some ⟨slot, (s.entry slot).issue⟩, coded := 0, committed := 0, state := .scanning } } := by
  unfold openSheet
  rw [openPage_opens (c := .scan) .scan s.scan.settings.cls (.inr ⟨nofun, none_⟩) small free lowest]
  rfl

/-- Without a FREE entry the job ends. -/
theorem openSheet_full (full : ∀ k, k < 1024 → (s.entry k).state ≠ .free) :
    openSheet s = raise .scanAborted (scanAbortedFields .directoryFull none s.scan.pagesClosed)
      { s with scan := { s.scan with state := .idle, endCause := .directoryFull } } := by
  have fails : ∃ status, openPage .scan .scan s.scan.settings.cls s = .error status := by
    cases holds : Client.scan.holdsOpen s with
    | false => exact ⟨_, openPage_tableFull .scan _ (.inr ⟨nofun, holds⟩) full⟩
    | true => exact ⟨.busy, (if_neg (by simp)).trans (if_pos ⟨nofun, holds⟩)⟩
  obtain ⟨status, fails⟩ := fails
  unfold openSheet
  rw [fails]
  rfl

theorem ejectionComplete_eq (paper : Bool) (on : s.power = true) (ejecting : s.scan.state = .ejecting) :
    exec (.ejectionComplete paper) s = .next (if s.scan.nextSheet then nextSheetOrEnd (sensePaper paper s)
      else { s with scan := { s.scan with state := .idle, paper } }) :=
  (exec_event (act := fun s => ejectionComplete (sensePaper paper s)) on rfl).trans (congrArg _ (if_pos ejecting))

/-! ### The sheet given up (R41, R43) -/

/-- The current page is discarded and the sheet carried out. -/
theorem abandonSheet_abandons (cause : ScanEnd) (idle : s.link.job = none) (page : s.scan.page = some h)
    (there : s.page h = some e) : SheetAbandoned cause h e s (abandonSheet cause s) := by
  obtain ⟨⟨gone, others, pool⟩, only, raises, -⟩ := discardPage_spec (s := s) h idle
  have scan : (discardPage h s).scan = s.scan := only .scan (by decide)
  have same := (State.page_some there).2.1
  have eq : abandonSheet cause s = withdraw .scan ((discardPage h s).modScan fun u =>
      { u.emptied with page := none, state := .ejecting, nextSheet := false, endCause := cause }) := by
    unfold abandonSheet
    rw [page]
  rw [eq]
  rw [← same] at gone pool
  clear eq
  generalize discardPage h s = t at gone others pool only raises scan
  refine ⟨gone, others, pool, rfl, rfl, rfl, rfl, rfl, rfl, rfl, rfl, ?_, ?_, ?_, raises⟩
  · exact (congrArg Scan.settings scan :)
  · exact (congrArg Scan.pagesClosed scan :)
  · refine OnlyChanges.trans (t := t) (only.mono (by decide)) ?_
    intro p other
    cases p <;> first | rfl | exact absurd (by decide) other

/-! ### The held block asked for again (R40) -/

/-- A client without a request keeps having none as a page returns to FREE. -/
theorem freePage_outstanding {c : Client} (idle : s.link.job = none) (none_ : s.outstanding c = false) (p : PageHandle) :
    (freePage p s).outstanding c = false := by
  obtain ⟨lowArmed, notices, lost, freed⟩ := freePage_eq p idle
  obtain ⟨waiting, port⟩ := Bool.or_eq_false_iff.1 none_
  rw [freed]
  refine Bool.or_eq_false_iff.2 ⟨?_, ?_⟩
  · refine List.any_eq_false.2 fun r mem => ?_
    exact List.any_eq_false.1 waiting r (List.mem_filter.1 mem).1
  · unfold Store.withoutReads
    dsimp only
    cases granted : s.store.port with
    | none => rfl
    | some x =>
      rw [granted] at port
      dsimp only at port
      rw [Option.map_some]
      dsimp only
      by_cases read : (x.req.op.isRead && decide (x.req.op.page = p)) = true
      · rw [if_pos read]
        exact Bool.and_false _
      · rw [if_neg read]
        exact port

/-- A held block that passes the allocation test is asked to be written. -/
theorem scanRetry_asks {data : List Byte} (held : s.scan.state = .held) (none_ : s.outstanding .scan = false)
    (page : s.scan.page = some h) (full : s.scan.full = some data)
    (passes : allocTest s (s.entry h.slot) .scan = .pass) :
    scanRetry s = queueRequest { client := .scan, level := 1, op := .write h data none } s := by
  unfold scanRetry
  rw [if_pos ⟨held, by rw [none_]; rfl⟩]
  unfold presentBlock
  rw [page, full]
  dsimp only
  rw [askWrite_pass data none passes]
  rfl

end

/-- Settles O26. -/
theorem scanJobStartsAndEnds : Obligations.ScanJobStartsAndEnds := by
  have start (tag : Byte) (paper : Bool) (s s₁ t : State) (taken : s.takes ⟨0x21, tag, []⟩ = some s₁)
      (does : answered 0x21 tag (scanStart []) (sensePaper paper s₁) = t) : exec (.scanStart tag [] paper) s = .next t :=
    exec_hostCommand (act := fun s => answered 0x21 tag (scanStart []) (sensePaper paper s)) rfl taken does
  refine ⟨fun tag slot s s₁ taken => ⟨?_, ?_, ?_⟩, fun tag s s₁ taken => ⟨?_, ?_, ?_, ?_⟩, ?_, ?_, ?_, ?_⟩
  · intro idle target none_ small free lowest
    refine start tag true s s₁ _ taken ?_
    have found : ((sensePaper true s₁).store.dir.lowest 1024 fun e => decide (e.state = .free)) = some slot :=
      Table.lowest_eq_some _ small (decide_eq_true free) fun j below => decide_eq_false (lowest j below)
    let v : State := (sensePaper true s₁).modScan fun u =>
      { u with target := u.settings.target, pagesClosed := 0, endCause := .none, holdTime := 0 }
    have opens := openSheet_opens (s := v) none_ small free lowest
    have starts : scanStart [] (sensePaper true s₁) = .ok (openSheet v, ePage ⟨slot, (s₁.entry slot).issue⟩) := by
      unfold scanStart
      rw [if_neg (not_not_intro rfl), if_neg (not_not_intro (by exact idle)),
        show (sensePaper true s₁).scan.settings.target = none from target]
      unfold targetRefusal
      dsimp only
      rw [found]
      show Except.ok (openSheet v, match (openSheet v).scan.page with | some h => ePage h | none => []) = _
      rw [opens]
      rfl
    unfold answered
    rw [starts]
    dsimp only
    rw [opens]
    refine congrArg (fun scan => reply 0x21 tag .ok (ePage ⟨slot, (s₁.entry slot).issue⟩) { s₁.setEntry slot _ with scan }) ?_
    unfold Scan.emptied
    show ({ Scan.reset with
      settings := s₁.scan.settings, state := .scanning, page := some ⟨slot, (s₁.entry slot).issue⟩,
      nextSheet := s₁.scan.nextSheet, samples := s₁.scan.samples, paper := true, target := s₁.scan.settings.target } : Scan) = _
    rw [target]
    rfl
  · intro paper busy
    refine start tag paper s s₁ _ taken ?_
    have refused : scanStart [] (sensePaper paper s₁) = .error .busy := (if_neg (not_not_intro rfl)).trans (if_pos busy)
    unfold answered
    rw [refused]
    rfl
  · intro idle target
    refine start tag false s s₁ _ taken ?_
    have refused : scanStart [] (sensePaper false s₁) = .error .noPaper := by
      unfold scanStart
      rw [if_neg (not_not_intro rfl), if_neg (not_not_intro (by exact idle)),
        show (sensePaper false s₁).scan.settings.target = none from target]
      rfl
    unfold answered
    rw [refused]
    rfl
  · intro idle
    refine exec_refuses rfl taken ?_
    unfold scanStop
    rw [if_neg (not_not_intro rfl), idle]
  · intro ejecting next
    refine exec_answers rfl taken ?_
    unfold scanStop
    rw [if_neg (not_not_intro rfl), ejecting]
    dsimp only [State.modScan]
    rw [if_pos next]
  · intro ejecting none_
    refine exec_answers rfl taken ?_
    unfold scanStop
    rw [if_neg (not_not_intro rfl), ejecting]
    dsimp only [State.modScan]
    rw [none_]
    rfl
  · intro h e state page there
    refine ⟨_, exec_answers rfl taken ?_, abandonSheet_abandons .stopped (State.takes_job taken) page there⟩
    unfold scanStop
    rw [if_neg (not_not_intro rfl)]
    obtain state | state := state <;> rw [state]
  · intro h e s on held page full there idle
    refine ⟨_, (exec_event (act := scanHoldTimeout) on rfl).trans (congrArg _ ((if_pos ⟨held, full⟩).trans ?_)),
      abandonSheet_abandons .storeFull idle page there⟩
    rw [page]
    rfl
  · intro s on not
    refine (exec_event (act := scanHoldTimeout) on rfl).trans (congrArg _ (if_neg fun both => ?_))
    obtain ⟨held, full⟩ := both
    exact not.elim (fun h => h held) fun h => h full
  · intro tag a b h e p data s s₁ taken held none_ page there opened full short gone closed refs room
    have idle := State.takes_job taken
    have other : h.slot ≠ (pageOf a b).slot := fun same => by
      have same : e = p := by rw [(State.page_some there).2.1, (State.page_some gone).2.1, same]
      rw [same, closed] at opened
      exact nomatch opened
    obtain ⟨released, only, raises⟩ := releaseTest_setEntry_released (e' := { p with pins := 0 }) idle gone closed refs rfl rfl rfl
    have frees : releaseTest (pageOf a b) (s₁.setEntry (pageOf a b).slot { p with pins := 0 }) =
        freePage (pageOf a b) (s₁.setEntry (pageOf a b).slot { p with pins := 0 }) :=
      releaseTest_frees (State.page_setEntry gone (by show p.state ≠ _; rw [closed]; nofun) rfl) closed refs rfl
    have quiet := freePage_outstanding (s := s₁.setEntry (pageOf a b).slot { p with pins := 0 }) (c := .scan) idle none_ (pageOf a b)
    rw [← frees] at quiet
    generalize gives : releaseTest (pageOf a b) (s₁.setEntry (pageOf a b).slot { p with pins := 0 }) = t at released only raises quiet frees
    have scan : t.scan = s₁.scan := only .scan (by decide)
    have entry : t.entry h.slot = e := (released.2.1 _ other).trans (State.page_some there).2.1.symm
    have free : t.freeCount = s₁.freeCount + p.chain.length := by
      unfold State.freeCount
      rw [SegPool.count_eq, SegPool.count_eq, released.2.2, List.length_append]
    have passes : allocTest t (t.entry h.slot) .scan = .pass := by
      rw [entry]
      exact allocTest_segment .scan short (by rw [free, (only .cfg (by decide) : t.cfg = s₁.cfg)]; exact room)
    have asks := scanRetry_asks (s := t) (h := h) (data := data) (by rw [scan]; exact held) quiet (by rw [scan]; exact page)
      (by rw [scan]; exact full) passes
    refine ⟨_, exec_answers rfl taken (t := queueRequest { client := .scan, level := 1, op := .write h data none } t) ?_,
      List.mem_append_right _ (List.mem_singleton_self _), scan, entry, released.2.2, ?_, raises⟩
    · have upload : ¬(p.state = .opened ∧ p.writer = some .hostXfer) := fun both => by
        rw [closed] at both
        exact nomatch both.1
      unfold pageDrop
      dsimp only
      rw [gone]
      dsimp only
      rw [if_neg upload, gives, ← asks]
      exact (congrArg (fun fields => Except.ok (scanRetry t, fields)) (unpinFields_gone released.page_none) :)
    · refine OnlyChanges.trans (t := t) only ?_
      intro p other
      cases p <;> first | rfl | exact absurd (by decide) other
  · intro s on ejecting
    refine ⟨fun next full => ?_, fun slot next none_ small free lowest => ?_, fun paper last => ?_, fun next => ?_⟩
    · rw [ejectionComplete_eq true on ejecting, if_pos next]
      exact congrArg _ ((if_pos rfl).trans (openSheet_full (s := sensePaper true s) full))
    · rw [ejectionComplete_eq true on ejecting, if_pos next]
      exact congrArg _ ((if_pos rfl).trans (openSheet_opens (s := sensePaper true s) none_ small free lowest))
    · rw [ejectionComplete_eq paper on ejecting, last]
      rfl
    · rw [ejectionComplete_eq false on ejecting, if_pos next]
      rfl

end Sys2Proof.Machine
end

section
/-! PROOFS. The scan unit's code buffers: octets placed, blocks asked for, held or cut at the limit (R34, R35, R40, R42). -/

namespace Sys2Proof.Machine

/-! ### Octets placed in the buffers (R34, R35) -/

/-- The octets of a page's code that have left the coder and no block holds yet. -/
def Scan.waiting (u : Scan) : List Byte := u.filling ++ u.backlog

theorem Scan.place_eq {u : Scan} (room : u.filling.length ≤ 256) : u.place = { u with
    filling := u.waiting.take 256, backlog := u.waiting.drop 256,
    lineWaits := u.lineWaits && decide (256 < u.waiting.length),
    coded := if u.lineWaits = true ∧ u.waiting.length ≤ 256 then min 6912 (u.coded + 1) else u.coded } := by
  have filled : u.filling ++ u.backlog.take (256 - u.filling.length) = u.waiting.take 256 := by
    unfold Scan.waiting
    rw [List.take_append, List.take_of_length_le room]
  have left : u.backlog.drop (256 - u.filling.length) = u.waiting.drop 256 := by
    unfold Scan.waiting
    rw [List.drop_append, List.drop_of_length_le room, List.nil_append]
  unfold Scan.place
  dsimp only
  rw [filled, left]
  by_cases fits : u.waiting.length ≤ 256
  · rw [decide_eq_false (Nat.not_lt.2 fits), Bool.and_false]
    cases waits : u.lineWaits with
    | false => exact (if_neg (by simp)).trans (by rw [if_neg (by simp)])
    | true => exact (if_pos ⟨List.drop_of_length_le fits, rfl⟩).trans (by rw [if_pos ⟨rfl, fits⟩]; rfl)
  · have left : u.waiting.drop 256 ≠ [] := fun none_ => fits (List.drop_eq_nil_iff.1 none_)
    rw [decide_eq_true (Nat.lt_of_not_le fits), Bool.and_true, if_neg (c := u.lineWaits = true ∧ _) (fun both => fits both.2)]
    exact if_neg fun both => left both.1

/-- The state and the hold time play no part in it. -/
theorem Scan.place_held (u : Scan) (state : ScanState) (holdTime : Nat) :
    ({ u with state, holdTime } : Scan).place = { u.place with state, holdTime } := by
  unfold Scan.place
  dsimp only
  split <;> rfl

/-- The scan unit with its filled buffer become the full one, and the other one empty. -/
def Scan.blocked (u : Scan) : Scan := { u with
  full := some (u.waiting.take 256), filling := [], backlog := u.waiting.drop 256,
  lineWaits := u.lineWaits && decide (256 < u.waiting.length),
  coded := if u.lineWaits = true ∧ u.waiting.length ≤ 256 then min 6912 (u.coded + 1) else u.coded }

/-- The scan unit with a block in its full buffer, the octets left gathered in the other one. -/
def Scan.filled (u : Scan) : Scan := { u with
  full := some (u.waiting.take 256), filling := (u.waiting.drop 256).take 256, backlog := u.waiting.drop 512,
  lineWaits := u.lineWaits && decide (512 < u.waiting.length),
  coded := if u.lineWaits = true ∧ u.waiting.length ≤ 512 then min 6912 (u.coded + 1) else u.coded }

theorem Scan.blocked_place (u : Scan) : u.blocked.place = u.filled := by
  have left : u.blocked.waiting = u.waiting.drop 256 := rfl
  rw [Scan.place_eq (by exact Nat.zero_le _), left]
  unfold Scan.blocked Scan.filled
  dsimp only
  rw [List.drop_drop, List.length_drop]
  cases u.lineWaits with
  | false => simp
  | true =>
    by_cases one : u.waiting.length ≤ 256
    · rw [decide_eq_false (by omega : ¬256 < u.waiting.length), decide_eq_false (by omega : ¬256 < u.waiting.length - 256),
        decide_eq_false (by omega : ¬512 < u.waiting.length), if_neg (by simp), if_pos ⟨rfl, one⟩, if_pos ⟨rfl, by omega⟩]
      rfl
    · rw [decide_eq_true (by omega : 256 < u.waiting.length), if_neg (fun both => one both.2 : ¬(true = true ∧ _))]
      by_cases two : u.waiting.length ≤ 512
      · rw [decide_eq_false (by omega : ¬256 < u.waiting.length - 256), decide_eq_false (by omega : ¬512 < u.waiting.length),
          if_pos ⟨rfl, by omega⟩, if_pos ⟨rfl, two⟩]
        rfl
      · rw [decide_eq_true (by omega : 256 < u.waiting.length - 256), decide_eq_true (by omega : 512 < u.waiting.length),
          if_neg (by omega), if_neg (by omega)]
        rfl

section
variable {h : PageHandle} {e : PageEntry} {s : State} {n : Nat}

theorem pump_succ (n : Nat) (s : State) : pump (n + 1) s =
    if s.scan.page.isNone then s
    else if s.scan.place.filling.length = 256 ∧ s.scan.place.full = none then
      pump n (presentBlock { s with scan := { s.scan.place with full := some s.scan.place.filling, filling := [] } })
    else { s with scan := s.scan.place } := rfl

/-- Where no buffer has filled, or the other one is in use, octets are placed and nothing is asked for. -/
theorem pump_places (page : s.scan.page.isSome = true) (room : s.scan.filling.length ≤ 256)
    (idle : s.scan.full ≠ none ∨ s.scan.waiting.length < 256) :
    pump (n + 1) s = { s with scan := s.scan.place } := by
  have stays : ¬(s.scan.place.filling.length = 256 ∧ s.scan.place.full = none) := by
    rw [Scan.place_eq room]
    rintro ⟨many, none_⟩
    obtain used | few := idle
    · exact used none_
    · have := (List.length_take (l := s.scan.waiting) (i := 256)).symm.trans many
      omega
  rw [pump_succ, if_neg (by rw [Option.isNone_eq_false_iff.2 page]; nofun), if_neg stays]

/-- A buffer that has filled with the other one free is presented. -/
theorem pump_presents (page : s.scan.page.isSome = true) (room : s.scan.filling.length ≤ 256) (free : s.scan.full = none)
    (many : 256 ≤ s.scan.waiting.length) :
    pump (n + 1) s = pump n (presentBlock { s with scan := s.scan.blocked }) := by
  have fills : s.scan.place.filling.length = 256 ∧ s.scan.place.full = none := by
    rw [Scan.place_eq room]
    exact ⟨List.length_take.trans (Nat.min_eq_left many), free⟩
  have blocked : ({ s.scan.place with full := some s.scan.place.filling, filling := [] } : Scan) = s.scan.blocked := by
    rw [Scan.place_eq room]
    rfl
  rw [pump_succ, if_neg (by rw [Option.isNone_eq_false_iff.2 page]; nofun), if_pos fills, blocked]

/-- The scan unit's request for a block of its page. -/
def scanBlock (h : PageHandle) (data : List Byte) : Request := { client := .scan, level := 1, op := .write h data none }

theorem presentBlock_passes {data : List Byte} (page : s.scan.page = some h) (full : s.scan.full = some data)
    (passes : allocTest s (s.entry h.slot) .scan = .pass) : presentBlock s = queueRequest (scanBlock h data) s := by
  unfold presentBlock
  rw [page, full]
  dsimp only
  rw [askWrite_pass data none passes]
  rfl

theorem presentBlock_refused {data : List Byte} {a : Allocation} (page : s.scan.page = some h) (full : s.scan.full = some data)
    (test : allocTest s (s.entry h.slot) .scan = a) (refused : a ≠ .pass) : presentBlock s = scanRefused a s := by
  unfold presentBlock
  rw [page, full]
  dsimp only
  rw [askWrite_refused data none test refused]

/-- A block that the store takes is asked to be written. -/
theorem pump_passes (page : s.scan.page = some h) (room : s.scan.filling.length ≤ 256) (free : s.scan.full = none)
    (many : 256 ≤ s.scan.waiting.length) (passes : allocTest s (s.entry h.slot) .scan = .pass) :
    pump (n + 2) s = { s with
      scan := s.scan.filled
      store := { s.store with waiting := s.store.waiting ++ [scanBlock h (s.scan.waiting.take 256)] } } := by
  rw [pump_presents (by rw [page]; rfl) room free many,
    presentBlock_passes (s := { s with scan := s.scan.blocked }) (by exact page) rfl (by exact passes)]
  refine (pump_places (by show s.scan.page.isSome = true; rw [page]; rfl) (by exact Nat.zero_le _) (.inl (by exact Option.some_ne_none _))).trans ?_
  show _ = ({ s with
    scan := s.scan.filled
    store := { s.store with waiting := s.store.waiting ++ [scanBlock h (s.scan.waiting.take 256)] } } : State)
  rw [← Scan.blocked_place]
  rfl

/-- A block refused STORE_FULL holds the job. -/
theorem pump_holds (scanning : s.scan.state = .scanning) (page : s.scan.page = some h) (room : s.scan.filling.length ≤ 256)
    (free : s.scan.full = none) (many : 256 ≤ s.scan.waiting.length)
    (refused : allocTest s (s.entry h.slot) .scan = .storeFull) :
    pump (n + 2) s = raise .scanHeld (ePage h ++ e16 s.freeCount ++ e16 s.cfg.receptionReserve)
      { s with scan := { s.scan.filled with state := .held, holdTime := 0 } } := by
  let v : State := { s with scan := { s.scan.blocked with state := .held, holdTime := 0 } }
  have holds : presentBlock { s with scan := s.scan.blocked } =
      raise .scanHeld (ePage h ++ e16 s.freeCount ++ e16 s.cfg.receptionReserve) v := by
    rw [presentBlock_refused (s := { s with scan := s.scan.blocked }) (a := .storeFull) (by exact page) rfl (by exact refused) nofun]
    unfold scanRefused
    refine (if_pos (by exact scanning)).trans ?_
    rw [show ({ s with scan := s.scan.blocked } : State).scan.page = some h from page]
    rfl
  obtain ⟨notices, lost, raised⟩ := raise_frame .scanHeld (ePage h ++ e16 s.freeCount ++ e16 s.cfg.receptionReserve) v
  have told : (raise .scanHeld (ePage h ++ e16 s.freeCount ++ e16 s.cfg.receptionReserve)
      { s with scan := { s.scan.filled with state := .held, holdTime := 0 } }) =
      { s with scan := { s.scan.filled with state := .held, holdTime := 0 }, link := { s.link with notices, lost } } := by
    obtain ⟨notices', lost', raised'⟩ := raise_frame .scanHeld (ePage h ++ e16 s.freeCount ++ e16 s.cfg.receptionReserve)
      { s with scan := { s.scan.filled with state := .held, holdTime := 0 } }
    have link := raise_link_congr .scanHeld (ePage h ++ e16 s.freeCount ++ e16 s.cfg.receptionReserve) (t := v)
      (s := { s with scan := { s.scan.filled with state := .held, holdTime := 0 } }) rfl rfl
    rw [raised, raised'] at link
    rw [raised']
    exact congrArg (fun link => ({ s with
      scan := { s.scan.filled with state := .held, holdTime := 0 }, link := link } : State)) link.symm
  rw [pump_presents (by rw [page]; rfl) room free many, holds, raised, told]
  refine (pump_places (by show s.scan.page.isSome = true; rw [page]; rfl) (by exact Nat.zero_le _) (.inl (by exact Option.some_ne_none _))).trans ?_
  have placed := s.scan.blocked.place_held .held 0
  rw [Scan.blocked_place] at placed
  exact congrArg (fun u : Scan => ({ s with scan := u, link := { s.link with notices, lost } } : State)) placed

/-! ### The page's chain is full (R42) -/

/-- A page that the scan unit closes with a pin of its own (R38, R39). -/
def PageEntry.pinnedBy (e : PageEntry) (c : CloseReq) : PageEntry := { e.closedBy c with pins := min 15 (e.pins + 1) }

/-- The part as the scan unit's page has closed with its pin. -/
def State.pinning (s : State) (h : PageHandle) (e : PageEntry) (c : CloseReq) : State :=
  { s.setEntry h.slot (e.pinnedBy c) with scan := { s.scan with target := none } }

/-- A close that takes no reference for a document: the entry with its pin, PAGE_CLOSED, and no target left. -/
theorem finishClose_pinned {c : CloseReq} (there : s.page h = some e) (hold : c.hold = .scanTarget)
    (taker : s.scanTaker h = none) :
    finishClose false h c s = raise .pageClosed (pageClosedFields h (e.closedBy c)) (s.pinning h e c) := by
  obtain ⟨-, same, -, -⟩ := State.page_some there
  have closed : s.modEntry h.slot (fun e => e.closedBy c) = s.setEntry h.slot (e.closedBy c) := by
    rw [State.modEntry, ← same]
  have entry : (s.setEntry h.slot (e.closedBy c)).entry h.slot = e.closedBy c := State.entry_setEntry_self ..
  have none_ : (s.setEntry h.slot (e.closedBy c)).scanTaker h = none := by
    rw [← taker]
    unfold State.scanTaker State.refTaken
    rw [entry, ← same]
    rfl
  have pins : (s.setEntry h.slot (e.closedBy c)).modEntry h.slot PageEntry.pinned = s.setEntry h.slot (e.pinnedBy c) := by
    unfold State.modEntry
    rw [entry, State.setEntry_setEntry]
    rfl
  have applied : applyHold c.hold h (s.setEntry h.slot (e.closedBy c)) = s.pinning h e c := by
    rw [hold]
    unfold applyHold
    dsimp only
    rw [none_]
    dsimp only
    rw [pins]
    rfl
  have page : (s.pinning h e c).page h = some (e.pinnedBy c) := State.page_setEntry there nofun rfl
  unfold finishClose
  show releaseTest h (raiseUnless false .pageClosed (pageClosedFields h ((applyHold c.hold h
    (s.modEntry h.slot fun e => e.closedBy c)).entry h.slot)) (applyHold c.hold h (s.modEntry h.slot fun e => e.closedBy c)))
    = _
  rw [closed, applied]
  have read : (s.pinning h e c).entry h.slot = e.pinnedBy c := State.entry_setEntry_self ..
  rw [read]
  show releaseTest h (raise .pageClosed (pageClosedFields h (e.closedBy c)) (s.pinning h e c)) = _
  refine releaseTest_stays (e := e.pinnedBy c) ?_ (.inr (.inr (by show 0 < min 15 (e.pins + 1); omega)))
  rw [State.page_congr (s := s.pinning h e c) (by rw [raise_store]), page]

end

end Sys2Proof.Machine
end

section
/-! PROOFS. One step of the feeder: a line coded, its octets gathered, a full block asked for (R26, R29, R32 to R35). -/

namespace Sys2Proof.Machine

section
variable {h : PageHandle} {e : PageEntry} {s : State}

/-- The scan unit as its page's chain was found full: the sheet is carried out (R42). -/
def Scan.limited (u : Scan) : Scan := { u.emptied with
  page := none, target := none, pagesClosed := min 65535 (u.pagesClosed + 1), state := .ejecting, nextSheet := true }

/-- The page with a full chain closes TRUNCATED with its lines committed. -/
theorem limitPage_closes (page : s.scan.page = some h) (there : s.page h = some e) (taker : s.scanTaker h = none) :
    ∃ notices lost, limitPage s = { s.setEntry h.slot
          (e.pinnedBy { code := 0, lineCount := s.scan.committed, truncated := true, hold := .scanTarget }) with
        scan := s.scan.limited, link := { s.link with notices, lost } } := by
  have closes := finishClose_pinned (s := s.modScan Scan.emptied) (e := e)
    (c := { code := 0, lineCount := s.scan.committed, truncated := true, hold := .scanTarget }) (by exact there) rfl
    (by exact taker)
  obtain ⟨notices, lost, raised⟩ := raise_frame .pageClosed (pageClosedFields h
    (e.closedBy { code := 0, lineCount := s.scan.committed, truncated := true, hold := .scanTarget }))
    ((s.modScan Scan.emptied).pinning h e { code := 0, lineCount := s.scan.committed, truncated := true, hold := .scanTarget })
  refine ⟨notices, lost, ?_⟩
  unfold limitPage
  rw [page]
  dsimp only
  rw [closes, raised]
  rfl

/-- A page with nothing of it left in the scan unit takes no more octets. -/
theorem pump_gone (n : Nat) (gone : s.scan.page = none) : pump n s = s := by
  cases n with
  | zero => rfl
  | succ n => rw [pump_succ, gone]; rfl

/-- A block refused at 2048 segments closes the page. -/
theorem pump_limits {n : Nat} (page : s.scan.page = some h) (room : s.scan.filling.length ≤ 256) (free : s.scan.full = none)
    (many : 256 ≤ s.scan.waiting.length) (refused : allocTest s (s.entry h.slot) .scan = .pageLimit)
    (there : s.page h = some e) (taker : s.scanTaker h = none) :
    ∃ notices lost, pump (n + 1) s = { s.setEntry h.slot
          (e.pinnedBy { code := 0, lineCount := s.scan.committed, truncated := true, hold := .scanTarget }) with
        scan := s.scan.blocked.limited, link := { s.link with notices, lost } } := by
  obtain ⟨notices, lost, limits⟩ := limitPage_closes (s := { s with scan := s.scan.blocked }) (e := e) (by exact page)
    (by exact there) (by exact taker)
  refine ⟨notices, lost, ?_⟩
  rw [pump_presents (by rw [page]; rfl) room free many,
    presentBlock_refused (s := { s with scan := s.scan.blocked }) (a := .pageLimit) (by exact page) rfl (by exact refused)
      (by nofun)]
  unfold scanRefused
  dsimp only
  rw [limits, pump_gone n (by rfl)]
  rfl

/-! ### The line coded (R32, R34) -/

theorem emit_eq (code : List Byte) (lines : Nat) (u : Scan) :
    ∃ marks codeLen, emit code lines u = { u with backlog := u.backlog ++ code, marks, codeLen } := by
  unfold emit
  split
  · rename_i empty
    exact ⟨u.marks, u.codeLen, by rw [empty, List.append_nil]⟩
  · exact ⟨_, _, rfl⟩

theorem flushRepeat_eq (u : Scan) : ∃ marks codeLen, flushRepeat u =
    { u with backlog := u.backlog ++ repeatCode u.repeats, repeats := 0, marks, codeLen } := by
  obtain ⟨marks, codeLen, emits⟩ := emit_eq (repeatCode u.repeats) u.repeats u
  refine ⟨marks, codeLen, ?_⟩
  unfold flushRepeat
  rw [emits]

/-- The octets that a line leaves the coder with. -/
def Scan.lineCode (u : Scan) (dots : DotLine) : List Byte :=
  if dots.all (! ·) then repeatCode u.repeats ++ [0xC3]
  else if u.previous = some dots then (if u.repeats < 255 then [] else [0xC2, 0xFF])
  else repeatCode u.repeats ++ runsCode dots

/-- The repeats pending after a line. -/
def Scan.lineRepeats (u : Scan) (dots : DotLine) : Nat :=
  if (dots.all (! ·)) = false ∧ u.previous = some dots then (if u.repeats < 255 then u.repeats + 1 else 1) else 0

theorem runsCode_ne_nil (dots : DotLine) : runsCode dots ≠ [] := by
  have octets (n : Nat) : runOctets n ≠ [] := by unfold runOctets; split <;> nofun
  have runs (colour : Bool) (n : Nat) : runsFrom colour n dots ≠ [] := by
    induction dots generalizing colour n with
    | nil => nofun
    | cons d r ih =>
      unfold runsFrom
      split
      · exact ih _ _
      · nofun
  unfold runsCode
  cases first : runsFrom false 0 dots with
  | nil => exact absurd first (runs false 0)
  | cons n ns => exact fun none_ => octets n (List.append_eq_nil_iff.1 (by rw [← List.flatMap_cons]; exact none_)).1

/-- A line coded: its octets behind those that wait, its image the previous line's. -/
theorem codeLine_eq (dots : DotLine) (u : Scan) : ∃ marks codeLen, codeLine dots u = { u with
    backlog := u.backlog ++ u.lineCode dots, repeats := u.lineRepeats dots, previous := some dots,
    lineWaits := if u.lineCode dots = [] then u.lineWaits else true,
    coded := if u.lineCode dots = [] then min 6912 (u.coded + 1) else u.coded, marks, codeLen } := by
  have flushed (code : List Byte) (some_ : code ≠ []) : ∃ marks codeLen,
      ({ ({ emit code 1 (flushRepeat u) with lineWaits := true } : Scan) with previous := some dots } : Scan) = { u with
        backlog := u.backlog ++ (repeatCode u.repeats ++ code), repeats := 0, previous := some dots,
        lineWaits := if repeatCode u.repeats ++ code = [] then u.lineWaits else true,
        coded := if repeatCode u.repeats ++ code = [] then min 6912 (u.coded + 1) else u.coded, marks, codeLen } := by
    obtain ⟨marks, codeLen, flushes⟩ := flushRepeat_eq u
    rw [flushes]
    obtain ⟨marks', codeLen', emits⟩ := emit_eq code 1
      { u with backlog := u.backlog ++ repeatCode u.repeats, repeats := 0, marks, codeLen }
    have more : ¬repeatCode u.repeats ++ code = [] := fun none_ => some_ (List.append_eq_nil_iff.1 none_).2
    refine ⟨marks', codeLen', ?_⟩
    rw [emits, if_neg more, if_neg more, List.append_assoc]
  unfold codeLine
  by_cases white : dots.all (! ·) = true
  · have code : u.lineCode dots = repeatCode u.repeats ++ [0xC3] := if_pos white
    have repeats : u.lineRepeats dots = 0 := if_neg (by rw [white]; nofun)
    rw [if_pos white, code, repeats]
    exact flushed [0xC3] nofun
  · by_cases same : u.previous = some dots
    · have code : u.lineCode dots = if u.repeats < 255 then [] else [0xC2, 0xFF] := (if_neg white).trans (if_pos same)
      have repeats : u.lineRepeats dots = if u.repeats < 255 then u.repeats + 1 else 1 :=
        if_pos ⟨eq_false_of_ne_true white, same⟩
      rw [if_neg white, if_pos same, code, repeats]
      by_cases few : u.repeats < 255
      · rw [if_pos few, if_pos few, if_pos few, if_pos rfl, if_pos rfl, List.append_nil]
        exact ⟨_, _, rfl⟩
      · obtain ⟨marks, codeLen, emits⟩ := emit_eq [0xC2, 0xFF] 255 u
        rw [if_neg few, if_neg few, if_neg few, if_neg (by nofun), if_neg (by nofun), emits]
        exact ⟨marks, codeLen, rfl⟩
    · have code : u.lineCode dots = repeatCode u.repeats ++ runsCode dots := (if_neg white).trans (if_neg same)
      have repeats : u.lineRepeats dots = 0 := if_neg fun both => same both.2
      rw [if_neg white, if_neg same, code, repeats]
      exact flushed (runsCode dots) (runsCode_ne_nil dots)

/-! ### The feeder's step (R26) -/

/-- The scan unit with a captured line coded, its octets not yet gathered. -/
def Scan.captured (u : Scan) (samples : List Byte) (paper : Bool) (marks : List (Nat × Nat)) (codeLen : Nat) : Scan :=
  let dots := reduceLine u.settings samples
  { u with
    step := u.step + 1, paper, samples, previous := some dots, backlog := u.lineCode dots, repeats := u.lineRepeats dots,
    lineWaits := decide (u.lineCode dots ≠ []),
    coded := if u.lineCode dots = [] then min 6912 (u.coded + 1) else u.coded, marks, codeLen }

/-- The page's entry, CLIPPED where some dot of the line was clamped (R29). -/
def State.clipping (s : State) (h : PageHandle) (samples : List Byte) : State :=
  if lineClips s.scan.settings samples then s.setEntry h.slot { s.entry h.slot with clipped := true } else s

theorem clipping_eq (s : State) (h : PageHandle) (samples : List Byte) :
    ∃ dir, s.clipping h samples = { s with store := { s.store with dir } } := by
  unfold State.clipping
  split
  · exact ⟨_, rfl⟩
  · exact ⟨s.store.dir, rfl⟩

/-- A feeder step that captures no line counts alone. -/
theorem feederStep_counts {samples : List Byte} {paper : Bool} (on : s.power = true) (scanning : s.scan.state = .scanning)
    (page : s.scan.page = some h) (none_ : s.scan.backlog = []) (goes : s.scan.ending = none)
    (later : s.scan.endStep ≠ some s.scan.step) (short : s.scan.step < 6912)
    (between : s.scan.step % captureStride s.scan.settings.cls ≠ 0) :
    exec (.feederStep samples paper) s = .next { s with scan := { s.scan with step := s.scan.step + 1, paper } } := by
  have due : (sensePaper paper s).scan.state = .scanning ∧ (sensePaper paper s).scan.page.isSome ∧
      (sensePaper paper s).scan.backlog = [] ∧ (sensePaper paper s).scan.ending = none :=
    ⟨scanning, by show s.scan.page.isSome = true; rw [page]; rfl, none_, goes⟩
  have steps : feederStep samples (sensePaper paper s) = { s with scan := { s.scan with step := s.scan.step + 1, paper } } := by
    unfold feederStep
    refine (if_pos due).trans ((if_neg (by exact later)).trans ((if_neg (by exact Nat.ne_of_lt short)).trans
      ((if_neg (by exact between)).trans rfl)))
  exact (exec_event (act := fun s => scanRetry (feederStep samples (sensePaper paper s))) on rfl).trans
    (congrArg _ ((congrArg scanRetry steps).trans (scanRetry_eq (by show s.scan.state ≠ _; rw [scanning]; nofun))))

/-- A feeder step that captures a line codes it and gathers its octets. -/
theorem feederStep_captures {samples : List Byte} {paper : Bool} (on : s.power = true) (scanning : s.scan.state = .scanning)
    (page : s.scan.page = some h) (none_ : s.scan.backlog = []) (waits : s.scan.lineWaits = false) (goes : s.scan.ending = none)
    (later : s.scan.endStep ≠ some s.scan.step) (short : s.scan.step < 6912)
    (due : s.scan.step % captureStride s.scan.settings.cls = 0) :
    ∃ marks codeLen, exec (.feederStep samples paper) s = .next (scanRetry (pump 8
      { s.clipping h samples with scan := s.scan.captured samples paper marks codeLen })) := by
  have may : (sensePaper paper s).scan.state = .scanning ∧ (sensePaper paper s).scan.page.isSome ∧
      (sensePaper paper s).scan.backlog = [] ∧ (sensePaper paper s).scan.ending = none :=
    ⟨scanning, by show s.scan.page.isSome = true; rw [page]; rfl, none_, goes⟩
  obtain ⟨marks, codeLen, codes⟩ := codeLine_eq (reduceLine s.scan.settings samples)
    { s.scan with step := s.scan.step + 1, paper }
  refine ⟨marks, codeLen, (exec_event (act := fun s => scanRetry (feederStep samples (sensePaper paper s))) on rfl).trans
    (congrArg (fun t => Host.Outcome.next (scanRetry t)) ?_)⟩
  let v : State := (sensePaper paper s).modScan fun u => { u with step := s.scan.step + 1 }
  have captures : feederStep samples (sensePaper paper s) = captureLine samples v := by
    unfold feederStep
    exact (if_pos may).trans ((if_neg (by exact later)).trans ((if_neg (by exact Nat.ne_of_lt short)).trans
      (if_pos (by exact due))))
  have line : ({ codeLine (reduceLine s.scan.settings samples) v.scan with samples } : Scan) =
      s.scan.captured samples paper marks codeLen := by
    refine (congrArg (fun u : Scan => ({ u with samples } : Scan)) codes).trans ?_
    unfold Scan.captured
    dsimp only
    have code : ({ s.scan with step := s.scan.step + 1, paper } : Scan).lineCode (reduceLine s.scan.settings samples) =
        s.scan.lineCode (reduceLine s.scan.settings samples) := rfl
    have repeats : ({ s.scan with step := s.scan.step + 1, paper } : Scan).lineRepeats (reduceLine s.scan.settings samples) =
        s.scan.lineRepeats (reduceLine s.scan.settings samples) := rfl
    rw [code, repeats, none_, List.nil_append, waits]
    by_cases empty : s.scan.lineCode (reduceLine s.scan.settings samples) = []
    · rw [if_pos empty, if_pos empty, decide_eq_false (not_not_intro empty)]
    · rw [if_neg empty, if_neg empty, decide_eq_true empty]
  rw [captures]
  unfold captureLine
  rw [show v.scan.page = some h from page]
  unfold State.clipping
  show pump 8 ((if lineClips s.scan.settings samples = true then v.modEntry h.slot fun e => { e with clipped := true }
    else v).modScan fun u => { codeLine (reduceLine s.scan.settings samples) u with samples }) = _
  by_cases clips : lineClips s.scan.settings samples = true
  · rw [if_pos clips, if_pos clips]
    exact congrArg (fun u => pump 8 { s.setEntry h.slot { s.entry h.slot with clipped := true } with scan := u }) line
  · rw [if_neg clips, if_neg clips]
    exact congrArg (fun u => pump 8 { s with scan := u }) line

end

end Sys2Proof.Machine
end

section
/-! PROOFS. The feeder's obligation: what one step leaves in the buffers, and the block asked for, held or cut (R26, R34, R35, R40, R42). -/

namespace Sys2Proof.Machine

section
variable {s : State}

/-- A line counts as coded once: as a repeat at once, otherwise with its last octet in a buffer (R34, R35). -/
theorem coded_once {empty fits : Prop} [Decidable empty] [Decidable fits] (n : Nat) (short : empty → fits) :
    (if decide (¬empty) = true ∧ fits then min 6912 ((if empty then min 6912 (n + 1) else n) + 1)
      else if empty then min 6912 (n + 1) else n) = if fits then min 6912 (n + 1) else n := by
  by_cases none_ : empty
  · have fit := short none_
    simp [none_, fit]
  · simp [none_]

/-- With the other buffer in use, or both together not full, the line's octets are placed. -/
theorem Scan.captured_place (u : Scan) (samples : List Byte) (paper : Bool) (marks : List (Nat × Nat)) (codeLen : Nat)
    (room : u.filling.length ≤ 256) (all : List Byte)
    (is_all : u.filling ++ u.lineCode (reduceLine u.settings samples) = all) :
    (u.captured samples paper marks codeLen).place = { u with
      step := u.step + 1, paper, samples, previous := some (reduceLine u.settings samples), filling := all.take 256,
      backlog := all.drop 256, lineWaits := decide (256 < all.length),
      repeats := u.lineRepeats (reduceLine u.settings samples),
      coded := if all.length ≤ 256 then min 6912 (u.coded + 1) else u.coded, marks, codeLen } := by
  have short (none_ : u.lineCode (reduceLine u.settings samples) = []) : all.length ≤ 256 := by
    rw [← is_all, none_, List.append_nil]
    exact room
  have waits : (decide (u.lineCode (reduceLine u.settings samples) ≠ []) && decide (256 < all.length)) =
      decide (256 < all.length) := by
    rw [Bool.and_eq_right_iff_imp, decide_eq_true_iff, decide_eq_true_iff]
    exact fun many none_ => absurd (short none_) (by omega)
  have placed := Scan.place_eq (u := u.captured samples paper marks codeLen) (by exact room)
  have is_waiting : (u.captured samples paper marks codeLen).waiting = all := is_all
  rw [is_waiting] at placed
  exact placed.trans (congrArg₂ (fun (lineWaits : Bool) (coded : Nat) => ({ u with
    step := u.step + 1, paper, samples, previous := some (reduceLine u.settings samples), filling := all.take 256,
    backlog := all.drop 256, lineWaits, repeats := u.lineRepeats (reduceLine u.settings samples), coded, marks,
    codeLen } : Scan)) waits (coded_once u.coded short))

/-- A line that fills the buffer: its block full, the octets left in the other buffer, those past it waiting. -/
theorem Scan.captured_filled (u : Scan) (samples : List Byte) (paper : Bool) (marks : List (Nat × Nat)) (codeLen : Nat)
    (room : u.filling.length ≤ 256) (all : List Byte)
    (is_all : u.filling ++ u.lineCode (reduceLine u.settings samples) = all) :
    (u.captured samples paper marks codeLen).filled = { u with
      step := u.step + 1, paper, samples, previous := some (reduceLine u.settings samples),
      full := some (all.take 256), filling := (all.drop 256).take 256,
      backlog := all.drop 512, lineWaits := decide (512 < all.length),
      repeats := u.lineRepeats (reduceLine u.settings samples),
      coded := if all.length ≤ 512 then min 6912 (u.coded + 1) else u.coded, marks, codeLen } := by
  have short (none_ : u.lineCode (reduceLine u.settings samples) = []) : all.length ≤ 512 := by
    rw [← is_all, none_, List.append_nil]
    omega
  have waits : (decide (u.lineCode (reduceLine u.settings samples) ≠ []) && decide (512 < all.length)) =
      decide (512 < all.length) := by
    rw [Bool.and_eq_right_iff_imp, decide_eq_true_iff, decide_eq_true_iff]
    exact fun many none_ => absurd (short none_) (by omega)
  have is_waiting : (u.captured samples paper marks codeLen).waiting = all := is_all
  unfold Scan.filled
  rw [is_waiting]
  exact congrArg₂ (fun (lineWaits : Bool) (coded : Nat) => ({ u with
    step := u.step + 1, paper, samples, previous := some (reduceLine u.settings samples), full := some (all.take 256),
    filling := (all.drop 256).take 256, backlog := all.drop 512, lineWaits,
    repeats := u.lineRepeats (reduceLine u.settings samples), coded, marks, codeLen } : Scan)) waits
    (coded_once u.coded short)

/-- A held job whose block is refused again stays as it is. -/
theorem scanRetry_refused {h : PageHandle} {data : List Byte} (held : s.scan.state = .held) (page : s.scan.page = some h)
    (full : s.scan.full = some data) (refused : allocTest s (s.entry h.slot) .scan = .storeFull) : scanRetry s = s := by
  unfold scanRetry
  split
  · rw [presentBlock_refused page full refused nofun]
    exact if_neg (by rw [held]; nofun)
  · rfl

/-- What a captured line leaves of the part but the scan unit, the page's entry and the requests. -/
theorem clipping_entry (h : PageHandle) (samples : List Byte) : (s.clipping h samples).entry h.slot =
    { s.entry h.slot with clipped := (s.entry h.slot).clipped || lineClips s.scan.settings samples } := by
  unfold State.clipping
  cases lineClips s.scan.settings samples with
  | true => rw [if_pos rfl, State.entry_setEntry_self, Bool.or_true]
  | false => rw [if_neg nofun, Bool.or_false]

theorem clipping_others (h : PageHandle) (samples : List Byte) {k : Nat} (other : k ≠ h.slot) :
    (s.clipping h samples).entry k = s.entry k := by
  unfold State.clipping
  split
  · exact State.entry_setEntry_ne _ _ other
  · rfl

theorem State.entry_withScan (s : State) (u : Scan) (k : Nat) : ({ s with scan := u } : State).entry k = s.entry k := rfl

/-- Neither the clipped mark nor the scan unit plays a part in it. -/
theorem allocTest_clipping (h : PageHandle) (samples : List Byte) (u : Scan) :
    allocTest { s.clipping h samples with scan := u } (({ s.clipping h samples with scan := u } : State).entry h.slot) .scan =
      allocTest s (s.entry h.slot) .scan := by
  have entry := clipping_entry (s := s) h samples
  rw [State.entry_withScan, entry]
  obtain ⟨dir, clips⟩ := clipping_eq s h samples
  rw [clips]
  rfl

end

section
variable {samples : List Byte} {paper : Bool} {h : PageHandle} {s : State} {all : List Byte}

/-- A captured line whose octets leave no block to be asked for. -/
theorem feeder_places (on : s.power = true) (scanning : s.scan.state = .scanning)
    (page : s.scan.page = some h) (none_ : s.scan.backlog = []) (waits : s.scan.lineWaits = false) (goes : s.scan.ending = none)
    (later : s.scan.endStep ≠ some s.scan.step) (short : s.scan.step < 6912)
    (due : s.scan.step % captureStride s.scan.settings.cls = 0) (room : s.scan.filling.length ≤ 256)
    (is_all : s.scan.filling ++ s.scan.lineCode (reduceLine s.scan.settings samples) = all)
    (idle : s.scan.full ≠ none ∨ all.length < 256) :
    ∃ marks codeLen, exec (.feederStep samples paper) s = .next { s.clipping h samples with scan := { s.scan with
      step := s.scan.step + 1, paper, samples, previous := some (reduceLine s.scan.settings samples), filling := all.take 256,
      backlog := all.drop 256, lineWaits := decide (256 < all.length),
      repeats := s.scan.lineRepeats (reduceLine s.scan.settings samples),
      coded := if all.length ≤ 256 then min 6912 (s.scan.coded + 1) else s.scan.coded, marks, codeLen } } := by
  obtain ⟨marks, codeLen, row⟩ := feederStep_captures (samples := samples) (paper := paper) on scanning page none_ waits goes
    later short due
  have is_waiting : (s.scan.captured samples paper marks codeLen).waiting = all := is_all
  have places := pump_places (n := 7) (s := { s.clipping h samples with scan := s.scan.captured samples paper marks codeLen })
    (by show s.scan.page.isSome = true; rw [page]; rfl) (by exact room)
    (idle.imp (fun used => used) fun few => by show (s.scan.captured samples paper marks codeLen).waiting.length < 256; rw [is_waiting]; exact few)
  have placed := Scan.captured_place s.scan samples paper marks codeLen room all is_all
  rw [show ({ s.clipping h samples with scan := s.scan.captured samples paper marks codeLen } : State).scan.place = _ from placed] at places
  refine ⟨marks, codeLen, ?_⟩
  rw [row, places, scanRetry_eq (by show s.scan.state ≠ _; rw [scanning]; nofun)]

/-- The scan unit with a captured line's octets in its buffers, a block of them full. -/
def Scan.capturedBlock (u : Scan) (samples : List Byte) (paper : Bool) (all : List Byte) (marks : List (Nat × Nat))
    (codeLen : Nat) : Scan := { u with
  step := u.step + 1, paper, samples, previous := some (reduceLine u.settings samples), full := some (all.take 256),
  filling := (all.drop 256).take 256, backlog := all.drop 512, lineWaits := decide (512 < all.length),
  repeats := u.lineRepeats (reduceLine u.settings samples),
  coded := if all.length ≤ 512 then min 6912 (u.coded + 1) else u.coded, marks, codeLen }

/-- A captured line that fills its buffer, the block taken: it is asked to be written. -/
theorem feeder_asks (on : s.power = true) (scanning : s.scan.state = .scanning)
    (page : s.scan.page = some h) (none_ : s.scan.backlog = []) (waits : s.scan.lineWaits = false) (goes : s.scan.ending = none)
    (later : s.scan.endStep ≠ some s.scan.step) (short : s.scan.step < 6912)
    (due : s.scan.step % captureStride s.scan.settings.cls = 0) (room : s.scan.filling.length ≤ 256)
    (is_all : s.scan.filling ++ s.scan.lineCode (reduceLine s.scan.settings samples) = all)
    (many : 256 ≤ all.length) (free : s.scan.full = none) (passes : allocTest s (s.entry h.slot) .scan = .pass) :
    ∃ marks codeLen, exec (.feederStep samples paper) s = .next { s.clipping h samples with
      scan := s.scan.capturedBlock samples paper all marks codeLen
      store := { (s.clipping h samples).store with
        waiting := (s.clipping h samples).store.waiting ++ [scanBlock h (all.take 256)] } } := by
  obtain ⟨marks, codeLen, row⟩ := feederStep_captures (samples := samples) (paper := paper) on scanning page none_ waits goes
    later short due
  have is_waiting : (s.scan.captured samples paper marks codeLen).waiting = all := is_all
  have test := allocTest_clipping (s := s) h samples (s.scan.captured samples paper marks codeLen)
  rw [passes] at test
  generalize s.clipping h samples = v at row test ⊢
  have asks := pump_passes (n := 6) (h := h) (s := { v with scan := s.scan.captured samples paper marks codeLen })
    (by exact page) (by exact room) (by exact free) (by rw [is_waiting]; exact many) test
  have filled := Scan.captured_filled s.scan samples paper marks codeLen room all is_all
  rw [show ({ v with scan := s.scan.captured samples paper marks codeLen } : State).scan.filled = _ from filled,
    show ({ v with scan := s.scan.captured samples paper marks codeLen } : State).scan.waiting = all from is_waiting] at asks
  refine ⟨marks, codeLen, ?_⟩
  rw [row, asks, scanRetry_eq (by show s.scan.state ≠ _; rw [scanning]; nofun)]
  rfl

/-- A captured line that fills its buffer, the block refused for the store: the job is HELD. -/
theorem feeder_holds (on : s.power = true) (scanning : s.scan.state = .scanning)
    (page : s.scan.page = some h) (none_ : s.scan.backlog = []) (waits : s.scan.lineWaits = false) (goes : s.scan.ending = none)
    (later : s.scan.endStep ≠ some s.scan.step) (short : s.scan.step < 6912)
    (due : s.scan.step % captureStride s.scan.settings.cls = 0) (room : s.scan.filling.length ≤ 256)
    (is_all : s.scan.filling ++ s.scan.lineCode (reduceLine s.scan.settings samples) = all)
    (many : 256 ≤ all.length) (free : s.scan.full = none) (refused : allocTest s (s.entry h.slot) .scan = .storeFull) :
    ∃ marks codeLen, exec (.feederStep samples paper) s =
      .next (raise .scanHeld (ePage h ++ e16 s.freeCount ++ e16 s.cfg.receptionReserve) { s.clipping h samples with
        scan := { s.scan.capturedBlock samples paper all marks codeLen with state := .held, holdTime := 0 } }) := by
  obtain ⟨marks, codeLen, row⟩ := feederStep_captures (samples := samples) (paper := paper) on scanning page none_ waits goes
    later short due
  have is_waiting : (s.scan.captured samples paper marks codeLen).waiting = all := is_all
  have test := allocTest_clipping (s := s) h samples
  have counts : (s.clipping h samples).freeCount = s.freeCount ∧ (s.clipping h samples).cfg = s.cfg := by
    obtain ⟨dir, clips⟩ := clipping_eq s h samples
    rw [clips]
    exact ⟨rfl, rfl⟩
  obtain ⟨count, cfg⟩ := counts
  generalize s.clipping h samples = v at row test count cfg ⊢
  have holds : pump 8 { v with scan := s.scan.captured samples paper marks codeLen } =
      raise .scanHeld (ePage h ++ e16 v.freeCount ++ e16 v.cfg.receptionReserve)
        { v with scan := { (s.scan.captured samples paper marks codeLen).filled with state := .held, holdTime := 0 } } :=
    pump_holds (n := 6) (h := h) (s := { v with scan := s.scan.captured samples paper marks codeLen })
    (by exact scanning) (by exact page) (by exact room) (by exact free) (by rw [is_waiting]; exact many)
    ((test _).trans refused)
  have filled := Scan.captured_filled s.scan samples paper marks codeLen room all is_all
  rw [filled] at holds
  refine ⟨marks, codeLen, ?_⟩
  rw [row, holds, ← count, ← cfg]
  obtain ⟨notices, lost, raised⟩ := raise_frame .scanHeld (ePage h ++ e16 v.freeCount ++ e16 v.cfg.receptionReserve)
    { v with scan := { s.scan.capturedBlock samples paper all marks codeLen with state := .held, holdTime := 0 } }
  refine congrArg Host.Outcome.next ((scanRetry_refused (h := h) (data := all.take 256) ?_ ?_ ?_ ?_).trans rfl)
  · rw [raise_scan]
  · rw [raise_scan]
    exact page
  · rw [raise_scan]
  · have again := test { s.scan.capturedBlock samples paper all marks codeLen with state := .held, holdTime := 0 }
    rw [refused] at again
    exact (congrArg (fun x : State => allocTest x (x.entry h.slot) .scan) raised).trans again

/-- What the document that takes a page rests on. -/
theorem scanTaker_congr {s t : State} {h : PageHandle} (target : t.scan.target = s.scan.target) (docs : t.docs = s.docs)
    (refs : (t.entry h.slot).refs = (s.entry h.slot).refs) : t.scanTaker h = s.scanTaker h := by
  unfold State.scanTaker State.refTaken
  rw [target, docs, refs]

/-- A captured line that fills its buffer, the page's chain full: the page closes TRUNCATED and the sheet is carried out. -/
theorem feeder_limits {e : PageEntry} (on : s.power = true) (scanning : s.scan.state = .scanning)
    (page : s.scan.page = some h) (none_ : s.scan.backlog = []) (waits : s.scan.lineWaits = false) (goes : s.scan.ending = none)
    (later : s.scan.endStep ≠ some s.scan.step) (short : s.scan.step < 6912)
    (due : s.scan.step % captureStride s.scan.settings.cls = 0) (room : s.scan.filling.length ≤ 256)
    (is_all : s.scan.filling ++ s.scan.lineCode (reduceLine s.scan.settings samples) = all)
    (many : 256 ≤ all.length) (free : s.scan.full = none) (refused : allocTest s (s.entry h.slot) .scan = .pageLimit)
    (there : s.page h = some e) (taker : s.scanTaker h = none) :
    ∃ marks codeLen notices lost, exec (.feederStep samples paper) s = .next { (s.clipping h samples).setEntry h.slot
        (((s.clipping h samples).entry h.slot).pinnedBy
          { code := 0, lineCount := s.scan.committed, truncated := true, hold := .scanTarget }) with
      scan := (s.scan.captured samples paper marks codeLen).blocked.limited, link := { s.link with notices, lost } } := by
  obtain ⟨marks, codeLen, row⟩ := feederStep_captures (samples := samples) (paper := paper) on scanning page none_ waits goes
    later short due
  have is_waiting : (s.scan.captured samples paper marks codeLen).waiting = all := is_all
  have test := allocTest_clipping (s := s) h samples (s.scan.captured samples paper marks codeLen)
  rw [refused] at test
  obtain ⟨slot, is_e, live, issue⟩ := State.page_some there
  have entry := clipping_entry (s := s) h samples
  have named : (s.clipping h samples).page h = some ((s.clipping h samples).entry h.slot) :=
    State.page_eq slot (by rw [entry, ← is_e]; exact live) (by rw [entry, ← is_e]; exact issue)
  have same : (s.clipping h samples).scan = s.scan ∧ (s.clipping h samples).docs = s.docs ∧ (s.clipping h samples).link = s.link := by
    obtain ⟨dir, clips⟩ := clipping_eq s h samples
    rw [clips]
    exact ⟨rfl, rfl, rfl⟩
  obtain ⟨scan, docs, link⟩ := same
  have refs : ((s.clipping h samples).entry h.slot).refs = (s.entry h.slot).refs := by rw [entry]
  generalize s.clipping h samples = v at row test named docs refs link ⊢
  have untaken : ({ v with scan := s.scan.captured samples paper marks codeLen } : State).scanTaker h = none :=
    (scanTaker_congr (s := s) (by rfl) (by exact docs) (by exact refs)).trans taker
  obtain ⟨notices, lost, limits⟩ := pump_limits (n := 7) (h := h) (e := v.entry h.slot)
    (s := { v with scan := s.scan.captured samples paper marks codeLen })
    (by exact page) (by exact room) (by exact free) (by rw [is_waiting]; exact many) test (by exact named) untaken
  refine ⟨marks, codeLen, notices, lost, ?_⟩
  rw [row, limits, scanRetry_eq (by nofun), ← link]
  rfl

end

/-- Settles O27. -/
theorem feederStepCodesLine : Obligations.FeederStepCodesLine := by
  refine ⟨fun samples paper s on quiet idle => ?_, fun samples paper h s on scanning page none_ waits goes later short => ?_⟩
  · have still : feederStep samples (sensePaper paper s) = sensePaper paper s := if_neg fun due => by
      obtain ⟨scanning, -, empty, -⟩ := due
      exact idle.elim (fun h => h empty) fun h => h scanning
    exact (exec_event (act := fun s => scanRetry (feederStep samples (sensePaper paper s))) on rfl).trans
      (congrArg _ ((congrArg scanRetry still).trans (scanRetry_eq (by exact quiet))))
  · intro u dots s' pendingRepeat white code repeats
    have is_code : u.filling ++ u.lineCode dots = u.filling ++ code := rfl
    refine ⟨fun between => feederStep_counts on scanning page none_ goes later short between, fun due few => ?_,
      fun due room used => ?_, fun due room many free => ?_⟩
    · have room : u.filling.length ≤ 256 := by omega
      have all : (u.filling ++ code).length < 256 := by rw [List.length_append]; exact few
      obtain ⟨marks, codeLen, row⟩ := feeder_places (samples := samples) (paper := paper) on scanning page none_ waits goes later
        short due room is_code (.inr all)
      rw [List.take_of_length_le (Nat.le_of_lt all), List.drop_of_length_le (Nat.le_of_lt all), if_pos (Nat.le_of_lt all),
        decide_eq_false (by omega), ← none_, ← waits] at row
      exact ⟨marks, codeLen, row⟩
    · exact feeder_places on scanning page none_ waits goes later short due room is_code (.inl used)
    · intro all e filled
      have few : u.filling.length ≤ 256 := by omega
      have size : 256 ≤ all.length := by rw [List.length_append]; exact many
      have clipped : s' = s.clipping h samples := by rw [State.clipping]
      refine ⟨fun fits => ?_, fun full below low => ?_, fun full limit there taker => ?_⟩
      · have passes : allocTest s (s.entry h.slot) .scan = .pass :=
          fits.elim allocTest_room fun more => allocTest_segment _ more.1 more.2
        have row := feeder_asks (samples := samples) (paper := paper) on scanning page none_ waits goes later short due few
          is_code size free passes
        rw [clipped]
        generalize s.clipping h samples = v at row ⊢
        exact row
      · have row := feeder_holds (samples := samples) (paper := paper) on scanning page none_ waits goes later short due few
          is_code size free (allocTest_storeFull (.inl rfl) full below low)
        rw [clipped]
        generalize s.clipping h samples = v at row ⊢
        exact row
      · obtain ⟨marks, codeLen, notices, lost, row⟩ := feeder_limits (samples := samples) (paper := paper) on scanning page none_
          waits goes later short due few is_code size free (allocTest_limit _ full limit) there taker
        obtain ⟨-, is_e, -, -⟩ := State.page_some there
        have entry := clipping_entry (s := s) h samples
        have others := fun k => clipping_others (s := s) h samples (k := k)
        obtain ⟨dir, clips⟩ := clipping_eq s h samples
        rw [clipped]
        generalize s.clipping h samples = v at row entry others clips ⊢
        refine ⟨_, row, ?_, rfl, rfl, rfl, rfl, rfl, rfl, rfl, fun k other => ?_, ?_, ?_⟩
        · refine (State.entry_setEntry_self ..).trans ?_
          rw [entry, ← is_e]
          unfold PageEntry.pinnedBy PageEntry.closedBy
          dsimp only
          rw [clamp_eq, Nat.zero_max, Bool.or_true]
        · exact (State.entry_setEntry_ne _ _ other).trans (others k other)
        · rw [clips]
          intro p other
          cases p <;> first | rfl | exact absurd (by decide) other
        · exact ⟨notices, lost, rfl⟩

end Sys2Proof.Machine
end

section
/-! PROOFS. A scanned page's end: its close at once, with the reference of its document, or by its final block (R9, R27, R38). -/

namespace Sys2Proof.Machine

section
variable {h : PageHandle} {e : PageEntry} {s : State} {d : DocHandle} {c : CloseReq} {ending : PageEnding}

/-! ### The page's close (R9, R38, R39) -/

/-- A page that its document takes as it closes. -/
def PageEntry.takenBy (e : PageEntry) (c : CloseReq) : PageEntry := { e.closedBy c with refs := min 4095 (e.refs + 1) }

/-- The part as the scan unit's page has closed and joined its document. -/
def State.taking (s : State) (h : PageHandle) (e : PageEntry) (c : CloseReq) (d : DocHandle) : State :=
  { s.setEntry h.slot (e.takenBy c) with
    docs := { s.docs with docs := s.docs.docs.modify d.slot fun x => { x with pages := x.pages ++ [h] } } }

theorem PageEntry.closedBy_eq (e : PageEntry) (c : CloseReq) : e.closedBy c = { e with
    state := .closed, writer := none, lineCount := min 6912 c.lineCount, truncated := e.truncated || c.truncated,
    pending := [] } := by
  unfold PageEntry.closedBy
  rw [clamp_eq, Nat.zero_max]

/-- A close whose page a document takes: the entry with its reference, the document's list with the page, PAGE_CLOSED. -/
theorem finishClose_taken (there : s.page h = some e) (hold : c.hold = .scanTarget) (taker : s.scanTaker h = some d) :
    finishClose false h c s = raise .pageClosed (pageClosedFields h (e.closedBy c)) (s.taking h e c d) := by
  obtain ⟨-, same, -, -⟩ := State.page_some there
  have closed : s.modEntry h.slot (fun e => e.closedBy c) = s.setEntry h.slot (e.closedBy c) := by
    rw [State.modEntry, ← same]
  have entry : (s.setEntry h.slot (e.closedBy c)).entry h.slot = e.closedBy c := State.entry_setEntry_self ..
  have some_ : (s.setEntry h.slot (e.closedBy c)).scanTaker h = some d := by
    rw [← taker]
    unfold State.scanTaker State.refTaken
    rw [entry, ← same]
    rfl
  have refs : (s.setEntry h.slot (e.closedBy c)).modEntry h.slot PageEntry.referenced = s.setEntry h.slot (e.takenBy c) := by
    unfold State.modEntry
    rw [entry, State.setEntry_setEntry]
    rfl
  have applied : applyHold c.hold h (s.setEntry h.slot (e.closedBy c)) = s.taking h e c d := by
    rw [hold]
    unfold applyHold
    dsimp only
    rw [some_]
    dsimp only
    rw [refs]
    rfl
  have page : (s.taking h e c d).page h = some (e.takenBy c) := State.page_setEntry there nofun rfl
  unfold finishClose
  show releaseTest h (raiseUnless false .pageClosed (pageClosedFields h ((applyHold c.hold h
    (s.modEntry h.slot fun e => e.closedBy c)).entry h.slot)) (applyHold c.hold h (s.modEntry h.slot fun e => e.closedBy c)))
    = _
  rw [closed, applied]
  have read : (s.taking h e c d).entry h.slot = e.takenBy c := State.entry_setEntry_self ..
  rw [read]
  show releaseTest h (raise .pageClosed (pageClosedFields h (e.closedBy c)) (s.taking h e c d)) = _
  refine releaseTest_stays (e := e.takenBy c) ?_ (.inr (.inl (by show 0 < min 4095 (e.refs + 1); omega)))
  rw [State.page_congr (s := s.taking h e c d) (by rw [raise_store]), page]

/-! ### The end of the page (R38) -/

theorem flushRepeat_none {u : Scan} (none_ : u.repeats = 0) : flushRepeat u = u := by
  unfold flushRepeat
  rw [none_]
  show ({ u with repeats := 0 } : Scan) = u
  rw [← none_]

/-- Less than a block in the buffer and nothing behind it stays there. -/
theorem Scan.place_still {u : Scan} (few : u.filling.length < 256) (left : u.backlog = []) (waits : u.lineWaits = false) :
    u.place = u := by
  have waiting : u.waiting = u.filling := by
    rw [Scan.waiting, left, List.append_nil]
  rw [Scan.place_eq (Nat.le_of_lt few), waiting, List.take_of_length_le (Nat.le_of_lt few),
    List.drop_of_length_le (Nat.le_of_lt few), if_neg (by rw [waits]; simp), ← left, waits, Bool.false_and, ← waits]

/-- With no repeat pending and less than a block in the buffer, the end of the page asks for no whole block. -/
theorem endSheetPage_short (page : s.scan.page = some h) (none_ : s.scan.repeats = 0) (few : s.scan.filling.length < 256)
    (left : s.scan.backlog = []) (waits : s.scan.lineWaits = false) :
    endSheetPage ending s = tryEnd { s with scan := { s.scan with ending := some ending } } := by
  have waiting : ({ s.scan with ending := some ending } : Scan).waiting = s.scan.filling := by
    show s.scan.filling ++ s.scan.backlog = _
    rw [left, List.append_nil]
  have placed : ({ s.scan with ending := some ending } : Scan).place = { s.scan with ending := some ending } :=
    Scan.place_still (by exact few) (by exact left) (by exact waits)
  have flushed : s.modScan (fun u => { flushRepeat u with ending := some ending }) =
      { s with scan := { s.scan with ending := some ending } } :=
    congrArg (fun u : Scan => ({ s with scan := { u with ending := some ending } } : State)) (flushRepeat_none none_)
  unfold endSheetPage
  rw [flushed, pump_places (n := 7) (by show s.scan.page.isSome = true; rw [page]; rfl) (by exact Nat.le_of_lt few)
    (.inr (by rw [show ({ s with scan := { s.scan with ending := some ending } } : State).scan.waiting = _ from waiting]; exact few))]
  exact congrArg (fun u : Scan => tryEnd { s with scan := u }) placed

/-- The request that closes a scanned page. -/
def Scan.closing (u : Scan) (ending : PageEnding) : CloseReq :=
  { code := 0, lineCount := u.committed + (u.marks.map (·.2)).sum, truncated := decide (ending ≠ .trailingEdge),
    hold := .scanTarget }

/-- A page that has ended with nothing left to write closes. -/
theorem tryEnd_closes (page : s.scan.page = some h) (ended : s.scan.ending = some ending) (free : s.scan.full = none)
    (left : s.scan.backlog = []) (none_ : s.scan.filling = []) (scanning : s.scan.state = .scanning)
    (quiet : s.outstanding .scan = false) : tryEnd s = pageDone ending (finishClose false h (s.scan.closing ending) s) := by
  have may : s.scan.full = none ∧ s.scan.backlog = [] ∧ s.scan.filling.length < 256 ∧ s.scan.state = .scanning ∧
      (!s.outstanding .scan) = true := ⟨free, left, by rw [none_]; exact Nat.zero_lt_succ _, scanning, by rw [quiet]; rfl⟩
  unfold tryEnd startClose
  rw [page, ended]
  dsimp only
  rw [if_pos may, if_neg (fun both => both.1 none_), if_pos none_]
  rfl

/-- The scan unit's request for its page's final block. -/
def finalScanBlock (h : PageHandle) (code : List Byte) (req : CloseReq) : Request :=
  { client := .scan, level := 1, op := .write h (finalBlock code) (some { req with code := code.length }) }

/-- A page that has ended with octets left asks for its final block. -/
theorem tryEnd_writes (page : s.scan.page = some h) (ended : s.scan.ending = some ending) (free : s.scan.full = none)
    (left : s.scan.backlog = []) (some_ : s.scan.filling ≠ []) (few : s.scan.filling.length < 256)
    (scanning : s.scan.state = .scanning) (quiet : s.outstanding .scan = false)
    (passes : allocTest s (s.entry h.slot) .scan = .pass) :
    tryEnd s = { s with
      scan := { s.scan with filling := [] }
      store := { s.store with
        waiting := s.store.waiting ++ [finalScanBlock h s.scan.filling (s.scan.closing ending)] } } := by
  have may : s.scan.full = none ∧ s.scan.backlog = [] ∧ s.scan.filling.length < 256 ∧ s.scan.state = .scanning ∧
      (!s.outstanding .scan) = true := ⟨free, left, few, scanning, by rw [quiet]; rfl⟩
  unfold tryEnd startClose
  rw [page, ended]
  dsimp only
  rw [if_pos may, if_neg (by rw [passes]; exact fun both => nomatch both.2), if_neg some_, askWrite_pass _ _ passes]
  rfl

/-- The scan unit after a page's close, before the sensor or the ejection (R38). -/
def Scan.pageOver (u : Scan) : Scan :=
  { u.emptied with page := none, pagesClosed := min 65535 (u.pagesClosed + 1) }

theorem pageDone_ejects (s : State) : pageDone .length s =
    { s with scan := { s.scan.pageOver with state := .ejecting, nextSheet := true } } := rfl

theorem pageDone_empty (empty : s.scan.paper = false) : pageDone .trailingEdge s =
    { s with scan := { s.scan.pageOver with state := .idle, endCause := .empty } } := by
  show nextSheetOrEnd { s with scan := s.scan.pageOver } = _
  unfold nextSheetOrEnd
  exact if_neg (by show ¬s.scan.paper = true; rw [empty]; nofun)

/-! ### The feeder's step at the page's end (R26, R27) -/

/-- The part as the last step of a page has counted. -/
def State.ended (s : State) (paper : Bool) (ending : PageEnding) : State :=
  { s with scan := { s.scan with step := s.scan.step + 1, paper, ending := some ending } }

theorem feederStep_ends {samples : List Byte} {paper : Bool} (on : s.power = true) (scanning : s.scan.state = .scanning)
    (page : s.scan.page = some h) (left : s.scan.backlog = []) (waits : s.scan.lineWaits = false) (goes : s.scan.ending = none)
    (few : s.scan.filling.length < 256) (none_ : s.scan.repeats = 0)
    (due : s.scan.endStep = some s.scan.step ∧ ending = .trailingEdge ∨
      s.scan.endStep ≠ some s.scan.step ∧ s.scan.step = 6912 ∧ ending = .length) :
    exec (.feederStep samples paper) s = .next (scanRetry (tryEnd (s.ended paper ending))) := by
  have may : (sensePaper paper s).scan.state = .scanning ∧ (sensePaper paper s).scan.page.isSome ∧
      (sensePaper paper s).scan.backlog = [] ∧ (sensePaper paper s).scan.ending = none :=
    ⟨scanning, by show s.scan.page.isSome = true; rw [page]; rfl, left, goes⟩
  have ends : feederStep samples (sensePaper paper s) =
      endSheetPage ending { s with scan := { s.scan with step := s.scan.step + 1, paper } } := by
    unfold feederStep
    refine (if_pos may).trans ?_
    obtain ⟨edge, is_ending⟩ | ⟨later, last, is_ending⟩ := due
    · rw [is_ending]
      exact if_pos (by exact edge)
    · rw [is_ending]
      exact (if_neg (by exact later)).trans (if_pos (by exact last))
  have short := endSheetPage_short (ending := ending) (h := h)
    (s := { s with scan := { s.scan with step := s.scan.step + 1, paper } }) (by exact page) (by exact none_) (by exact few)
    (by exact left) (by exact waits)
  exact (exec_event (act := fun s => scanRetry (feederStep samples (sensePaper paper s))) on rfl).trans
    (congrArg (fun t => Host.Outcome.next (scanRetry t)) (ends.trans short))

/-! ### The final block's commit (R9, R35, R38) -/

theorem closeCommitted_scan (ended : s.scan.ending = some ending) : closeCommitted .scan h c s =
    pageDone ending (finishClose false h c { s with scan := s.scan.countLines (s.entry h.slot).byteLen }) := by
  unfold closeCommitted
  dsimp only
  rw [show (s.modScan (Scan.countLines (s.entry h.slot).byteLen)).scan.ending = some ending from ended]
  rfl

theorem scan_finished {level addr : Nat} {data : List Byte} {paper : Bool} (on : s.power = true)
    (granted : s.store.port = some ⟨⟨.scan, level, .write h data (some c)⟩, addr, false⟩)
    (ended : s.scan.ending = some ending) (there : s.page h = some e) (opened : e.state = .opened)
    (room : e.committed < 16 * e.chain.length) :
    exec (.blockWriteCommit paper) s = .next (scanRetry (pageDone ending (finishClose false h c
      { (moveBlock addr data (freePort s)).setEntry h.slot { e with committed := e.committed + 1, byteLen := e.byteLen + c.code } with
        scan := { s.scan with paper }.countLines (e.byteLen + c.code) }))) := by
  refine (exec_event (act := fun s => scanRetry (writeStep (s.modScan fun u => { u with paper }))) on rfl).trans
    (congrArg (fun t => Host.Outcome.next (scanRetry t)) ?_)
  rw [writeStep_final (s := s.modScan fun u => { u with paper }) granted (takesBlock_room (by exact there) opened room),
    commitBlock_room (s := moveBlock addr data (freePort (s.modScan fun u => { u with paper }))) c.code (by exact there) room]
  rw [closeCommitted_scan (by exact ended), State.entry_setEntry_self]
  rfl

end

end Sys2Proof.Machine
end

section
/-! PROOFS. The obligation on a scanned page's end (R9, R27, R35, R38, R42). -/

namespace Sys2Proof.Machine

section
variable {h : PageHandle} {e : PageEntry} {s : State} {d : DocHandle} {c : CloseReq} {ending : PageEnding}

/-- The pinned page's close, as the end of a sheet leaves the part when nothing is left to write. -/
theorem ended_closes {paper : Bool} (page : s.scan.page = some h) (there : s.page h = some e) (scanning : s.scan.state = .scanning)
    (left : s.scan.backlog = []) (none_ : s.scan.filling = []) (free : s.scan.full = none)
    (quiet : s.outstanding .scan = false) (taker : s.scanTaker h = none) :
    tryEnd (s.ended paper ending) = pageDone ending (raise .pageClosed (pageClosedFields h (e.closedBy (s.scan.closing ending)))
      ((s.ended paper ending).pinning h e (s.scan.closing ending))) := by
  rw [tryEnd_closes (s := s.ended paper ending) (h := h) (ending := ending) (by exact page) rfl (by exact free) (by exact left)
    (by exact none_) (by exact scanning) (by exact quiet)]
  exact congrArg (pageDone ending) (finishClose_pinned (s := s.ended paper ending) (c := s.scan.closing ending) (by exact there)
    rfl (by exact taker))

/-- The part as the scan unit's page has closed with its pin, the scan unit as the end of the page leaves it. -/
theorem pinned_over {v t : State} {u : Scan} {fields : List Byte}
    (goes : t = { raise .pageClosed fields (v.pinning h e c) with scan := u }) :
    t.entry h.slot = e.pinnedBy c ∧ t.scan = u ∧ t.link = (raise .pageClosed fields v).link ∧
      (∀ k, k ≠ h.slot → t.entry k = v.entry k) ∧ OnlyChanges [.store, .scan, .link] v t := by
  have link := raise_link_congr .pageClosed fields (s := v) (t := v.pinning h e c) rfl rfl
  obtain ⟨notices, lost, raised⟩ := raise_frame .pageClosed fields (v.pinning h e c)
  rw [raised] at goes link
  subst goes
  refine ⟨State.entry_setEntry_self .., rfl, link, fun k other => State.entry_setEntry_ne _ _ other, fun p other => ?_⟩
  cases p <;> first | rfl | exact absurd (by decide) other

end

/-- Settles O28. -/
theorem sheetEndClosesPage : Obligations.SheetEndClosesPage := by
  refine ⟨fun h s on active page none_ goes some_ => ?_, fun samples paper h e s on scanning page there last later goes left waits
    empty free none_ quiet taker => ?_, fun samples paper h s on scanning page edge goes left waits some_ few free none_ quiet => ?_,
    fun h level addr data req e s on granted scanning ended there opened room hold taker => ?_,
    fun samples h e s on scanning page there edge goes left waits empty free none_ quiet => ?_⟩
  · have ends : sheetEnd s = { s with scan := { s.scan with endStep := some (s.scan.step + 63) } } := by
      unfold sheetEnd
      refine (if_pos ⟨active, by rw [page]; rfl, none_, goes⟩).trans ?_
      have count : s.scan.step - 1 + 64 = s.scan.step + 63 := by omega
      rw [← count]
      rfl
    exact (exec_event (act := sheetEnd) on rfl).trans (congrArg _ ends)
  · intro closed
    have row := feederStep_ends (samples := samples) (paper := paper) (ending := .length) on scanning page left waits goes
      (by rw [empty]; exact Nat.zero_lt_succ _) none_ (.inr ⟨by rw [last]; exact later, last, rfl⟩)
    have is_closed : e.closedBy (s.scan.closing .length) = closed := by
      rw [PageEntry.closedBy_eq]
      exact congrArg (fun truncated => ({ e with
        state := .closed, writer := none, lineCount := min 6912 (s.scan.committed + (s.scan.marks.map (·.2)).sum), truncated,
        pending := [] } : PageEntry)) (Bool.or_true e.truncated)
    rw [ended_closes page there scanning left empty free quiet taker, pageDone_ejects, scanRetry_eq (by nofun), is_closed,
      raise_scan] at row
    obtain ⟨entry, scan, link, others, only⟩ := pinned_over (v := s.ended paper .length) rfl
    refine ⟨_, row, entry.trans (congrArg (fun x : PageEntry => { x with pins := min 15 (e.pins + 1) }) is_closed), scan,
      link.trans (raise_link_congr _ _ rfl rfl), others, OnlyChanges.trans (t := s.ended paper .length) (fun p other => ?_) only⟩
    cases p <;> first | rfl | exact absurd (by decide) other
  · intro e room
    have passes : allocTest s (s.entry h.slot) .scan = .pass :=
      room.elim allocTest_room fun more => allocTest_segment _ more.1 more.2
    have row := feederStep_ends (samples := samples) (paper := paper) (ending := .trailingEdge) on scanning page left waits goes
      few none_ (.inl ⟨edge, rfl⟩)
    rw [tryEnd_writes (s := s.ended paper .trailingEdge) (h := h) (ending := .trailingEdge) (by exact page) rfl (by exact free)
      (by exact left) (by exact some_) (by exact few) (by exact scanning) (by exact quiet) (by exact passes),
      scanRetry_eq (by show s.scan.state ≠ _; rw [scanning]; nofun)] at row
    rw [row, ← finalBlock_eq few]
    rfl
  · intro done closed
    have row := scan_finished (paper := false) on granted ended there opened room
    have page := State.page_setEntry (s := moveBlock addr data (freePort s)) (h := h) (e := e)
      (e' := { e with committed := e.committed + 1, byteLen := e.byteLen + req.code }) (by exact there)
      (by show e.state ≠ _; rw [opened]; nofun) rfl
    obtain ⟨-, is_e, -, -⟩ := State.page_some there
    have untaken := (scanTaker_congr (h := h) (s := s) (t :=
      { (moveBlock addr data (freePort s)).setEntry h.slot { e with committed := e.committed + 1, byteLen := e.byteLen + req.code } with
        scan := ({ s.scan with paper := false } : Scan).countLines (e.byteLen + req.code) }) rfl rfl
      ((congrArg PageEntry.refs (State.entry_setEntry_self ..)).trans
        (congrArg PageEntry.refs is_e :))).trans taker
    rw [finishClose_pinned (by exact page) hold untaken, pageDone_empty (by rw [raise_scan]; rfl), scanRetry_eq (by nofun),
      raise_scan] at row
    have is_closed : PageEntry.closedBy { e with committed := e.committed + 1, byteLen := e.byteLen + req.code } req = closed :=
      PageEntry.closedBy_eq ..
    rw [is_closed] at row
    obtain ⟨entry, scan, link, others, only⟩ := pinned_over (v :=
      { (moveBlock addr data (freePort s)).setEntry h.slot { e with committed := e.committed + 1, byteLen := e.byteLen + req.code } with
        scan := ({ s.scan with paper := false } : Scan).countLines (e.byteLen + req.code) }) (h := h)
        (e := { e with committed := e.committed + 1, byteLen := e.byteLen + req.code }) (c := req)
        (fields := pageClosedFields h closed) rfl
    refine ⟨_, row, entry.trans (congrArg (fun x : PageEntry => { x with pins := min 15 (e.pins + 1) }) is_closed), scan,
      link.trans (raise_link_congr _ _ rfl rfl), fun k other => (others k other).trans (State.entry_setEntry_ne _ _ other),
      OnlyChanges.trans (t := _) (fun p other => ?_) (only.mono (by decide))⟩
    cases p <;> first | rfl | exact absurd (by decide) other
  · intro lineCount
    have row := feederStep_ends (samples := samples) (paper := false) (ending := .trailingEdge) on scanning page left waits goes
      (by rw [empty]; exact Nat.zero_lt_succ _) none_ (.inl ⟨edge, rfl⟩)
    refine ⟨fun taker few => ?_, fun d target slot issue draft short held => ?_⟩
    · have is_closed : e.closedBy (s.scan.closing .trailingEdge) =
          { e with state := .closed, writer := none, lineCount, pending := [] } := by
        rw [PageEntry.closedBy_eq]
        exact congrArg (fun truncated => ({ e with
          state := .closed, writer := none, lineCount := min 6912 (s.scan.committed + (s.scan.marks.map (·.2)).sum), truncated,
          pending := [] } : PageEntry)) (Bool.or_false e.truncated)
      rw [ended_closes page there scanning left empty free quiet taker, pageDone_empty (by rw [raise_scan]; rfl),
        scanRetry_eq (by nofun), is_closed, raise_scan] at row
      obtain ⟨entry, scan, link, others, only⟩ := pinned_over (v := s.ended false .trailingEdge) rfl
      have pins : min 15 (e.pins + 1) = e.pins + 1 := by omega
      refine ⟨_, row, ?_, scan, link.trans (raise_link_congr _ _ rfl rfl), others,
        OnlyChanges.trans (t := s.ended false .trailingEdge) (fun p other => ?_) only⟩
      · rw [← pins]
        exact entry.trans (congrArg (fun x : PageEntry => { x with pins := min 15 (e.pins + 1) }) is_closed)
      · cases p <;> first | rfl | exact absurd (by decide) other
    · have taker : s.scanTaker h = some d := by
        obtain ⟨-, is_e, -, -⟩ := State.page_some there
        unfold State.scanTaker
        rw [target]
        exact if_pos ⟨slot, issue, draft, short, by rw [State.refTaken_iff, ← is_e]; exact held⟩
      have is_closed : e.takenBy (s.scan.closing .trailingEdge) =
          { e with state := .closed, writer := none, lineCount, pending := [], refs := min 4095 (e.refs + 1) } := by
        unfold PageEntry.takenBy
        rw [PageEntry.closedBy_eq]
        exact congrArg (fun truncated => ({ e with
          state := .closed, writer := none, lineCount := min 6912 (s.scan.committed + (s.scan.marks.map (·.2)).sum), truncated,
          pending := [], refs := min 4095 (e.refs + 1) } : PageEntry)) (Bool.or_false e.truncated)
      have closes := finishClose_taken (s := s.ended false .trailingEdge) (c := s.scan.closing .trailingEdge) (by exact there) rfl
        (by exact taker)
      obtain ⟨notices, lost, raised⟩ := raise_frame .pageClosed (pageClosedFields h (e.closedBy (s.scan.closing .trailingEdge)))
        ((s.ended false .trailingEdge).taking h e (s.scan.closing .trailingEdge) d)
      rw [tryEnd_closes (s := s.ended false .trailingEdge) (h := h) (ending := .trailingEdge) (by exact page) rfl (by exact free)
        (by exact left) (by exact empty) (by exact scanning) (by exact quiet),
        show (s.ended false .trailingEdge).scan.closing .trailingEdge = s.scan.closing .trailingEdge from rfl, closes, raised,
        pageDone_empty (by rfl), scanRetry_eq (by nofun)] at row
      refine ⟨_, row, (State.entry_setEntry_self ..).trans is_closed, Table.get_set_self .., fun k other => Table.get_set_ne _ _ other,
        rfl, target, fun k other => State.entry_setEntry_ne _ _ other, fun p other => ?_⟩
      cases p <;> first | rfl | exact absurd (by decide) other

end Sys2Proof.Machine
end

section
/-! PROOFS. Block writes at the completion of their transfer: the octets moved, the block committed, its writer told (R7, R8, R17). -/

namespace Sys2Proof.Machine

/-! ### The octets moved (R7, R17) -/

/-- The port, the directory's other entries, the memory and the check area, as a block write's transfer leaves them. -/
def BlockMoved (h : PageHandle) (addr : Nat) (data : List Byte) (s t : State) : Prop :=
  t.store.port = none ∧ (∀ k, k ≠ h.slot → t.entry k = s.entry k) ∧
  (∀ i, i < 256 → Memory.read t.mem (256 * addr + i) = data.getD i 0) ∧
  (∀ a, a < 256 * addr ∨ 256 * addr + 256 ≤ a → Memory.read t.mem a = Memory.read s.mem a) ∧
  checkAt t.store.checks addr = Config.checkWord data ∧
  ∀ k, k ≠ addr → checkAt t.store.checks k = checkAt s.store.checks k

section
variable {h : PageHandle} {addr : Nat} {data : List Byte} {s t : State}

theorem blockMoved_of (whole : data.length = 256) (port : t.store.port = none)
    (others : ∀ k, k ≠ h.slot → t.entry k = s.entry k) (mem : t.mem = Memory.writeBlock s.mem addr data)
    (checks : t.store.checks = cellSet s.store.checks addr (Config.checkWord data)) : BlockMoved h addr data s t := by
  have all : data.take 256 = data := List.take_of_length_le (Nat.le_of_eq whole)
  have written : t.mem = Memory.write s.mem (256 * addr) data := by
    rw [mem, Memory.writeBlock, all]
    rfl
  refine ⟨port, others, fun i small => ?_, fun a out => ?_, ?_, fun k other => ?_⟩
  · rw [written, Memory.read_write_in _ _ _ (by omega), List.getD_eq_getElem]
  · rw [written, Memory.read_write_out _ _ _ (by omega)]
  · rw [checks]
    exact cellGet_cellSet_self ..
  · rw [checks]
    exact cellGet_cellSet_ne _ _ _ other

/-! ### The block committed (R7) -/

/-- A page's entry with one more block. -/
def PageEntry.grown (e : PageEntry) (s : State) (code : Nat) : PageEntry := { e with
  chain := if e.needsSegment then e.chain ++ [s.store.pool.toList.headD 0] else e.chain,
  committed := e.committed + 1, byteLen := e.byteLen + code }

/-- The part after a live block's commit: its octets moved, the port free, its page's entry and the pool. -/
structure BlockTaken (h : PageHandle) (addr : Nat) (data : List Byte) (e e' : PageEntry) (s t : State) : Prop where
  others : ∀ k, k ≠ h.slot → t.entry k = s.entry k
  entry : t.entry h.slot = e'
  port : t.store.port = none
  mem : t.mem = Memory.writeBlock s.mem addr data
  checks : t.store.checks = cellSet s.store.checks addr (Config.checkWord data)
  pool : t.store.pool = if e.needsSegment then s.store.pool.tail else s.store.pool

theorem BlockTaken.taken {e e' : PageEntry} (b : BlockTaken h addr data e e' s t) (whole : data.length = 256) :
    BlockMoved h addr data s t ∧ t.store.pool.toList =
      if decide (16 * e.chain.length ≤ e.committed) then s.store.pool.toList.tail else s.store.pool.toList := by
  refine ⟨blockMoved_of whole b.port b.others b.mem b.checks, ?_⟩
  rw [b.pool]
  show _ = if e.needsSegment then _ else _
  split
  · exact SegPool.tail_eq _
  · rfl

/-- The part after a live block's commit, before its writer goes on. -/
def State.committing (s : State) (h : PageHandle) (addr : Nat) (data : List Byte) (e : PageEntry) (code : Nat)
    (lowArmed : Bool) (notices : List Notice) (lost : Nat) : State := { s with
  mem := Memory.writeBlock s.mem addr data
  link := { s.link with notices, lost }
  store := { s.store with
    port := none, checks := cellSet s.store.checks addr (Config.checkWord data), lowArmed,
    pool := if e.needsSegment then s.store.pool.tail else s.store.pool, dir := s.store.dir.set h.slot (e.grown s code) } }

theorem committing_taken (e : PageEntry) (code : Nat) (lowArmed : Bool) (notices : List Notice) (lost : Nat) :
    BlockTaken h addr data e (e.grown s code) s (s.committing h addr data e code lowArmed notices lost) :=
  ⟨fun _ other => State.entry_setEntry_ne _ _ other, State.entry_setEntry_self .., rfl, rfl, rfl, rfl⟩

section
variable {e : PageEntry}

/-- The pool's head is there where the block needs a segment. -/
theorem head_there (some_ : e.needsSegment = true → s.store.pool.toList ≠ []) (needs : e.needsSegment = true) :
    s.store.pool.head = some (s.store.pool.toList.headD 0) := by
  rw [SegPool.head_eq]
  cases pool : s.store.pool.toList with
  | nil => exact absurd pool (some_ needs)
  | cons x xs => rfl

theorem takesBlock_there (page : s.page h = some e) (opened : e.state = .opened)
    (some_ : e.needsSegment = true → s.store.pool.toList ≠ []) : s.takesBlock h = true := by
  unfold State.takesBlock
  rw [page]
  dsimp only
  rw [opened]
  cases needs : e.needsSegment with
  | false => rfl
  | true => rw [head_there some_ needs]; rfl

theorem commitBlock_eq (code : Nat) (page : s.page h = some e) (some_ : e.needsSegment = true → s.store.pool.toList ≠ []) :
    ∃ lowArmed notices lost, commitBlock h code (moveBlock addr data (freePort s)) =
      s.committing h addr data e code lowArmed notices lost := by
  obtain ⟨-, same, -, -⟩ := State.page_some page
  have entry : (moveBlock addr data (freePort s)).entry h.slot = e := same.symm
  have chain : (if e.needsSegment then e.chain ++ s.store.pool.head.toList else e.chain) =
      if e.needsSegment then e.chain ++ [s.store.pool.toList.headD 0] else e.chain := by
    cases needs : e.needsSegment with
    | false => rfl
    | true => rw [head_there some_ needs]; rfl
  have grown : ({ e with
      chain := if e.needsSegment then e.chain ++ s.store.pool.head.toList else e.chain,
      committed := e.committed + 1, byteLen := e.byteLen + code } : PageEntry) = e.grown s code :=
    congrArg (fun chain => ({ e with chain, committed := e.committed + 1, byteLen := e.byteLen + code } : PageEntry)) chain
  let v : State := s.committing h addr data e code s.store.lowArmed s.link.notices s.link.lost
  have commits : commitBlock h code (moveBlock addr data (freePort s)) = if e.needsSegment then lowTest v else v := by
    unfold commitBlock
    rw [entry]
    show (if e.needsSegment = true then lowTest _ else _) = _
    rw [show (moveBlock addr data (freePort s)).store.pool = s.store.pool from rfl, grown]
    rfl
  rw [commits]
  split
  · obtain ⟨lowArmed, notices, lost, test⟩ := lowTest_frame v
    exact ⟨lowArmed, notices, lost, test⟩
  · exact ⟨_, _, _, rfl⟩

/-- The commit counts what the reserve is tested against. -/
theorem committing_free (code : Nat) (lowArmed : Bool) (notices : List Notice) (lost : Nat) :
    (s.committing h addr data e code lowArmed notices lost).freeCount =
      s.freeCount - (if decide (16 * e.chain.length ≤ e.committed) then 1 else 0) := by
  show SegPool.count (if e.needsSegment then s.store.pool.tail else s.store.pool) =
    SegPool.count s.store.pool - (if e.needsSegment then 1 else 0)
  rw [SegPool.count_eq, SegPool.count_eq]
  split
  · rw [SegPool.tail_eq, List.length_tail]
  · rfl

/-- A live block's write has its octets moved and commits, and its writer goes on. -/
theorem writeStep_commits {c : Client} {level : Nat}
    (granted : s.store.port = some ⟨⟨c, level, .write h data none⟩, addr, false⟩) (page : s.page h = some e)
    (opened : e.state = .opened) (some_ : e.needsSegment = true → s.store.pool.toList ≠ []) :
    ∃ lowArmed notices lost, writeStep s = blockCommitted c h (s.committing h addr data e 256 lowArmed notices lost) := by
  obtain ⟨lowArmed, notices, lost, commits⟩ := commitBlock_eq (addr := addr) (data := data) 256 page some_
  refine ⟨lowArmed, notices, lost, ?_⟩
  have takes := takesBlock_there page opened some_
  unfold writeStep
  rw [granted]
  dsimp only
  rw [show (moveBlock addr data (freePort s)).takesBlock h = true from takes, commits]
  rfl

theorem writeStep_finishes {c : Client} {level : Nat} {req : CloseReq}
    (granted : s.store.port = some ⟨⟨c, level, .write h data (some req)⟩, addr, false⟩) (page : s.page h = some e)
    (opened : e.state = .opened) (some_ : e.needsSegment = true → s.store.pool.toList ≠ []) :
    ∃ lowArmed notices lost, writeStep s =
      closeCommitted c h req (s.committing h addr data e req.code lowArmed notices lost) := by
  obtain ⟨lowArmed, notices, lost, commits⟩ := commitBlock_eq (addr := addr) (data := data) req.code page some_
  exact ⟨lowArmed, notices, lost, (writeStep_final granted (takesBlock_there page opened some_)).trans
    (congrArg (closeCommitted c h req) commits)⟩

/-- A void one moves its octets alone. -/
theorem writeStep_void {c : Client} {level : Nat} {close : Option CloseReq}
    (granted : s.store.port = some ⟨⟨c, level, .write h data close⟩, addr, true⟩) :
    writeStep s = moveBlock addr data (freePort s) := by
  unfold writeStep
  rw [granted]
  rfl

end
end

end Sys2Proof.Machine
end

section
/-! PROOFS. What each writer does at its block's commit (R20, R21, R34, R35, R40, R41, R108). -/

namespace Sys2Proof.Machine

section
variable {h : PageHandle} {addr level : Nat} {data left : List Byte} {e : PageEntry} {s : State} {paper : Bool} {tag : Byte}
  {fromPending accepted : Nat} {req : CloseReq} {l : LineNo}

theorem exec_commit (on : s.power = true) :
    exec (.blockWriteCommit paper) s = .next (scanRetry (writeStep (s.modScan fun u => { u with paper }))) :=
  exec_event (act := fun s => scanRetry (writeStep (s.modScan fun u => { u with paper }))) on rfl

/-! ### Uploads (R20, R21) -/

/-- An upload with less than a block left is answered. -/
theorem writeOn_ends (short : left.length < 256) : writeOn tag h left fromPending accepted s = reply 0x11 tag .ok
    (e16 (accepted + (left.length - fromPending)) ++ e32 ((s.entry h.slot).byteLen + left.length))
    ((s.setEntry h.slot { s.entry h.slot with pending := left }).setJob none) := by
  have entry : (s.modEntry h.slot fun e => { e with pending := left }).entry h.slot = { s.entry h.slot with pending := left } :=
    State.entry_setEntry_self ..
  unfold writeOn
  rw [if_neg (by omega)]
  show reply 0x11 tag .ok (e16 _ ++ e32 (((s.modEntry h.slot fun e => { e with pending := left }).entry h.slot).byteLen +
    ((s.modEntry h.slot fun e => { e with pending := left }).entry h.slot).pending.length)) _ = _
  rw [entry]
  rfl

/-- An upload's last whole block. -/
theorem upload_committed (on : s.power = true) (quiet : s.scan.state ≠ .held)
    (granted : s.store.port = some ⟨⟨.hostXfer, level, .write h data none⟩, addr, false⟩) (page : s.page h = some e)
    (opened : e.state = .opened) (some_ : e.needsSegment = true → s.store.pool.toList ≠ [])
    (job : s.link.job = some (.writeData tag h left fromPending accepted)) (few : left.length < 512) :
    ∃ t, exec (.blockWriteCommit paper) s = .next (reply 0x11 tag .ok
        (e16 (accepted + (256 - fromPending) + (left.length - 256)) ++ e32 (e.byteLen + 256 + (left.length - 256))) t) ∧
      BlockTaken h addr data e { e.grown s 256 with pending := left.drop 256 } s t ∧ t.link.job = none ∧
      OnlyChanges [.store, .mem, .link, .scan] s t := by
  obtain ⟨lowArmed, notices, lost, commits⟩ := writeStep_commits (s := s.modScan fun u => { u with paper }) granted
    (by exact page) opened (by exact some_)
  generalize same : (s.modScan fun u => { u with paper }).committing h addr data e 256 lowArmed notices lost = w at commits
  have taken : BlockTaken h addr data e (e.grown s 256) (s.modScan fun u => { u with paper }) w := by
    rw [← same]
    exact committing_taken (s := s.modScan fun u => { u with paper }) ..
  have told : blockCommitted .hostXfer h w = writeOn tag h (left.drop 256) 0 (accepted + (256 - fromPending)) w := by
    unfold blockCommitted
    dsimp only
    rw [show w.link.job = some (.writeData tag h left fromPending accepted) by rw [← same]; exact job]
    rfl
  have ends := writeOn_ends (tag := tag) (h := h) (fromPending := 0) (accepted := accepted + (256 - fromPending)) (s := w)
    (left := left.drop 256) (by rw [List.length_drop]; omega)
  rw [taken.entry, List.length_drop, Nat.sub_zero] at ends
  refine ⟨(w.setEntry h.slot { e.grown s 256 with pending := left.drop 256 }).setJob none, ?_, ?_, rfl, fun p other => ?_⟩
  · rw [exec_commit on, commits, told, ends, scanRetry_eq (by rw [← same]; exact quiet)]
    rfl
  · exact ⟨fun k other => (State.entry_setEntry_ne _ _ other).trans (taken.others k other), State.entry_setEntry_self ..,
      taken.port, taken.mem, taken.checks, taken.pool⟩
  · rw [← same]
    cases p <;> first | rfl | exact absurd (by decide) other

/-- An upload's final block closes its page. -/
theorem upload_finished (on : s.power = true) (quiet : s.scan.state ≠ .held)
    (granted : s.store.port = some ⟨⟨.hostXfer, level, .write h data (some req)⟩, addr, false⟩) (page : s.page h = some e)
    (opened : e.state = .opened) (some_ : e.needsSegment = true → s.store.pool.toList ≠ [])
    (job : s.link.job = some (.closePage tag h)) (hold : req.hold = .none) (pins : 0 < e.pins) :
    ∃ t, exec (.blockWriteCommit paper) s = .next (reply 0x12 tag .ok
        (e32 (e.byteLen + req.code) ++ e16 (e.committed + 1) ++ [((e.grown s req.code).closedBy req).flagsOctet]) t) ∧
      BlockTaken h addr data e ((e.grown s req.code).closedBy req) s t ∧ t.link.job = none ∧
      OnlyChanges [.store, .mem, .link, .scan] s t := by
  obtain ⟨lowArmed, notices, lost, commits⟩ := writeStep_finishes (s := s.modScan fun u => { u with paper }) granted
    (by exact page) opened (by exact some_)
  generalize same : (s.modScan fun u => { u with paper }).committing h addr data e req.code lowArmed notices lost = w at commits
  have taken : BlockTaken h addr data e (e.grown s req.code) (s.modScan fun u => { u with paper }) w := by
    rw [← same]
    exact committing_taken (s := s.modScan fun u => { u with paper }) ..
  have there : w.page h = some (e.grown s req.code) := by
    rw [← same]
    exact State.page_setEntry (s := s) page (by show e.state ≠ _; rw [opened]; nofun) rfl
  have told : closeCommitted .hostXfer h req w = closeUpload tag h req (w.setJob none) := by
    unfold closeCommitted
    dsimp only
    rw [show w.link.job = some (.closePage tag h) by rw [← same]; exact job]
    rfl
  have closes := closeUpload_eq (tag := tag) (c := req) (s := w.setJob none) rfl (by exact there) hold (by exact pins)
  obtain ⟨notices', lost', raised⟩ := raise_frame .pageClosed (pageClosedFields h ((e.grown s req.code).closedBy req))
    ((w.setJob none).setEntry h.slot ((e.grown s req.code).closedBy req))
  rw [raised] at closes
  have row := exec_commit (paper := paper) on
  rw [commits, told, closes, scanRetry_eq (by rw [← same]; exact quiet)] at row
  refine ⟨_, row, ?_, rfl, fun p other => ?_⟩
  · exact ⟨fun k other => (State.entry_setEntry_ne _ _ other).trans (taken.others k other), State.entry_setEntry_self ..,
      taken.port, taken.mem, taken.checks, taken.pool⟩
  · rw [← same]
    cases p <;> first | rfl | exact absurd (by decide) other

/-! ### The scan unit (R34, R35, R40, R41) -/

theorem tryEnd_goes (goes : s.scan.ending = none) : tryEnd s = s := by
  unfold tryEnd
  rw [goes]
  cases s.scan.page <;> rfl

/-- The scan unit as a block of its page has committed: a buffer free, its lines counted, a hold over. -/
def Scan.freed (u : Scan) (byteLen : Nat) (paper : Bool) : Scan := { u with
  full := none, committed := min 6912 (u.committed + ((u.marks.filter fun m => decide (m.1 ≤ byteLen)).map (·.2)).sum),
  marks := u.marks.filter fun m => decide (byteLen < m.1), state := if u.state = .held then .scanning else u.state,
  holdTime := if u.state = .held then 0 else u.holdTime, paper }

theorem freed_scanning {u : Scan} {byteLen : Nat} (active : u.state = .scanning ∨ u.state = .held) :
    (u.freed byteLen paper).state = .scanning := by
  show (if u.state = .held then ScanState.scanning else u.state) = _
  obtain scanning | held := active
  · rw [scanning]
    rfl
  · rw [if_pos held]

/-- The part as a block of the scan unit's page has committed, before octets move on. -/
def State.scanFreed (s : State) (h : PageHandle) (addr : Nat) (data : List Byte) (e : PageEntry) (paper : Bool)
    (lowArmed : Bool) (notices : List Notice) (lost : Nat) : State :=
  { s.committing h addr data e 256 lowArmed notices lost with scan := s.scan.freed (e.byteLen + 256) paper }

theorem scan_committed (on : s.power = true)
    (granted : s.store.port = some ⟨⟨.scan, level, .write h data none⟩, addr, false⟩) (page : s.page h = some e)
    (opened : e.state = .opened) (some_ : e.needsSegment = true → s.store.pool.toList ≠ []) :
    ∃ lowArmed notices lost, exec (.blockWriteCommit paper) s =
      .next (scanRetry (tryEnd (pump 8 (s.scanFreed h addr data e paper lowArmed notices lost)))) := by
  obtain ⟨lowArmed, notices, lost, commits⟩ := writeStep_commits (s := s.modScan fun u => { u with paper }) granted
    (by exact page) opened (by exact some_)
  refine ⟨lowArmed, notices, lost, (exec_commit on).trans (congrArg (fun t => Host.Outcome.next (scanRetry t)) (commits.trans ?_))⟩
  have taken := committing_taken (s := s.modScan fun u => { u with paper }) (h := h) (addr := addr) (data := data) e 256 lowArmed
    notices lost
  show scanCommitted (((s.modScan fun u => { u with paper }).committing h addr data e 256 lowArmed notices lost).entry
    h.slot).byteLen _ = _
  rw [taken.entry]
  rfl

/-- The page and the pool after it. -/
theorem scanFreed_taken (e : PageEntry) (paper lowArmed : Bool) (notices : List Notice) (lost : Nat) :
    BlockTaken h addr data e (e.grown s 256) s (s.scanFreed h addr data e paper lowArmed notices lost) :=
  ⟨fun _ other => State.entry_setEntry_ne _ _ other, State.entry_setEntry_self .., rfl, rfl, rfl, rfl⟩

/-- With nothing that waits the buffer is free, and that is all. -/
theorem scan_committed_still (on : s.power = true)
    (granted : s.store.port = some ⟨⟨.scan, level, .write h data none⟩, addr, false⟩) (page : s.page h = some e)
    (opened : e.state = .opened) (some_ : e.needsSegment = true → s.store.pool.toList ≠ [])
    (active : s.scan.state = .scanning ∨ s.scan.state = .held) (left : s.scan.backlog = []) (waits : s.scan.lineWaits = false)
    (few : s.scan.filling.length < 256) (goes : s.scan.ending = none) :
    ∃ t, exec (.blockWriteCommit paper) s = .next t ∧ BlockTaken h addr data e (e.grown s 256) s t ∧
      t.scan = s.scan.freed (e.byteLen + 256) paper ∧ OnlyChanges [.store, .mem, .link, .scan] s t ∧ LinkRaises s t := by
  obtain ⟨lowArmed, notices, lost, row⟩ := scan_committed (paper := paper) on granted page opened some_
  have placed : (s.scan.freed (e.byteLen + 256) paper).place = s.scan.freed (e.byteLen + 256) paper :=
    Scan.place_still (by exact few) (by exact left) (by exact waits)
  have still : pump 8 (s.scanFreed h addr data e paper lowArmed notices lost) =
      s.scanFreed h addr data e paper lowArmed notices lost := by
    cases there : s.scan.page with
    | none => exact pump_gone 8 (by exact there)
    | some p =>
      have waiting : (s.scan.freed (e.byteLen + 256) paper).waiting = s.scan.filling := by
        show s.scan.filling ++ s.scan.backlog = _
        rw [left, List.append_nil]
      refine (pump_places (n := 7) (by show s.scan.page.isSome = true; rw [there]; rfl) (by exact Nat.le_of_lt few) (.inr ?_)).trans ?_
      · show (s.scan.freed (e.byteLen + 256) paper).waiting.length < 256
        rw [waiting]
        exact few
      · exact congrArg (fun u : Scan =>
          { s.committing h addr data e 256 lowArmed notices lost with scan := u }) placed
  rw [still, tryEnd_goes (by exact goes), scanRetry_eq (by
    rw [show (s.scanFreed h addr data e paper lowArmed notices lost).scan.state = .scanning from freed_scanning active]
    nofun)] at row
  refine ⟨_, row, scanFreed_taken e paper lowArmed notices lost, rfl, fun p other => ?_, notices, lost, rfl⟩
  cases p <;> first | rfl | exact absurd (by decide) other

/-- The scan unit after its block's commit, the octets that waited moved on. -/
def Scan.goesOn (u : Scan) (byteLen : Nat) (paper : Bool) : Scan := { u.freed byteLen paper with
  full := if u.waiting.length < 256 then none else some (u.waiting.take 256),
  filling := if u.waiting.length < 256 then u.waiting else (u.waiting.drop 256).take 256, backlog := u.waiting.drop 512,
  lineWaits := u.lineWaits && decide (512 < u.waiting.length),
  coded := if u.lineWaits = true ∧ u.waiting.length ≤ 512 then min 6912 (u.coded + 1) else u.coded, state := .scanning }

theorem freed_place {u : Scan} {byteLen : Nat} (active : u.state = .scanning ∨ u.state = .held)
    (room : u.filling.length ≤ 256) (few : u.waiting.length < 256) :
    (u.freed byteLen paper).place = u.goesOn byteLen paper := by
  have waiting : (u.freed byteLen paper).waiting = u.waiting := rfl
  have state := freed_scanning (paper := paper) (byteLen := byteLen) active
  unfold Scan.goesOn
  rw [Scan.place_eq (by exact room), waiting, List.take_of_length_le (Nat.le_of_lt few), List.drop_of_length_le (Nat.le_of_lt few),
    List.drop_of_length_le (by omega : u.waiting.length ≤ 512), if_pos few, if_pos few, decide_eq_false (by omega),
    decide_eq_false (by omega), ← state]
  have coded : (if (u.freed byteLen paper).lineWaits = true ∧ u.waiting.length ≤ 256 then
      min 6912 ((u.freed byteLen paper).coded + 1) else (u.freed byteLen paper).coded) =
      if u.lineWaits = true ∧ u.waiting.length ≤ 512 then min 6912 (u.coded + 1) else u.coded := by
    cases waits : u.lineWaits with
    | false => exact (if_neg (by show ¬(u.lineWaits = true ∧ _); rw [waits]; simp)).trans (if_neg (by simp)).symm
    | true => exact (if_pos ⟨waits, by omega⟩).trans (if_pos ⟨rfl, by omega⟩).symm
  rw [coded]
  rfl

theorem freed_filled {u : Scan} {byteLen : Nat} (active : u.state = .scanning ∨ u.state = .held)
    (many : 256 ≤ u.waiting.length) : (u.freed byteLen paper).filled = u.goesOn byteLen paper := by
  have state := freed_scanning (paper := paper) (byteLen := byteLen) active
  unfold Scan.goesOn Scan.filled
  have waiting : (u.freed byteLen paper).waiting = u.waiting := rfl
  rw [waiting, if_neg (by omega : ¬u.waiting.length < 256), if_neg (by omega : ¬u.waiting.length < 256), ← state]
  rfl

section
variable (on : s.power = true)
  (granted : s.store.port = some ⟨⟨.scan, level, .write h data none⟩, addr, false⟩) (there : s.page h = some e)
  (opened : e.state = .opened) (some_ : e.needsSegment = true → s.store.pool.toList ≠ [])
  (active : s.scan.state = .scanning ∨ s.scan.state = .held) (page : s.scan.page = some h)
  (room : s.scan.filling.length ≤ 256) (goes : s.scan.ending = none)
include on granted there opened some_ active page room goes

/-- Octets that waited move on: a block that they fill is asked to be written. -/
theorem scan_committed_goes (passes : s.scan.waiting.length < 256 ∨ ∀ lowArmed notices lost,
      allocTest (s.scanFreed h addr data e paper lowArmed notices lost) (e.grown s 256) .scan = .pass) :
    ∃ t, exec (.blockWriteCommit paper) s = .next t ∧ BlockTaken h addr data e (e.grown s 256) s t ∧
      t.scan = s.scan.goesOn (e.byteLen + 256) paper ∧ t.store.waiting = s.store.waiting ++
        (if s.scan.waiting.length < 256 then [] else [scanBlock h (s.scan.waiting.take 256)]) ∧
      OnlyChanges [.store, .mem, .link, .scan] s t ∧ LinkRaises s t := by
  obtain ⟨lowArmed, notices, lost, row⟩ := scan_committed (paper := paper) on granted there opened some_
  have taken := scanFreed_taken (h := h) (addr := addr) (data := data) (s := s) e paper lowArmed notices lost
  by_cases few : s.scan.waiting.length < 256
  · have places := pump_places (n := 7) (s := s.scanFreed h addr data e paper lowArmed notices lost)
      (by show s.scan.page.isSome = true; rw [page]; rfl) (by exact room) (.inr (by exact few))
    rw [show (s.scanFreed h addr data e paper lowArmed notices lost).scan.place = _ from
      freed_place (paper := paper) (byteLen := e.byteLen + 256) active room few] at places
    rw [places, tryEnd_goes (by exact goes), scanRetry_eq (by nofun)] at row
    refine ⟨_, row, ⟨taken.others, taken.entry, taken.port, taken.mem, taken.checks, taken.pool⟩, rfl, ?_, fun p other => ?_,
      notices, lost, rfl⟩
    · rw [if_pos few, List.append_nil]
      rfl
    · cases p <;> first | rfl | exact absurd (by decide) other
  · have test := passes.resolve_left few lowArmed notices lost
    rw [← taken.entry] at test
    have asks := pump_passes (n := 6) (s := s.scanFreed h addr data e paper lowArmed notices lost) (by exact page) (by exact room)
      rfl (by exact Nat.le_of_not_lt few) test
    rw [show (s.scanFreed h addr data e paper lowArmed notices lost).scan.filled = _ from
      freed_filled (paper := paper) (byteLen := e.byteLen + 256) active (Nat.le_of_not_lt few)] at asks
    rw [asks, tryEnd_goes (by exact goes), scanRetry_eq (by nofun)] at row
    refine ⟨_, row, ⟨taken.others, taken.entry, taken.port, taken.mem, taken.checks, taken.pool⟩, rfl, ?_, fun p other => ?_,
      notices, lost, rfl⟩
    · rw [if_neg few]
      rfl
    · cases p <;> first | rfl | exact absurd (by decide) other

/-- A block that they fill and that is refused STORE_FULL holds the job. -/
theorem scan_committed_holds (many : 256 ≤ s.scan.waiting.length) (refused : ∀ u lowArmed notices lost,
      allocTest { s.committing h addr data e 256 lowArmed notices lost with scan := u } (e.grown s 256) .scan = .storeFull) :
    ∃ t m, exec (.blockWriteCommit paper) s = .next t ∧ BlockTaken h addr data e (e.grown s 256) s t ∧
      t.scan = { s.scan.goesOn (e.byteLen + 256) paper with state := .held, holdTime := 0 } ∧
      t.store.waiting = s.store.waiting ∧ LinkRaises s m ∧
      t.link = (raise .scanHeld (ePage h ++
        e16 (s.freeCount - (if decide (16 * e.chain.length ≤ e.committed) then 1 else 0)) ++ e16 s.cfg.receptionReserve) m).link ∧
      OnlyChanges [.store, .mem, .link, .scan] s t := by
  obtain ⟨lowArmed, notices, lost, row⟩ := scan_committed (paper := paper) on granted there opened some_
  have taken := scanFreed_taken (h := h) (addr := addr) (data := data) (s := s) e paper lowArmed notices lost
  have test := refused (s.scan.freed (e.byteLen + 256) paper) lowArmed notices lost
  have again := refused { s.scan.goesOn (e.byteLen + 256) paper with state := .held, holdTime := 0 } lowArmed notices lost
  rw [← taken.entry] at test again
  have holds := pump_holds (n := 6) (s := s.scanFreed h addr data e paper lowArmed notices lost)
    (by exact freed_scanning active) (by exact page) (by exact room) rfl (by exact many) test
  rw [show (s.scanFreed h addr data e paper lowArmed notices lost).scan.filled = _ from
    freed_filled (paper := paper) (byteLen := e.byteLen + 256) active many,
    show (s.scanFreed h addr data e paper lowArmed notices lost).freeCount = _ from
      committing_free (s := s) 256 lowArmed notices lost] at holds
  obtain ⟨notices', lost', raised⟩ := raise_frame .scanHeld (ePage h ++
      e16 (s.freeCount - (if decide (16 * e.chain.length ≤ e.committed) then 1 else 0)) ++ e16 s.cfg.receptionReserve)
    { s.scanFreed h addr data e paper lowArmed notices lost with
      scan := { s.scan.goesOn (e.byteLen + 256) paper with state := .held, holdTime := 0 } }
  have stays := scanRetry_refused (h := h) (data := s.scan.waiting.take 256) (s :=
    { s.scanFreed h addr data e paper lowArmed notices lost with
      scan := { s.scan.goesOn (e.byteLen + 256) paper with state := .held, holdTime := 0 }
      link := { s.link with notices := notices', lost := lost' } }) rfl (by exact page)
    (by exact if_neg (by omega)) (by exact again)
  rw [show pump 8 (s.scanFreed h addr data e paper lowArmed notices lost) = _ from holds.trans raised, tryEnd_goes (by exact goes)]
    at row
  refine ⟨_, { s.scanFreed h addr data e paper lowArmed notices lost with
      scan := { s.scan.goesOn (e.byteLen + 256) paper with state := .held, holdTime := 0 } },
    row.trans (congrArg Host.Outcome.next stays),
    ⟨taken.others, taken.entry, taken.port, taken.mem, taken.checks, taken.pool⟩, rfl, rfl, ⟨notices, lost, rfl⟩,
    (congrArg State.link raised).symm, fun p other => ?_⟩
  cases p <;> first | rfl | exact absurd (by decide) other

end

/-! ### Line channels (R108) -/

section
variable {rest : List (List Byte)} (on : s.power = true) (quiet : s.scan.state ≠ .held)
  (granted : s.store.port = some ⟨⟨.lc l, level, .write h data none⟩, addr, false⟩) (there : s.page h = some e)
  (opened : e.state = .opened) (some_ : e.needsSegment = true → s.store.pool.toList ≠ [])
  (write : (s.line l).recv.toWrite = data :: rest)
include on quiet granted there opened some_ write

omit on quiet in
/-- The line channel goes on with the frames left to write. -/
theorem line_committed : ∃ lowArmed notices lost, writeStep (s.modScan fun u => { u with paper }) = writeNext l
    ((({ s with scan := { s.scan with paper } } : State).committing h addr data e 256 lowArmed notices lost).setLine l
      { s.line l with recv := { (s.line l).recv with toWrite := rest } }) := by
  obtain ⟨lowArmed, notices, lost, commits⟩ := writeStep_commits (s := s.modScan fun u => { u with paper }) granted
    (by exact there) opened (by exact some_)
  refine ⟨lowArmed, notices, lost, commits.trans ?_⟩
  show writeNext l (State.modRecv _ l _) = _
  unfold State.modRecv
  rw [State.modLine_eq]
  have tail : (s.line l).recv.toWrite.tail = rest := by rw [write]; rfl
  rw [← tail]
  rfl

/-- The last frame's block has committed: RESEND without marks follows. -/
theorem line_committed_last (last : rest = []) :
    ∃ t, exec (.blockWriteCommit paper) s = .next t ∧ BlockTaken h addr data e (e.grown s 256) s t ∧
      t.line l = Line.formed (.msg (.resend (marksOctets []))) { s.line l with
        recv := { (s.line l).recv with parts := [], answered := none, toWrite := [] },
        params := { (s.line l).params with block := ((s.line l).params.block + 1) % 256, round := 0 } } ∧
      OtherLines l s t ∧ OnlyChanges [.store, .mem, .link, .scan, .lines] s t ∧ LinkRaises s t := by
  obtain ⟨lowArmed, notices, lost, commits⟩ := line_committed (paper := paper) granted there opened some_ write
  have taken := committing_taken (s := ({ s with scan := { s.scan with paper } } : State)) (h := h) (addr := addr) (data := data) e
    256 lowArmed notices lost
  generalize same : ({ s with scan := { s.scan with paper } } : State).committing h addr data e 256 lowArmed notices lost = w
    at commits taken
  have stored := writeNext_stored (l := l)
    (s := w.setLine l { s.line l with recv := { (s.line l).recv with toWrite := rest } })
    (by rw [State.line_setLine_self]; exact last)
  rw [State.line_setLine_self, State.setLine_setLine] at stored
  have row := exec_commit (paper := paper) on
  rw [commits, stored, scanRetry_eq (by rw [← same]; exact quiet)] at row
  refine ⟨_, row, ⟨taken.others, taken.entry, taken.port, taken.mem, taken.checks, taken.pool⟩, ?_,
    fun k other => (State.line_setLine_ne _ _ other).trans (by rw [← same]; rfl), fun p other => ?_, ?_⟩
  · rw [State.line_setLine_self]
    rfl
  · rw [← same]
    cases p <;> first | rfl | exact absurd (by decide) other
  · rw [← same]
    exact ⟨notices, lost, rfl⟩

/-- The next frame's write is asked for. -/
theorem line_committed_next {next : List Byte} {more : List (List Byte)} {c : CallRec} {g : InHandle} {d : InDoc}
    (goes : rest = next :: more) (call : (s.line l).call = some c) (received : c.out = none) (inbound : c.inbound = some g)
    (doc : s.inDoc g = some d) (reception : d.inPage = some h)
    (passes : ∀ v : State, v.freeCount = s.freeCount - (if decide (16 * e.chain.length ≤ e.committed) then 1 else 0) →
      allocTest v (e.grown s 256) (.lc l) = .pass) :
    ∃ t, exec (.blockWriteCommit paper) s = .next t ∧ BlockTaken h addr data e (e.grown s 256) s t ∧
      t.line l = { s.line l with
        recv := { (s.line l).recv with toWrite := rest }, proc := { (s.line l).proc with storing := true } } ∧
      t.store.waiting = s.store.waiting ++ [{ client := .lc l, level := 3, op := .write h next none }] ∧
      OtherLines l s t ∧ OnlyChanges [.store, .mem, .link, .scan, .lines] s t ∧ LinkRaises s t := by
  obtain ⟨lowArmed, notices, lost, commits⟩ := line_committed (paper := paper) granted there opened some_ write
  have taken := committing_taken (s := ({ s with scan := { s.scan with paper } } : State)) (h := h) (addr := addr) (data := data) e
    256 lowArmed notices lost
  have count := committing_free (s := ({ s with scan := { s.scan with paper } } : State)) (h := h) (addr := addr) (data := data)
    (e := e) 256 lowArmed notices lost
  have held : (({ s with scan := { s.scan with paper } } : State).committing h addr data e 256 lowArmed notices lost).inDoc g =
    some d := doc
  generalize same : ({ s with scan := { s.scan with paper } } : State).committing h addr data e 256 lowArmed notices lost = w
    at commits taken count held
  let v : State := w.setLine l { s.line l with recv := { (s.line l).recv with toWrite := rest } }
  have line : v.line l = { s.line l with recv := { (s.line l).recv with toWrite := rest } } := State.line_setLine_self ..
  have page : v.pageInReception l = some h := by
    unfold State.pageInReception State.callInbound
    rw [line]
    dsimp only
    rw [call]
    dsimp only
    rw [inbound]
    dsimp only
    rw [show v.inDoc g = some d from held]
    exact reception
  have asks := writeNext_asks (l := l) (s := v) (by rw [line]; exact goes) (by rw [line]; exact call) received page
    (by rw [show v.entry h.slot = e.grown s 256 from taken.entry]; exact passes v count)
  rw [line, State.setLine_setLine] at asks
  have row := exec_commit (paper := paper) on
  rw [commits, asks, scanRetry_eq (by rw [← same]; exact quiet)] at row
  refine ⟨_, row, ⟨taken.others, taken.entry, taken.port, taken.mem, taken.checks, taken.pool⟩, State.line_setLine_self .., ?_,
    fun k other => (State.line_setLine_ne _ _ other).trans (by rw [← same]; rfl), fun p other => ?_, ?_⟩
  · subst same
    rfl
  · subst same
    cases p <;> first | rfl | exact absurd (by decide) other
  · subst same
    exact ⟨notices, lost, rfl⟩

end

end

end Sys2Proof.Machine
end

section
/-! PROOFS. The obligation on block writes at their completion (R7, R8, R17, R20, R21, R34, R35, R40, R41, R108). -/

namespace Sys2Proof.Machine

/-- Settles O21. -/
theorem blockWriteCommits : Obligations.BlockWriteCommits := by
  intro paper h client level addr data close void e s on _ whole there granted grows committed moved taken
  refine ⟨fun is_void quiet => ?_, fun live some_ opened => ⟨fun tag fromPending accepted left is_client is_close quiet job few => ?_,
    fun tag req is_client is_close quiet job hold pins => ?_,
    fun is_client is_close active left waits few goes => ?_, fun is_client is_close active page room goes => ?_,
    fun l rest is_client is_close quiet => ?_⟩⟩
  · subst is_void
    have row := exec_commit (paper := paper) on
    rw [writeStep_void (by exact granted), scanRetry_eq (by exact quiet)] at row
    refine ⟨_, row, blockMoved_of whole rfl (fun _ _ => rfl) rfl rfl, rfl, rfl, fun p other => ?_⟩
    cases p <;> first | rfl | exact absurd (by decide) other
  · subst live is_client is_close
    obtain ⟨t, row, block, ends, only⟩ := upload_committed (paper := paper) on quiet granted there opened some_ job few
    exact ⟨t, row, block.taken whole, ends, block.entry, only⟩
  · subst live is_client is_close
    obtain ⟨t, row, block, ends, only⟩ := upload_finished (paper := paper) on quiet granted there opened some_ job hold pins
    rw [PageEntry.closedBy_eq] at row block
    exact ⟨t, row, block.taken whole, ends, block.entry, only⟩
  · subst live is_client is_close
    intro held done
    obtain ⟨t, row, block, scan, only, link⟩ := scan_committed_still (paper := paper) on granted there opened some_ active left
      waits few goes
    refine ⟨t, row, block.taken whole, block.entry, scan.trans ?_, only, link⟩
    have state := freed_scanning (paper := paper) (byteLen := e.byteLen + 256) active
    have time : (if s.scan.state = .held then 0 else s.scan.holdTime) = if held then 0 else s.scan.holdTime := by
      by_cases h : s.scan.state = .held <;> simp [held, h]
    unfold Scan.freed at state ⊢
    dsimp only at state
    rw [state, time]
  · subst live is_client is_close
    intro u all free on_
    refine ⟨fun passes => ?_, fun many full short low => ?_⟩
    · obtain ⟨t, row, block, scan, waiting, only, link⟩ := scan_committed_goes (paper := paper) on granted there opened some_ active
        page room goes (passes.imp_right fun fits lowArmed notices lost => fits.elim (fun more => allocTest_room (by exact more)) fun more =>
          allocTest_segment _ more.1 (by
            rw [show (s.scanFreed h addr data e paper lowArmed notices lost).freeCount = _ from
              committing_free (s := s) 256 lowArmed notices lost]
            exact more.2))
      exact ⟨t, row, block.taken whole, block.entry, scan, waiting, only, link⟩
    · obtain ⟨t, m, row, block, scan, waiting, raises, link, only⟩ := scan_committed_holds (paper := paper) on granted there opened
        some_ active page room goes many fun u lowArmed notices lost => allocTest_storeFull (.inl rfl) full short (by
          rw [show ({ s.committing h addr data e 256 lowArmed notices lost with scan := u } : State).freeCount = _ from
            committing_free (s := s) 256 lowArmed notices lost]
          exact low)
      exact ⟨t, m, row, block.taken whole, block.entry, scan, waiting, raises, link, only⟩
  · intro x write
    subst live is_client is_close
    refine ⟨fun last => ?_, fun next more c g d is_rest call received inbound doc reception fits => ?_⟩
    · obtain ⟨t, row, block, line, others, only, link⟩ := line_committed_last (paper := paper) on quiet granted there opened some_
        write last
      refine ⟨t, row, block.taken whole, block.entry, line.trans ?_, others, only, link⟩
      by_cases incoming : x.proc.incoming = true
      · rw [if_pos incoming, if_pos incoming]
        exact if_pos (by exact incoming)
      · rw [if_neg incoming, if_neg incoming]
        have heard : x.proc.incoming = false := eq_false_of_ne_true incoming
        refine (Line.formed_ready _ (by exact heard)).trans ?_
        rw [← heard]
    · obtain ⟨t, row, block, line, waiting, others, only, link⟩ := line_committed_next (paper := paper) on quiet granted there opened
        some_ write is_rest call received inbound doc reception fun v count => allocTest_line l (fits.imp_right fun more =>
          ⟨more.1, by rw [count]; exact Nat.ne_of_gt more.2⟩)
      exact ⟨t, row, block.taken whole, block.entry, line, waiting, others, only, link⟩

end Sys2Proof.Machine
end

section
/-! PROOFS. What the end of a call changes of the rest of the part, whatever stands in it: pages, print queue and engine
apart from lines, scan unit and log (R115, R125, R139, R146). -/

namespace Sys2Proof.Machine

/-! ### Reception without the engine -/

/-- From `s` to `t` nothing changes but inbound documents, print queue, page store and host link; URGENT entries stand. -/
def ReceptSide (s t : State) : Prop :=
  ∃ recept store link, t = { s with recept, store, link } ∧ recept.urgentTable = s.recept.urgentTable

theorem ReceptSide.refl (s : State) : ReceptSide s s := ⟨_, _, _, rfl, rfl⟩

theorem ReceptSide.trans {s t u : State} (h : ReceptSide s t) (g : ReceptSide t u) : ReceptSide s u := by
  obtain ⟨_, _, _, rfl, urgent⟩ := h
  obtain ⟨recept, store, link, rfl, urgent'⟩ := g
  exact ⟨recept, store, link, rfl, urgent'.trans urgent⟩

theorem StoreLinkOnly.receptSide {s t : State} (h : StoreLinkOnly s t) : ReceptSide s t := by
  obtain ⟨store, link, rfl⟩ := h
  exact ⟨_, store, link, rfl, rfl⟩

section
variable (s : State)

theorem raiseUnless_storeLink (quiet : Bool) (kind : NoticeKind) (fields : List Byte) :
    StoreLinkOnly s (raiseUnless quiet kind fields s) := by
  unfold raiseUnless
  split
  · exact .refl s
  · exact raise_storeLink ..

/-- A received page's close is the store's and the link's. -/
theorem finishClose_storeLink (quiet : Bool) (p : PageHandle) {c : CloseReq} (hold : c.hold = .reference) :
    StoreLinkOnly s (finishClose quiet p c s) := by
  unfold finishClose
  rw [hold]
  exact StoreLinkOnly.trans ⟨_, s.link, rfl⟩ ((raiseUnless_storeLink ..).trans (releaseTest_storeLink ..))

theorem modInDoc_receptSide (slot : Nat) (f : InDoc → InDoc) : ReceptSide s (s.modInDoc slot f) :=
  ⟨_, s.store, s.link, rfl, rfl⟩

theorem offerToPrint_receptSide (h : InHandle) : ReceptSide s (offerToPrint h s) := by
  unfold offerToPrint
  split
  · exact .refl s
  · split <;> exact ⟨_, s.store, s.link, rfl, rfl⟩

theorem listPage_receptSide (h : InHandle) (p : PageHandle) : ReceptSide s (listPage h p s) := by
  unfold listPage
  split
  · exact .refl s
  · dsimp only
    split
    · exact ReceptSide.trans ⟨_, s.store, s.link, rfl, rfl⟩ (offerToPrint_receptSide ..)
    · exact ⟨_, s.store, s.link, rfl, rfl⟩

theorem leaveQueue_receptSide (n : Nat) : ReceptSide s (leaveQueue n s) := by
  unfold leaveQueue
  dsimp only
  split <;> exact ⟨_, s.store, s.link, rfl, rfl⟩

theorem freeInbound_receptSide (slot : Nat) : ReceptSide s (freeInbound slot s) :=
  ReceptSide.trans (t := s.setInDoc slot (.freeWith (wrapSucc 256 (s.recept.docs.get slot).issue))) ⟨_, s.store, s.link, rfl, rfl⟩
    (lowerRefs_storeLink ..).receptSide

theorem endInbound_receptSide (quiet : Bool) (h : InHandle) (cause : Cause) (release : DateTime) (lastSent : Bool) :
    ReceptSide s (endInbound quiet h cause release lastSent s) := by
  have ends (d : InDoc) (fields : List Byte) : ReceptSide s (raiseUnless quiet .inboundEnd fields (s.setInDoc h.slot d)) :=
    ReceptSide.trans (t := s.setInDoc h.slot d) ⟨_, s.store, s.link, rfl, rfl⟩ (raiseUnless_storeLink ..).receptSide
  unfold endInbound
  split
  · exact .refl s
  · dsimp only
    split
    · exact (ends ..).trans (freeInbound_receptSide ..)
    · exact ends ..

end

/-! ### The print engine told of it -/

/-- From `s` to `t` nothing changes but reception, engine, page store and host link; URGENT entries stand. -/
def PrintSide (s t : State) : Prop :=
  ∃ recept engine store link, t = { s with recept, engine, store, link } ∧ recept.urgentTable = s.recept.urgentTable

theorem PrintSide.refl (s : State) : PrintSide s s := ⟨_, _, _, _, rfl, rfl⟩

theorem PrintSide.trans {s t u : State} (h : PrintSide s t) (g : PrintSide t u) : PrintSide s u := by
  obtain ⟨_, _, _, _, rfl, urgent⟩ := h
  obtain ⟨recept, engine, store, link, rfl, urgent'⟩ := g
  exact ⟨recept, engine, store, link, rfl, urgent'.trans urgent⟩

theorem ReceptSide.printSide {s t : State} (h : ReceptSide s t) : PrintSide s t := by
  obtain ⟨recept, store, link, rfl, urgent⟩ := h
  exact ⟨recept, _, store, link, rfl, urgent⟩

section
variable (s : State)

theorem modEngine_printSide (f : Engine → Engine) : PrintSide s (s.modEngine f) := ⟨_, _, s.store, s.link, rfl, rfl⟩

theorem askBlock_printSide : PrintSide s (askBlock s) := by
  unfold askBlock
  split
  · exact .refl s
  · dsimp only
    split
    · exact .refl s
    · split
      · exact .refl s
      · unfold askRead
        (repeat' split) <;> exact ⟨_, _, _, _, rfl, rfl⟩

theorem finishEntry_printSide (q : QueueEntry) : PrintSide s (finishEntry q s) := by
  unfold finishEntry
  dsimp only
  refine (modEngine_printSide s fun e => { e with entry := none, page := none }).trans ?_
  split
  · exact ((raise_storeLink ..).receptSide.trans ((lowerRef_storeLink ..).receptSide.trans (leaveQueue_receptSide ..))).printSide
  · refine ReceptSide.printSide (ReceptSide.trans ?_ (leaveQueue_receptSide ..))
    split
    · exact (modInDoc_receptSide ..).trans ((raise_storeLink ..).receptSide.trans (freeInbound_receptSide ..))
    · exact (modInDoc_receptSide ..).trans (raise_storeLink ..).receptSide

theorem endPage_printSide (h : PageHandle) : PrintSide s (endPage h s) := by
  unfold endPage
  dsimp only
  split <;> exact ⟨_, _, _, _, rfl, rfl⟩

theorem choosePage_printSide (fuel : Nat) : PrintSide s (choosePage fuel s) := by
  induction fuel generalizing s with
  | zero => exact .refl s
  | succ fuel ih =>
    unfold choosePage
    split
    · exact .refl s
    · split
      · exact .refl s
      · split
        · exact modEngine_printSide ..
        · exact finishEntry_printSide ..
        · dsimp only
          split
          · exact (modEngine_printSide ..).trans ((endPage_printSide ..).trans (ih _))
          · exact (modEngine_printSide ..).trans (askBlock_printSide _)

theorem tellEngine_printSide (h : InHandle) : PrintSide s (tellEngine h s) := by
  unfold tellEngine
  split
  · exact .refl s
  · split
    · exact .refl s
    · split
      · exact choosePage_printSide ..
      · exact .refl s

end

theorem tellEngine_idle {h : InHandle} {s : State} (idle : s.engine.entry = none) : tellEngine h s = s := by
  unfold tellEngine
  rw [idle]

/-- The print side's change, the engine's only with an entry in hand. -/
def PrintEffect (s t : State) : Prop := PrintSide s t ∧ (s.engine.entry = none → t.engine = s.engine)

theorem PrintEffect.trans {s t u : State} (h : PrintEffect s t) (g : PrintEffect t u) : PrintEffect s u :=
  ⟨h.1.trans g.1, fun idle => (g.2 (by rw [h.2 idle]; exact idle)).trans (h.2 idle)⟩

theorem ReceptSide.effect {s t : State} (h : ReceptSide s t) : PrintEffect s t := by
  refine ⟨h.printSide, fun _ => ?_⟩
  obtain ⟨_, _, _, rfl, -⟩ := h
  rfl

theorem tellEngine_effect (h : InHandle) (s : State) : PrintEffect s (tellEngine h s) :=
  ⟨tellEngine_printSide s h, fun idle => by rw [tellEngine_idle idle]⟩

theorem listAndTell_effect (held : Bool) (h : InHandle) (p : PageHandle) (s : State) : PrintEffect s (listAndTell held h p s) := by
  unfold listAndTell
  split
  · exact (listPage_receptSide ..).effect.trans (tellEngine_effect ..)
  · exact ReceptSide.effect ⟨_, s.store, s.link, rfl, rfl⟩

theorem endAndTell_effect (quiet : Bool) (h : InHandle) (cause : Cause) (release : DateTime) (lastSent : Bool) (s : State) :
    PrintEffect s (endAndTell quiet h cause release lastSent s) :=
  (endInbound_receptSide ..).effect.trans (tellEngine_effect ..)

end Sys2Proof.Machine
end

section
/-! PROOFS. A line's part of a RESET command: its call ended and logged, or its attempt let go (R93, R119, R214). -/

namespace Sys2Proof.Machine

section
variable {l : LineNo} {s : State}

/-! ### A page in reception closed -/

/-- The close of a page in reception counts a page of the call and leaves every other line, the scan unit and the log. -/
theorem closeReceived_effect (quiet : Bool) (l : LineNo) (s : State) : ∃ x, (x = s.line l ∨ x = (s.line l).countsPage) ∧
    PrintEffect (s.setLine l x) (closeReceived quiet l s) := by
  unfold closeReceived
  split
  · rename_i p _ _
    refine ⟨_, .inr rfl, ?_⟩
    dsimp only
    obtain ⟨store, link, closed⟩ := finishClose_storeLink (withdraw (.lc l) s) quiet p (c :=
      { code := 0, lineCount := 0, truncated := true, hold := .reference }) rfl
    rw [closed]
    refine PrintEffect.trans ?_ (listAndTell_effect ..)
    unfold State.modCall
    rw [State.modLine_eq]
    exact ReceptSide.effect ⟨s.recept, store, link, rfl, rfl⟩
  · exact ⟨_, .inl rfl, by rw [State.setLine_line]; exact ReceptSide.effect (.refl s)⟩

/-! ### The report of a call's end -/

/-- From `s` to `t` nothing changes but documents, reception, engine, page store and host link; the engine only with an
entry in hand, and URGENT entries stand. -/
def CallReport (s t : State) : Prop := ∃ docs recept engine store link, t = { s with docs, recept, engine, store, link } ∧
  recept.urgentTable = s.recept.urgentTable ∧ (s.engine.entry = none → engine = s.engine)

theorem DocsStoreLink.report {s t : State} (h : DocsStoreLink s t) : CallReport s t := by
  obtain ⟨store, link, docs, rfl⟩ := h
  exact ⟨docs, _, _, store, link, rfl, rfl, fun _ => rfl⟩

theorem PrintEffect.report {s t : State} (h : PrintEffect s t) : CallReport s t := by
  obtain ⟨⟨recept, engine, store, link, rfl, urgent⟩, idle⟩ := h
  exact ⟨_, recept, engine, store, link, rfl, urgent, idle⟩

theorem reportEnd_report (quiet : Bool) (l : LineNo) (c : CallRec) (cause : Cause) (release : DateTime) (logged : Nat)
    (s : State) : CallReport s (reportEnd quiet l c cause release logged s) := by
  unfold reportEnd
  split
  · exact (outcomeReport_docsStoreLink ..).report
  · split
    · exact (endAndTell_effect ..).report
    · exact (DocsStoreLink.refl s).report

/-! ### A call's end (R93, R115, R119) -/

/-- The charge and the log: one record more, of the call's cause and release. -/
theorem chargeAndLog_records (l : LineNo) (c : CallRec) (cause : Cause) (release : DateTime) (s : State) :
    ∃ notices lost passAsked desks armed r, chargeAndLog l c cause release s =
      ({ s.setLine l (s.line l).released with
        desks, link := { s.link with notices, lost }, docs := { s.docs with passAsked }, log := s.log.filled r armed },
        s.log.sequence) ∧ r.cause = cause ∧ r.release = release ∧ r.sequence = s.log.sequence := by
  obtain ⟨notices, lost, passAsked, desks, armed, charged, -, -⟩ := chargeAndLog_frame l c cause release s
  exact ⟨notices, lost, passAsked, desks, armed, _, charged, rfl, rfl, rfl⟩

/-- A release, whatever the call: its line on hook, one record more, and the reports. -/
theorem hangUp_effect {c : CallRec} (quiet : Bool) (cause : Cause) (call : (s.line l).call = some c) :
    ∃ x docs desks recept engine store link armed r, (x = s.line l ∨ x = (s.line l).countsPage) ∧
      hangUp quiet l cause s = { s.setLine l (x.released.onHook cause) with
        docs, desks, recept, engine, store, link, log := s.log.filled r armed } ∧
      (r.cause = cause ∧ r.release = s.now ∧ r.sequence = s.log.sequence) ∧
      recept.urgentTable = s.recept.urgentTable ∧ (s.engine.entry = none → engine = s.engine) := by
  obtain ⟨x, is_x, ⟨recept, engine, store, link, closed, urgent⟩, idle⟩ := closeReceived_effect quiet l s
  rw [closed] at idle
  have line : (closeReceived quiet l s).line l = x := by
    rw [closed]
    exact State.line_setLine_self s l x
  have some_ : ∃ c', x.call = some c' := by
    obtain same | same := is_x
    · exact ⟨c, by rw [same]; exact call⟩
    · exact ⟨_, by rw [same]; exact congrArg (Option.map _) call⟩
  obtain ⟨c', call'⟩ := some_
  have ends := hangUp_steps (cause := cause) closed (c := c') ((congrArg Line.call (State.line_setLine_self s l x)).trans call') rfl
  have before : ({ s.setLine l x with recept, engine, store, link } : State).line l = x := State.line_setLine_self s l x
  obtain ⟨notices, lost, passAsked, desks, armed, r, charged, of_r⟩ := chargeAndLog_records l (c'.ended cause s.now s.tk.suspect)
    cause s.now { s.setLine l x with recept, engine, store, link }
  rw [before] at charged
  rw [charged] at ends
  obtain ⟨docs', recept', engine', store', link', reported, urgent', idle'⟩ := reportEnd_report quiet l
    (c'.ended cause s.now s.tk.suspect) cause s.now s.log.sequence
    { ({ s.setLine l x with recept, engine, store, link } : State).setLine l x.released with
      desks, link := { link with notices, lost }, docs := { s.docs with passAsked }, log := s.log.filled r armed }
  have hung := ends.trans (congrArg (onHook l cause) reported)
  have twice : ((s.setLine l x).setLine l x.released).lines = (s.setLine l x.released).lines :=
    congrArg State.lines (State.setLine_setLine ..)
  obtain ⟨notices', lost', hooked⟩ := onHook_frame l cause { s with
    lines := (s.setLine l x.released).lines
    desks, docs := docs', recept := recept', engine := engine', store := store', link := link', log := s.log.filled r armed }
  have line' : ({ s with
      lines := (s.setLine l x.released).lines
      desks, docs := docs', recept := recept', engine := engine', store := store', link := link', log := s.log.filled r armed } :
      State).line l = x.released := State.line_setLine_self s l _
  have thrice : ((s.setLine l x.released).setLine l (x.released.onHook cause)).lines =
      (s.setLine l (x.released.onHook cause)).lines := congrArg State.lines (State.setLine_setLine ..)
  rw [line'] at hooked
  refine ⟨x, _, desks, recept', engine', _, _, armed, r, is_x, hung.trans ((congrArg (fun lines => onHook l cause { s with
    lines, desks, docs := docs', recept := recept', engine := engine', store := store', link := link',
    log := s.log.filled r armed }) twice).trans (hooked.trans (congrArg (fun lines : Lines => ({ s with
    lines, desks, docs := { docs' with passAsked := true }, recept := recept', engine := engine',
    store := (withdraw (.lc l) { s with lines := (s.setLine l x.released).lines, store := store' }).store,
    link := { link' with notices := notices', lost := lost' }, log := s.log.filled r armed } : State)) thrice))), of_r,
    urgent'.trans urgent, fun none_ => (idle' ((congrArg Engine.entry (idle none_)).trans none_)).trans (idle none_)⟩

end

end Sys2Proof.Machine
end

section
/-! PROOFS. All lines at a RESET command, one after another (R93, R119, R190, R214). -/

namespace Sys2Proof.Machine

/-- A line in no call, its attempt, rings and dial buffer gone (R93). -/
def Line.letGone (x : Line) : Line := { x with
  attempt := none, ringCount := 0, burst := false, refused := false, deferred := false, expander := .reset, charged := [],
  playPos := 0 }

/-- A line whose call a RESET command has ended. -/
def LineEnded (x y : Line) : Prop :=
  y.state = .rest ∧ y.call = none ∧ y.attempt = none ∧ y.lastCause = some .reset ∧ y.ringCount = 0 ∧ y.burst = false ∧
    y.expander = .reset ∧ y.charging.captured = false ∧ y.params.repeats = 0 ∧ y.params.detector = .disarmed ∧ y.config = x.config

/-- The parts that the end of all calls can change. -/
def resetParts : List Part := [.lines, .link, .store, .docs, .scan, .recept, .engine, .desks, .log]

/-- What the reset of some lines has made of the part. -/
structure LinesReset (ls : List LineNo) (s t : State) : Prop where
  idle : ∀ l ∈ ls, (s.line l).state.inProgress = false → t.line l = (s.line l).letGone
  ended : ∀ l ∈ ls, (s.line l).state.inProgress = true → LineEnded (s.line l) (t.line l)
  others : ∀ l, l ∉ ls → t.line l = s.line l
  log : ∃ new, t.log.records = s.log.records ++ new ∧ new.length = (ls.filter fun l => (s.line l).state.inProgress).length ∧
    (∀ i r, new[i]? = some r → r.cause = .reset ∧ r.release = s.now ∧ r.sequence = (s.log.sequence + i) % 65536) ∧
    t.log.sequence = (s.log.sequence + new.length) % 65536
  scan : t.scan = s.scan
  urgent : t.recept.urgentTable = s.recept.urgentTable
  engine : s.engine.entry = none → t.engine = s.engine
  only : OnlyChanges resetParts s t

section
variable {l : LineNo} {s t u : State} {ls : List LineNo}

/-- A line in no call: its attempt is let go, with its outcome told. -/
theorem resetLine_idle (quiet : Bool) (idle : (s.line l).state.inProgress = false) :
    ∃ docs store link, resetLine quiet s l = { s.setLine l (s.line l).letGone with docs, store, link } := by
  unfold resetLine
  dsimp only
  rw [if_neg (by rw [idle]; nofun)]
  cases attempt : (s.line l).attempt with
  | none =>
    refine ⟨s.docs, s.store, s.link, ?_⟩
    dsimp only
    rw [State.modLine_eq]
    unfold Line.letGone
    rw [← attempt]
    rfl
  | some a =>
    obtain ⟨store, link, docs, told⟩ := outcomeReport_docsStoreLink quiet a.doc a.index .reset s.now none s
    refine ⟨docs, store, link, ?_⟩
    dsimp only
    unfold letGo
    rw [told, State.modLine_eq, State.modLine_eq, State.line_setLine_self, State.setLine_setLine]
    rfl

/-- A line in a call: the call ended with RESET and logged. -/
theorem resetLine_ends {c : CallRec} (quiet : Bool) (busy : (s.line l).state.inProgress = true) (call : (s.line l).call = some c) :
    ∃ y docs desks recept engine store link armed r, LineEnded (s.line l) y ∧
      resetLine quiet s l = { s.setLine l y with docs, desks, recept, engine, store, link, log := s.log.filled r armed } ∧
      (r.cause = .reset ∧ r.release = s.now ∧ r.sequence = s.log.sequence) ∧
      recept.urgentTable = s.recept.urgentTable ∧ (s.engine.entry = none → engine = s.engine) := by
  obtain ⟨x, docs, desks, recept, engine, store, link, armed, r, is_x, hung, of_r, urgent, idle⟩ :=
    hangUp_effect quiet .reset call
  have config : x.config = (s.line l).config := by
    obtain same | same := is_x <;> rw [same]
    rfl
  refine ⟨{ x.released.onHook .reset with
      params := { (x.released.onHook .reset).params with repeats := 0 }
      ringCount := 0, burst := false, refused := false, deferred := false, expander := .reset, charged := [], playPos := 0 },
    docs, desks, recept, engine, store, link, armed, r, ⟨rfl, rfl, rfl, rfl, rfl, rfl, rfl, rfl, rfl, rfl, config⟩, ?_, of_r,
    urgent, idle⟩
  unfold resetLine
  dsimp only
  rw [if_pos busy, hung, State.modLine_eq, State.modLine_eq, State.line_setLine_self, State.setLine_setLine]
  have line : ({ s.setLine l (x.released.onHook .reset) with
      docs, desks, recept, engine, store, link, log := s.log.filled r armed } : State).line l = x.released.onHook .reset :=
    State.line_setLine_self s l _
  rw [line]
  exact congrArg (fun lines : Lines => ({ s with
    lines, docs, desks, recept, engine, store, link, log := s.log.filled r armed } : State))
    (congrArg State.lines (State.setLine_setLine s l (x.released.onHook .reset) _))

/-- One line's reset. -/
theorem resetLine_resets (quiet : Bool) (held : (s.line l).state.inProgress = true → (s.line l).call.isSome)
    (small : s.log.sequence < 65536) : LinesReset [l] s (resetLine quiet s l) := by
  cases busy : (s.line l).state.inProgress with
  | false =>
    obtain ⟨docs, store, link, reset⟩ := resetLine_idle quiet busy
    rw [reset]
    refine ⟨fun k mem _ => ?_, fun k mem some_ => ?_, fun k other => ?_, ⟨[], ?_⟩, rfl, rfl, fun _ => rfl, fun p other => ?_⟩
    · rw [List.mem_singleton.1 mem]
      exact State.line_setLine_self s l _
    · rw [List.mem_singleton.1 mem, busy] at some_
      exact nomatch some_
    · exact State.line_setLine_ne s _ fun same => other (List.mem_singleton.2 same)
    · refine ⟨(List.append_nil _).symm, ?_, fun i r found => absurd (List.getElem?_nil.symm.trans found) nofun, (Nat.mod_eq_of_lt small).symm⟩
      exact congrArg List.length (by rw [List.filter_singleton, busy]; rfl : ([l].filter fun l => (s.line l).state.inProgress) = []).symm
    · cases p <;> first | rfl | exact absurd (by decide) other
  | true =>
    obtain ⟨c, call⟩ := Option.isSome_iff_exists.1 (held busy)
    obtain ⟨y, docs, desks, recept, engine, store, link, armed, r, ended, reset, of_r, urgent, idle⟩ :=
      resetLine_ends quiet busy call
    rw [reset]
    refine ⟨fun k mem none_ => ?_, fun k mem _ => ?_, fun k other => ?_, ⟨[r], rfl, ?_, fun i q found => ?_, rfl⟩, rfl, urgent,
      idle, fun p other => ?_⟩
    · rw [List.mem_singleton.1 mem, busy] at none_
      exact nomatch none_
    · rw [List.mem_singleton.1 mem]
      exact (State.line_setLine_self s l y).symm ▸ ended
    · exact State.line_setLine_ne s _ fun same => other (List.mem_singleton.2 same)
    · exact congrArg List.length (by rw [List.filter_singleton, busy]; rfl : ([l].filter fun l => (s.line l).state.inProgress) = [l]).symm
    · cases i with
      | zero =>
        obtain rfl := Option.some.inj found
        exact ⟨of_r.1, of_r.2.1, of_r.2.2.trans (Nat.mod_eq_of_lt small).symm⟩
      | succ i => exact nomatch found
    · cases p <;> first | rfl | exact absurd (by decide) other

/-- One line after another. -/
theorem LinesReset.cons (h : LinesReset [l] s u) (g : LinesReset ls u t) (other : l ∉ ls) : LinesReset (l :: ls) s t := by
  have same (k : LineNo) (mem : k ∈ ls) : u.line k = s.line k := h.others k fun single =>
    other (List.mem_singleton.1 single ▸ mem)
  have mine : t.line l = u.line l := g.others l other
  have now : u.now = s.now := congrArg Timekeeper.time (h.only .tk (by decide))
  obtain ⟨new, records, count, of_new, sequence⟩ := h.log
  obtain ⟨more, records', count', of_more, sequence'⟩ := g.log
  refine ⟨fun k mem none_ => ?_, fun k mem some_ => ?_, fun k out => ?_, ⟨new ++ more, ?_, ?_, fun i r found => ?_, ?_⟩,
    g.scan.trans h.scan, g.urgent.trans h.urgent, fun idle => (g.engine (by rw [h.engine idle]; exact idle)).trans (h.engine idle),
    h.only.trans g.only⟩
  · obtain is_l | mem := List.mem_cons.1 mem
    · subst is_l
      rw [mine]
      exact h.idle _ (List.mem_singleton.2 rfl) none_
    · rw [g.idle k mem (by rw [same k mem]; exact none_), same k mem]
  · obtain is_l | mem := List.mem_cons.1 mem
    · subst is_l
      rw [mine]
      exact h.ended _ (List.mem_singleton.2 rfl) some_
    · rw [← same k mem]
      exact g.ended k mem (by rw [same k mem]; exact some_)
  · obtain ⟨not, out⟩ := not_or.1 (List.mem_cons.not.1 out)
    rw [g.others k out, h.others k fun single => not (List.mem_singleton.1 single)]
  · rw [records', records, List.append_assoc]
  · have rest : (ls.filter fun l => (u.line l).state.inProgress) = ls.filter fun l => (s.line l).state.inProgress :=
      List.filter_congr fun k mem => by rw [same k mem]
    rw [List.length_append, count, count', rest, ← List.length_append, ← List.filter_append]
    rfl
  · by_cases early : i < new.length
    · rw [List.getElem?_append_left early] at found
      exact of_new i r found
    · rw [List.getElem?_append_right (Nat.le_of_not_lt early)] at found
      obtain ⟨cause, release, number⟩ := of_more _ r found
      refine ⟨cause, release.trans now, ?_⟩
      rw [number, sequence]
      omega
  · rw [sequence', sequence, List.length_append]
    omega

/-- All lines' reset. -/
theorem foldl_resetLine (quiet : Bool) (single : ls.Nodup)
    (held : ∀ l, (s.line l).state.inProgress = true → (s.line l).call.isSome) (small : s.log.sequence < 65536) :
    LinesReset ls s (ls.foldl (resetLine quiet) s) := by
  induction ls generalizing s with
  | nil =>
    refine ⟨nofun, nofun, fun _ _ => rfl, ⟨[], (List.append_nil _).symm, rfl, fun i r found => absurd (List.getElem?_nil.symm.trans found) nofun, ?_⟩, rfl, rfl, fun _ => rfl,
      OnlyChanges.refl _ _⟩
    rw [List.length_nil, Nat.add_zero, Nat.mod_eq_of_lt small]
    rfl
  | cons l ls ih =>
    obtain ⟨other, single⟩ := List.nodup_cons.1 single
    have one := resetLine_resets quiet (held l) small
    have still (k : LineNo) : ((resetLine quiet s l).line k).state.inProgress = true → ((resetLine quiet s l).line k).call.isSome := by
      by_cases here : k = l
      · subst here
        intro busy
        cases before : (s.line k).state.inProgress with
        | false =>
          rw [one.idle k (List.mem_singleton.2 rfl) before] at busy
          exact absurd (before.symm.trans busy) (by nofun)
        | true =>
          rw [(one.ended k (List.mem_singleton.2 rfl) before).1] at busy
          exact nomatch busy
      · rw [one.others k fun mem => here (List.mem_singleton.1 mem)]
        exact held k
    obtain ⟨new, -, -, -, sequence⟩ := one.log
    exact one.cons (ih single still (by rw [sequence]; exact Nat.mod_lt _ (by decide))) other

end

end Sys2Proof.Machine
end

section
/-! PROOFS. The RESET command, its reply and the obligation on both scopes (R24, R45, R72, R93, R136, R153, R190, R214). -/

namespace Sys2Proof.Machine

theorem mem_allLines (l : LineNo) : l ∈ allLines := by
  revert l
  decide

section
variable {s t : State} {tag : Byte}

/-- Every line's call or attempt is ended. -/
theorem resetAllLines_resets (quiet : Bool) (held : ∀ l, (s.line l).state.inProgress = true → (s.line l).call.isSome)
    (small : s.log.sequence < 65536) : LinesReset allLines s (resetAllLines quiet s) :=
  foldl_resetLine quiet (by decide) held small

/-- With no call and no attempt anywhere only rings and dial buffers go. -/
theorem resetAllLines_quiet (quiet : Bool) (idle : ∀ l, (s.line l).state.inProgress = false) (none_ : ∀ l, (s.line l).attempt = none) :
    OnlyChanges [.lines] s (resetAllLines quiet s) := by
  unfold resetAllLines
  generalize allLines = ls
  induction ls generalizing s with
  | nil => exact OnlyChanges.refl _ _
  | cons l ls ih =>
    have reset : resetLine quiet s l = s.setLine l (s.line l).letGone := by
      unfold resetLine
      dsimp only
      rw [if_neg (by rw [idle l]; nofun), none_ l]
      dsimp only
      rw [State.modLine_eq]
      unfold Line.letGone
      rw [← none_ l]
    have kept (k : LineNo) : ((s.setLine l (s.line l).letGone).line k).state = (s.line k).state ∧
        ((s.setLine l (s.line l).letGone).line k).attempt = none := by
      by_cases here : k = l
      · subst here
        rw [State.line_setLine_self]
        exact ⟨rfl, rfl⟩
      · rw [State.line_setLine_ne s _ here]
        exact ⟨rfl, none_ k⟩
    rw [List.foldl_cons, reset]
    refine OnlyChanges.trans (t := s.setLine l (s.line l).letGone) (fun p other => ?_)
      (ih (fun k => by rw [(kept k).1]; exact idle k) fun k => (kept k).2)
    cases p <;> first | rfl | exact absurd (by decide) other

/-- The reply's fields before the free count and the pages released. -/
theorem resetFields_eq (scope : Nat) {new : List LogRecord} (records : t.log.records = s.log.records ++ new)
    (count : new.length = s.callsInProgress) : resetFields scope s t = e8 scope ++ eTime s.now ++ e8 s.callsInProgress ++
      e8 s.callsInProgress ++ eOpt e16 (if s.callsInProgress = 0 then none else some s.log.sequence) ++ e16 t.freeCount := by
  have filled : t.log.records.length - s.log.records.length = s.callsInProgress := by
    rw [records, List.length_append, Nat.add_sub_cancel_left, count]
  unfold resetFields
  rw [filled]

/-! ### Scope ENGINE -/

/-- The part with its calls ended and its blocks cleared, a jam not yet taken. -/
def State.engineReset (s : State) : State :=
  let t := resetAllLines true (s.modEngine Engine.scopeReset)
  { t with
    store := t.store.scopeReset s.store.dir, scan := t.scan.scopeReset, docs := t.docs.scopeReset s.docs.docs,
    recept := t.recept.scopeReset s.recept.docs }

/-- With no page in hand a jam indication latches alone. -/
theorem jamIndication_latches (unlatched : s.engine.jamLatched = false) (hand : s.engine.page = none) :
    ∃ link, jamIndication s = { s with
      link
      engine := { s.engine.emptyRing with jamSensor := true, jamLatched := true, uncut := false, cutFeed := false } } := by
  let v : State := { s with
    engine := { s.engine with jamSensor := true, jamLatched := true, uncut := false, cutFeed := false } }
  have stops : jamIndication s = raise .printerFault (printerFaultFields 1 { s.engine with jamSensor := true }) (interruptPage v) := by
    unfold jamIndication
    exact if_neg (by show ¬s.engine.jamLatched = true; rw [unlatched]; nofun)
  rw [interruptPage_none (s := v) (by exact hand)] at stops
  obtain ⟨notices, lost, raised⟩ := raise_frame .printerFault (printerFaultFields 1 { s.engine with jamSensor := true })
    { v with engine := v.engine.emptyRing }
  exact ⟨_, stops.trans raised⟩

/-- The reset of scope ENGINE, its jam indication written out: with nothing in hand it latches alone. -/
theorem scopeEngine_eq (held : ∀ l, (s.line l).state.inProgress = true → (s.line l).call.isSome)
    (small : s.log.sequence < 65536) :
    LinesReset allLines (s.modEngine Engine.scopeReset) (resetAllLines true (s.modEngine Engine.scopeReset)) ∧
    s.engineReset.engine = s.engine.scopeReset ∧
    ∃ link, scopeEngine s = { s.engineReset with
      link
      engine := if s.engine.jamSensor then
          { s.engine.scopeReset with jamSensor := true, jamLatched := true, uncut := false, cutFeed := false }
        else s.engine.scopeReset } := by
  have reset := resetAllLines_resets (s := s.modEngine Engine.scopeReset) true held small
  have engine : s.engineReset.engine = s.engine.scopeReset := (reset.engine rfl :)
  refine ⟨reset, engine, ?_⟩
  have takes : scopeEngine s = if s.engineReset.engine.jamSensor then jamIndication s.engineReset else s.engineReset := rfl
  have jam : s.engineReset.engine.jamSensor = s.engine.jamSensor := (congrArg Engine.jamSensor engine :)
  cases sensor : s.engine.jamSensor with
  | false =>
    rw [sensor] at jam
    refine ⟨s.engineReset.link, ?_⟩
    rw [takes, jam, if_neg nofun, if_neg nofun, ← engine]
  | true =>
    rw [sensor] at jam
    have latched : s.engineReset.engine.jamLatched = false := (congrArg Engine.jamLatched engine :)
    have hand : s.engineReset.engine.page = none := (congrArg Engine.page engine :)
    obtain ⟨link, latches⟩ := jamIndication_latches latched hand
    refine ⟨link, ?_⟩
    rw [takes, jam, if_pos rfl, if_pos rfl, latches, engine]
    rfl

end

section
variable {s u v t : State}

/-- A part whose lines and log are those of the reset, by the reset's terms. -/
theorem LinesReset.ends (reset : LinesReset allLines u v) (lines : u.lines = s.lines) (log : u.log = s.log) (tk : u.tk = s.tk)
    (lines' : t.lines = v.lines) (log' : t.log = v.log) :
    (∀ l, (s.line l).state.inProgress = false → t.line l = (s.line l).letGone) ∧
    (∀ l, (s.line l).state.inProgress = true → LineEnded (s.line l) (t.line l)) ∧
    ∃ new, t.log.records = s.log.records ++ new ∧ new.length = s.callsInProgress ∧
      ∀ i r, new[i]? = some r → r.cause = .reset ∧ r.release = s.now ∧ r.sequence = (s.log.sequence + i) % 65536 := by
  have before (l : LineNo) : u.line l = s.line l := congrArg (fun x : Lines => x.get l) lines
  have after (l : LineNo) : t.line l = v.line l := congrArg (fun x : Lines => x.get l) lines'
  have now : u.now = s.now := congrArg Timekeeper.time tk
  obtain ⟨new, records, count, of_new, -⟩ := reset.log
  refine ⟨fun l idle => ?_, fun l busy => ?_, new, ?_, ?_, fun i r found => ?_⟩
  · rw [after, ← before]
    exact reset.idle l (mem_allLines l) (by rw [before]; exact idle)
  · rw [after, ← before]
    exact reset.ended l (mem_allLines l) (by rw [before]; exact busy)
  · rw [log', records, log]
  · rw [count]
    exact congrArg List.length (List.filter_congr fun l _ => by rw [before])
  · rw [← now, ← log]
    exact of_new i r found

theorem callsInProgress_none (none_ : s.callsInProgress = 0) (l : LineNo) : (s.line l).state.inProgress = false := by
  refine Bool.eq_false_iff.2 fun busy => ?_
  exact absurd (List.mem_filter.2 ⟨mem_allLines l, busy⟩) (by rw [List.eq_nil_of_length_eq_zero none_]; exact List.not_mem_nil)

end

/-- Settles O60. -/
theorem resetScopes : Obligations.ResetScopes := by
  intro tag s s₁ held small linesEnd head
  refine ⟨fun taken quiet => ?_, fun taken => ?_, fun o more taken => ⟨?_, ?_⟩⟩
  · have reset := resetAllLines_resets false held small
    have done : scanRetry (resetAllLines false s₁) = resetAllLines false s₁ := scanRetry_eq (by rw [reset.scan]; exact quiet)
    obtain ⟨idle, ended, new, records, count, of_new⟩ := reset.ends (s := s₁) (t := resetAllLines false s₁) rfl rfl rfl rfl rfl
    have answer : resetScopeLines [0] s₁ =
        .ok (resetAllLines false s₁, head 0 ++ e16 (resetAllLines false s₁).store.pool.count) := by
      unfold resetScopeLines
      refine (if_neg (not_not_intro rfl)).trans ?_
      rw [done]
      dsimp only
      rw [resetFields_eq 0 records count]
      rfl
    exact ⟨_, exec_answers (exec_form rfl rfl) taken answer, ⟨idle, ended, ⟨new, records, count, of_new⟩, reset.only⟩, reset.scan,
      reset.urgent, fun none_ unseized => resetAllLines_quiet false (callsInProgress_none none_) unseized⟩
  · obtain ⟨reset, engine, link, scope⟩ := scopeEngine_eq held small
    generalize is_engine : (if s₁.engine.jamSensor then
        ({ s₁.engine.scopeReset with jamSensor := true, jamLatched := true, uncut := false, cutFeed := false } : Engine)
      else s₁.engine.scopeReset) = g at scope
    obtain ⟨idle, ended, new, records, count, of_new⟩ := reset.ends (s := s₁) (t := scopeEngine s₁) rfl rfl rfl (by rw [scope]; rfl)
      (by rw [scope]; rfl)
    have answer : resetScopeEngine [1] s₁ = .ok (scopeEngine s₁, head 1 ++ e16 8192 ++ e16 s₁.livePages) := by
      unfold resetScopeEngine
      refine (if_neg (not_not_intro rfl)).trans ?_
      dsimp only
      rw [resetFields_eq 1 records count, show (scopeEngine s₁).freeCount = 8192 by rw [scope]; rfl]
    refine ⟨scopeEngine s₁, exec_answers (exec_form rfl rfl) taken answer, ⟨idle, ended, ⟨new, records, count, of_new⟩, ?_⟩, ?_⟩
    · rw [scope]
      refine OnlyChanges.trans (t := resetAllLines true (s₁.modEngine Engine.scopeReset)) ?_ fun p other => ?_
      · refine OnlyChanges.trans (t := s₁.modEngine Engine.scopeReset) (fun p other => ?_) reset.only
        cases p <;> first | rfl | exact absurd (by decide) other
      · cases p <;> first | rfl | exact absurd (by decide) other
    · have scan : (scopeEngine s₁).scan = s₁.scan.scopeReset := by
        rw [scope]
        exact congrArg Scan.scopeReset reset.scan
      have jam (P : Engine → Prop) (taken : s₁.engine.jamSensor = true → P { s₁.engine.scopeReset with
          jamSensor := true, jamLatched := true, uncut := false, cutFeed := false })
          (clear : s₁.engine.jamSensor = false → P s₁.engine.scopeReset) : P (scopeEngine s₁).engine := by
        rw [scope]
        show P g
        rw [← is_engine]
        split
        · rename_i reports
          exact taken reports
        · rename_i silent
          exact clear (eq_false_of_ne_true silent)
      refine ⟨?_, fun k => ?_, ?_, fun x port => ?_, ?_, fun k => ?_, fun r => ?_, ?_, fun k => ?_, ?_, ?_, ?_, ?_,
        jam (fun e => e.entry = none) (fun _ => rfl) fun _ => rfl, jam (fun e => e.page = none) (fun _ => rfl) fun _ => rfl,
        jam (fun e => e.ring = []) (fun _ => rfl) fun _ => rfl, jam (fun e => e.hostPause = false) (fun _ => rfl) fun _ => rfl,
        jam (fun e => e.jamLatched = s₁.engine.jamSensor) Eq.symm Eq.symm,
        jam (fun e => e.reprints = s₁.engine.reprints) (fun _ => rfl) fun _ => rfl,
        jam (fun e => e.cutFeed = ((s₁.engine.cutFeed || s₁.engine.uncut) && !s₁.engine.jamSensor)) (fun reports => ?_) fun silent => ?_,
        fun active => ?_, fun none_ => ?_⟩
      · rw [scope, List.range_eq_range']
        exact List.append_nil _
      · rw [scope]
        exact Table.get_map ..
      · rw [scope]
        rfl
      · rw [scope] at port
        obtain ⟨y, -, rfl⟩ := Option.map_eq_some_iff.1 port
        rfl
      · rw [scope]
        rfl
      · rw [scope]
        exact Table.get_map ..
      · rw [scope]
        rfl
      · rw [scope]
        rfl
      · rw [scope]
        exact Table.get_map ..
      · rw [scope]
        rfl
      · rw [scope]
        rfl
      · rw [scope]
        rfl
      · rw [scope]
        exact reset.urgent
      · rw [reports, Bool.not_true, Bool.and_false]
      · rw [silent, Bool.not_false, Bool.and_true]
        rfl
      · have carries : s₁.scan.scopeReset = { ({ s₁.scan with
            settings := { s₁.scan.settings with target := none }, target := none } : Scan).emptied with
            page := none, state := .ejecting, nextSheet := false, endCause := .reset } := by
          unfold Scan.scopeReset
          obtain scanning | held := active
          · exact (if_neg (by show ¬s₁.scan.state = _; rw [scanning]; nofun)).trans
              (if_neg fun both => by exact absurd (scanning.symm.trans both.1) nofun)
          · exact (if_neg (by show ¬s₁.scan.state = _; rw [held]; nofun)).trans
              (if_neg fun both => by exact absurd (held.symm.trans both.1) nofun)
        rw [scan, carries]
        exact ⟨rfl, rfl, rfl, rfl, rfl, rfl, rfl⟩
      · rw [scan]
        exact if_pos none_
  · have form : scopeForm 0 [o] = true := Bool.or_eq_true_iff.2 (.inr (decide_eq_true more))
    exact exec_refuses (exec_form form rfl) taken (if_pos (by rintro rfl; exact absurd more (by decide)))
  · have form : scopeForm 1 [o] = true := Bool.or_eq_true_iff.2 (.inr (decide_eq_true more))
    exact exec_refuses (exec_form form rfl) taken (if_pos (by rintro rfl; exact absurd more (by decide)))

end Sys2Proof.Machine
end

section
/-! PROOFS. The store port's arbiter: the client that is granted, and the grant's step (R5, R7, R16). -/

namespace Sys2Proof.Machine

/-! ### The rotation (R16) -/

/-- After any last winner the clients stand in the order of their turns. -/
theorem rotationAfter_ordered (last : Option Client) :
    (rotationAfter last).Pairwise fun a b => turnAfter last a < turnAfter last b := by
  cases last with
  | none => decide
  | some w => cases w with
    | lc l => revert l; decide
    | scan => decide
    | print => decide
    | hostXfer => decide

theorem mem_rotationAfter (last : Option Client) (c : Client) : c ∈ rotationAfter last := by
  have all : c ∈ rotation := by
    cases c with
    | lc l => revert l; decide
    | scan => decide
    | print => decide
    | hostXfer => decide
  cases last with
  | none => exact all
  | some w =>
    rw [← List.take_append_drop (rotation.findIdx (fun d => d == w) + 1) rotation] at all
    exact List.mem_append.2 (List.mem_append.1 all).symm

theorem le_topLevel {waiting : List Request} {q : Request} (mem : q ∈ waiting) : q.level ≤ topLevel waiting := by
  induction waiting with
  | nil => exact absurd mem List.not_mem_nil
  | cons r rest ih =>
    obtain same | mem := List.mem_cons.1 mem
    · exact same ▸ Nat.le_max_left _ _
    · exact Nat.le_trans (ih mem) (Nat.le_max_right _ _)

theorem exists_topLevel {waiting : List Request} (some_ : waiting ≠ []) : ∃ q ∈ waiting, q.level = topLevel waiting := by
  induction waiting with
  | nil => exact absurd rfl some_
  | cons r rest ih =>
    by_cases top : topLevel rest ≤ r.level
    · exact ⟨r, List.mem_cons_self .., (Nat.max_eq_left top).symm⟩
    · obtain ⟨q, mem, level⟩ := ih fun none_ => top (by rw [none_]; exact Nat.zero_le _)
      exact ⟨q, List.mem_cons_of_mem _ mem, level.trans (Nat.max_eq_right (Nat.le_of_not_le top)).symm⟩

/-- The request of a client at a level. -/
theorem find_request {waiting : List Request} {q : Request} (mem : q ∈ waiting) :
    ∃ r, (waiting.find? fun r => r.client == q.client && r.level == q.level) = some r := by
  refine Option.isSome_iff_exists.1 (List.find?_isSome.2 ⟨q, mem, ?_⟩)
  rw [beq_self_eq_true, beq_self_eq_true]
  rfl

/-- What is granted stands at the highest level, and of it first in the rotation. -/
theorem pick_first {t : Store} {r : Request} (picked : t.pick = some r) : r ∈ t.waiting ∧ ∀ q ∈ t.waiting, q.level ≤ r.level ∧
    (q.level = r.level → turnAfter (t.winners.get r.level) r.client ≤ turnAfter (t.winners.get r.level) q.client) := by
  obtain ⟨front, c, back, split, found, none_⟩ := List.findSome?_eq_some_iff.1 picked
  have both := List.find?_some found
  obtain ⟨client, level⟩ := Bool.and_eq_true_iff.1 both
  have is_client : r.client = c := eq_of_beq client
  have is_level : r.level = topLevel t.waiting := eq_of_beq level
  refine ⟨List.mem_of_find?_eq_some found, fun q mem => ⟨is_level ▸ le_topLevel mem, fun same => ?_⟩⟩
  rw [is_level, is_client]
  have ordered := rotationAfter_ordered (t.winners.get (topLevel t.waiting))
  have held := mem_rotationAfter (t.winners.get (topLevel t.waiting)) q.client
  rw [split] at ordered held
  obtain early | rest := List.mem_append.1 held
  · obtain ⟨r', found'⟩ := find_request mem
    rw [same, is_level] at found'
    exact absurd (none_ _ early) (by rw [found']; nofun)
  · obtain here | later := List.mem_cons.1 rest
    · rw [here]
    · exact Nat.le_of_lt ((List.pairwise_cons.1 (List.pairwise_append.1 ordered).2.1).1 _ later)

/-- Something that waits is picked. -/
theorem pick_some {t : Store} (some_ : t.waiting ≠ []) : ∃ r, t.pick = some r := by
  obtain ⟨q, mem, level⟩ := exists_topLevel some_
  obtain ⟨r, found⟩ := find_request mem
  rw [level] at found
  exact Option.isSome_iff_exists.1 (List.findSome?_isSome_iff.2
    ⟨q.client, mem_rotationAfter _ _, by rw [found]; rfl⟩)

/-! ### The grant (R5, R7) -/

section
variable {s : State} {r : Request} {h : PageHandle} {data : List Byte} {a : Allocation}

theorem exec_grant (on : s.power = true) : exec .storePortGrant s = .next (scanRetry (grantStep s)) :=
  exec_event (act := fun s => scanRetry (grantStep s)) on rfl

theorem grantStep_busy (busy : s.store.port.isSome) : grantStep s = s := if_pos busy

/-- A read, and a write that passes the test again, is granted. -/
theorem grantStep_grants (free : s.store.port = none) (picked : s.store.pick = some r)
    (passes : ∀ h data close, r.op = .write h data close → allocTest s (s.entry h.slot) r.client = .pass) :
    grantStep s = { s with store := { s.store with
      waiting := s.store.waiting.filter fun q => decide (q.client ≠ r.client),
      port := some { req := r, addr := targetBlock s r.op, void := false },
      winners := s.store.winners.set r.level (some r.client) } } := by
  unfold grantStep
  rw [free, picked]
  dsimp only
  rw [if_neg (by nofun)]
  cases op : r.op with
  | read p k =>
    show grantTo r (dropRequest r s) = _
    rw [← op]
    rfl
  | write p data close =>
    dsimp only
    rw [show allocTest (dropRequest r s) ((dropRequest r s).entry p.slot) r.client = .pass from passes p data close op, ← op]
    rfl

/-- A write that the test refuses is withdrawn, and its writer told. -/
theorem grantStep_refused (free : s.store.port = none) (picked : s.store.pick = some r) (op : r.op = .write h data none)
    (test : allocTest s (s.entry h.slot) r.client = a) (refused : a ≠ .pass) :
    grantStep s = blockRefused r.client a (dropRequest r s) := by
  unfold grantStep
  rw [free, picked]
  dsimp only
  rw [if_neg (by nofun), op]
  dsimp only
  rw [show allocTest (dropRequest r s) ((dropRequest r s).entry h.slot) r.client = a from test]
  cases a with
  | pass => exact absurd rfl refused
  | storeFull => rfl
  | pageLimit => rfl

/-- A final block that the test refuses at the grant is withdrawn, and its writer goes on without it (R5). -/
theorem grantStep_unclosed {req : CloseReq} (free : s.store.port = none) (picked : s.store.pick = some r)
    (op : r.op = .write h data (some req)) (test : allocTest s (s.entry h.slot) r.client = a) (refused : a ≠ .pass) :
    grantStep s = closeRefused r.client h req a (dropRequest r s) := by
  unfold grantStep
  rw [free, picked]
  dsimp only
  rw [if_neg (by nofun), op]
  dsimp only
  rw [show allocTest (dropRequest r s) ((dropRequest r s).entry h.slot) r.client = a from test]
  cases a with
  | pass => exact absurd rfl refused
  | storeFull => rfl
  | pageLimit => rfl

/-- A write that needs a segment goes to the pool's head. -/
theorem targetBlock_head (close : Option CloseReq) (full : (s.entry h.slot).committed = 16 * (s.entry h.slot).chain.length) :
    targetBlock s (.write h data close) = 16 * (s.store.pool.toList.headD 0) := by
  have needs : (s.entry h.slot).needsSegment = true := decide_eq_true (Nat.le_of_eq full.symm)
  unfold targetBlock
  dsimp only
  rw [needs, if_pos rfl, SegPool.head_eq]
  cases s.store.pool.toList <;> rfl

end

end Sys2Proof.Machine
end

section
/-! PROOFS. What each writer does as its block is refused at the grant (R5, R9, R20, R21, R40, R42, R109, R110). -/

namespace Sys2Proof.Machine

section
variable {s : State} {r : Request} {h : PageHandle} {data left : List Byte} {e : PageEntry} {req : CloseReq} {tag : Byte}
  {fromPending accepted : Nat}

/-! ### Uploads (R20, R21) -/

theorem upload_blockRefused {a : Allocation} (job : s.link.job = some (.writeData tag h left fromPending accepted)) :
    blockRefused .hostXfer a s = reply 0x11 tag .storeFull
      (e16 accepted ++ e32 ((s.entry h.slot).byteLen + (left.take fromPending).length))
      ((s.setEntry h.slot { s.entry h.slot with pending := left.take fromPending }).setJob none) := by
  have entry : (s.modEntry h.slot fun e => { e with pending := left.take fromPending }).entry h.slot =
      { s.entry h.slot with pending := left.take fromPending } := State.entry_setEntry_self ..
  unfold blockRefused
  dsimp only
  rw [job]
  unfold writeRefused writeFields
  dsimp only
  rw [entry]
  rfl

theorem upload_closeRefused {a : Allocation} (job : s.link.job = some (.closePage tag h)) (there : s.page h = some e)
    (hold : req.hold = .none) (pins : 0 < e.pins) :
    closeRefused .hostXfer h req a s = reply 0x12 tag .ok
      (e32 e.byteLen ++ e16 e.committed ++ [(e.closedBy { req with truncated := true }).flagsOctet])
      (raise .pageClosed (pageClosedFields h (e.closedBy { req with truncated := true }))
        ((s.setJob none).setEntry h.slot (e.closedBy { req with truncated := true }))) := by
  have closes := closeUpload_eq (tag := tag) (c := { req with truncated := true }) (s := s.setJob none) rfl (by exact there) hold pins
  unfold closeRefused
  dsimp only
  rw [job]
  exact closes

/-! ### The scan unit (R40, R42) -/

/-- A held job stays as it is, with a block in its full buffer or none, while the test refuses one. -/
theorem scanRetry_stays (held : s.scan.state = .held) (page : s.scan.page = some h)
    (refused : allocTest s (s.entry h.slot) .scan = .storeFull) : scanRetry s = s := by
  cases full : s.scan.full with
  | some data => exact scanRetry_refused held page full refused
  | none =>
    unfold scanRetry presentBlock
    rw [page, full]
    exact ite_self _

theorem scan_blockRefused (scanning : s.scan.state = .scanning) (page : s.scan.page = some h) :
    blockRefused .scan .storeFull s = raise .scanHeld (ePage h ++ e16 s.freeCount ++ e16 s.cfg.receptionReserve)
      { s with scan := { s.scan with state := .held, holdTime := 0 } } := by
  unfold blockRefused scanRefused State.modScan
  dsimp only
  rw [if_pos scanning, page]

theorem closeRefused_limit {ending : PageEnding} (ended : s.scan.ending = some ending) :
    closeRefused .scan h req .pageLimit s = limitPage s := by
  unfold closeRefused
  dsimp only
  rw [ended]
  rfl

/-- A final block that the store refuses: the page closes without it, the sensor read after its trailing edge. -/
theorem closeRefused_full {ending : PageEnding} (ended : s.scan.ending = some ending) :
    closeRefused .scan h req .storeFull s = pageDone ending
      (if ending = .trailingEdge then readPaper (finishClose false h { req with truncated := true } s)
        else finishClose false h { req with truncated := true } s) := by
  unfold closeRefused
  dsimp only
  rw [ended]
  rfl

theorem pageDone_other {ending : PageEnding} (other : ending ≠ .trailingEdge) : pageDone ending s =
    { s with scan := { s.scan.pageOver with state := .ejecting, nextSheet := true } } := by
  cases ending with
  | trailingEdge => exact absurd rfl other
  | length => rfl
  | pageLimit => rfl

end

/-! ### Line channels (R109, R110) -/

section
variable {l : LineNo} {c : CallRec} {g : InHandle} {d : InDoc} {h : PageHandle} {e : PageEntry} {s t v : State} {req : CloseReq}

/-- A line whose page has failed in the store, PAGE_FAILED to answer. -/
def Line.pageFails (x : Line) : Line := ((x.countsPage).storeFailed .segments).formed (.msg .pageFailed)

/-- The store failure in any call state: the line's answer formed, LINE_STATE where the state is new. -/
theorem storeFails_frame (closed : closeReceived false l (withdraw (.lc l) s) = v) : ∃ notices lost,
    storeFails l .segments s = { v.setLine l (((v.line l).storeFailed .segments).formed (.msg .pageFailed)) with
      link := { v.link with notices, lost } } := by
  obtain ⟨notices, lost, changed⟩ := changeState_frame l .releasing none
    (v.setLine l { (v.line l).withCause (.storeFull .segments) with
      recv := .reset, proc := { (v.line l).proc with andThen := some .quit } })
  rw [State.line_setLine_self, State.setLine_setLine] at changed
  refine ⟨notices, lost, ?_⟩
  have fails : storeFails l .segments s = answerStored l (.msg .pageFailed) { v.setLine l ((v.line l).storeFailed .segments) with
      link := { v.link with notices, lost } } := by
    unfold storeFails State.modCall
    dsimp only
    rw [closed, State.modLine_eq _ l, State.modLine_eq _ l, State.line_setLine_self, State.setLine_setLine]
    exact congrArg (answerStored l (.msg .pageFailed)) changed
  have line : ({ v.setLine l ((v.line l).storeFailed .segments) with link := { v.link with notices, lost } } : State).line l =
      (v.line l).storeFailed .segments := State.line_setLine_self ..
  rw [fails, answerStored_eq, line]
  exact congrArg (fun lines : Lines => ({ v with lines, link := { v.link with notices, lost } } : State))
    (congrArg State.lines (State.setLine_setLine v l ((v.line l).storeFailed .segments) _))

/-- The line, its call and its answer after the failure. -/
theorem pageFails_line (call : (s.line l).call = some c) (line : t.line l = (s.line l).pageFails) :
    (t.line l).state = .releasing ∧ AnswerFormed (.msg .pageFailed) (s.line l) (t.line l) ∧
      (t.line l).proc.andThen = some .quit ∧ (t.line l).recv = .reset ∧
      (t.line l).call = some { c with cause := some (.storeFull .segments), pages := min 255 (c.pages + 1) } := by
  rw [line]
  unfold Line.pageFails
  refine ⟨Line.formed_state .., Line.formed_answer (.msg .pageFailed) ((s.line l).countsPage.storeFailed .segments),
    Line.formed_andThen .., Line.formed_recv .., ?_⟩
  rw [Line.formed_call]
  show ((s.line l).call.map _).map _ = _
  rw [call]
  rfl

/-- With the port free a client's requests are withdrawn from those waiting, once for all. -/
theorem withdraw_free (free : s.store.port = none) (k : Client) : (withdraw k s).store =
    { s.store with waiting := s.store.waiting.filter fun q => decide (q.client ≠ k) } := by
  unfold withdraw
  dsimp only
  rw [free, Option.map_none]

theorem withdraw_twice (free : s.store.port = none) (k : Client) : (withdraw k (withdraw k s)).store = (withdraw k s).store := by
  rw [withdraw_free (s := withdraw k s) (by rw [withdraw_free free]; exact free), withdraw_free free]
  dsimp only
  rw [List.filter_filter]
  exact congrArg (fun waiting => ({ s.store with waiting } : Store)) (List.filter_congr fun q _ => Bool.and_self _)

/-- A page in reception whose block is refused: it closes TRUNCATED with what was committed, listed. -/
theorem line_blockRefused (call : (s.line l).call = some c) (inbound : c.inbound = some g) (there : s.inDoc g = some d)
    (reception : d.inPage = some h) (page : s.page h = some e) (small : s.recept.entryCounter < 65536) (not : NotAwaited g s)
    (free : s.store.port = none) :
    ∃ recept notices lost, storeFails l .segments s = { s.setLine l (s.line l).pageFails with
        recept, link := { s.link with notices, lost }
        store := { s.store with
          dir := s.store.dir.set h.slot e.cutShort
          waiting := s.store.waiting.filter fun q => decide (q.client ≠ .lc l) } } ∧
      PageListed g d h (decide (e.refs < 4095)) s.cfg.autoPrint s.recept recept := by
  obtain ⟨recept, notices, lost, closed, listed⟩ := closeReceived_closes (s := withdraw (.lc l) s) false (by exact call) inbound
    (by exact there) reception (by exact page) small (by exact not)
  obtain ⟨notices', lost', fails⟩ := storeFails_frame closed
  have line : ({ (withdraw (.lc l) s).pageCut l h e notices lost with recept } : State).line l = (s.line l).countsPage :=
    State.line_setLine_self ..
  rw [line] at fails
  have lines : ((withdraw (.lc l) (withdraw (.lc l) s)).setLine l (s.line l).countsPage).setLine l (s.line l).pageFails =
      (withdraw (.lc l) (withdraw (.lc l) s)).setLine l (s.line l).pageFails := State.setLine_setLine ..
  have store : ({ (withdraw (.lc l) (withdraw (.lc l) s)).store with dir := s.store.dir.set h.slot e.cutShort } : Store) =
      { s.store with
        dir := s.store.dir.set h.slot e.cutShort, waiting := s.store.waiting.filter fun q => decide (q.client ≠ .lc l) } := by
    rw [withdraw_twice free, withdraw_free free]
  refine ⟨recept, notices', lost', fails.trans ?_, listed⟩
  exact (congrArg₂ (fun (lines : Lines) (store : Store) => ({ s with
    lines, store, recept, link := { s.link with notices := notices', lost := lost' } } : State)) (congrArg State.lines lines) store :)

/-- A page as its close without its final block leaves it (R9, R110). -/
def PageEntry.unfinished (e : PageEntry) (req : CloseReq) : PageEntry := { e with
  state := .closed, writer := none, lineCount := min 6912 req.lineCount, truncated := true,
  refs := min 4095 (e.refs + 1), pending := [] }

/-- A page in reception whose final block is refused: it closes TRUNCATED, listed, and the call fails. -/
theorem line_closeRefused (call : (s.line l).call = some c) (inbound : c.inbound = some g) (there : s.inDoc g = some d)
    (reception : d.inPage = some h) (page : s.page h = some e) (small : s.recept.entryCounter < 65536) (not : NotAwaited g s)
    (free : s.store.port = none) (hold : req.hold = .reference) :
    ∃ recept notices lost, pageRefused l (s.refTaken h) (finishClose false h { req with truncated := true } s) =
      { s.setLine l (s.line l).pageFails with
        recept, link := { s.link with notices, lost }
        store := { s.store with
          dir := s.store.dir.set h.slot (e.unfinished req)
          waiting := s.store.waiting.filter fun q => decide (q.client ≠ .lc l) } } ∧
      PageListed g d h (decide (e.refs < 4095)) s.cfg.autoPrint s.recept recept := by
  obtain ⟨notices, lost, closed⟩ := finishClose_reference (c := { req with truncated := true }) false page hold
  have ended : { e.closedBy { req with truncated := true } with refs := min 4095 (e.refs + 1) } = e.unfinished req := by
    rw [PageEntry.closedBy_eq, PageEntry.unfinished, Bool.or_true]
  rw [ended] at closed
  let u : State := { s with
    store := { s.store with dir := s.store.dir.set h.slot (e.unfinished req) }, link := { s.link with notices, lost } }
  obtain ⟨recept, listing, listed⟩ := listAndTell_listed (decide (e.refs < 4095)) (s := u.setLine l (s.line l).countsPage)
    (by exact there) h (by exact small) (by exact not)
  let w : State := { u.setLine l (s.line l).countsPage with recept }
  have refuses : pageRefused l (s.refTaken h) (finishClose false h { req with truncated := true } s) = storeFails l .segments w := by
    unfold pageRefused
    rw [closed, callInbound_some (s := u) (by exact call) inbound, pageInReception_some (s := u) (by exact call) inbound
      (by exact there), reception, refTaken_eq page]
    exact congrArg (storeFails l .segments) listing
  obtain ⟨pages, firstClose, printState, doc⟩ := listed.doc
  have over_ : w.pageInReception l = none := by
    obtain ⟨slot, live, issue, -⟩ := State.inDoc_some there
    have line : w.line l = (s.line l).countsPage := State.line_setLine_self ..
    have counted : (w.line l).call = some { c with pages := min 255 (c.pages + 1) } := by
      rw [line]
      exact congrArg (Option.map _) call
    have still : w.inDoc g = some { d with pages, firstClose, printState, inPage := none } := by
      unfold State.inDoc
      rw [show w.recept.docs.get g.slot = _ from doc]
      exact if_pos ⟨slot, live, issue⟩
    exact pageInReception_some counted inbound still
  obtain ⟨notices', lost', fails⟩ := storeFails_frame (l := l) (s := w) (closeReceived_none (by exact over_))
  have line : (withdraw (.lc l) w).line l = (s.line l).countsPage := State.line_setLine_self ..
  rw [line] at fails
  have lines : (u.setLine l (s.line l).countsPage).setLine l (s.line l).pageFails = u.setLine l (s.line l).pageFails :=
    State.setLine_setLine ..
  have store : (withdraw (.lc l) w).store = { s.store with
      dir := s.store.dir.set h.slot (e.unfinished req), waiting := s.store.waiting.filter fun q => decide (q.client ≠ .lc l) } :=
    withdraw_free (s := w) (by exact free) _
  refine ⟨recept, notices', lost', (refuses.trans fails).trans ?_, listed⟩
  exact (congrArg₂ (fun (lines : Lines) (store : Store) => ({ s with
    lines, store, recept, link := { s.link with notices := notices', lost := lost' } } : State)) (congrArg State.lines lines) store :)

end

end Sys2Proof.Machine
end

section
/-! PROOFS. The grants of the store port, for a paper-present sensor that finds no sheet (R5, R16, R38; log 19). -/

namespace Sys2Proof.Machine

section
variable {s t : State} {r : Request} {h : PageHandle} {data : List Byte} {e : PageEntry} {req : CloseReq} {ending : PageEnding}

theorem pinnedBy_closed (e : PageEntry) (lines : Nat) (c : CloseReq) (count : c.lineCount = lines) (cut : c.truncated = true) :
    e.pinnedBy c = { e with
      state := .closed, writer := none, lineCount := min 6912 lines, truncated := true, pending := [],
      pins := min 15 (e.pins + 1) } := by
  unfold PageEntry.pinnedBy
  rw [PageEntry.closedBy_eq, count, cut, Bool.or_true]

end

/-- A page in reception as its failure in the store closes it, with `lines` lines (R109, R110). -/
def PageEntry.failed (e : PageEntry) (lines : Nat) : PageEntry := { e with
  state := .closed, writer := none, lineCount := lines, truncated := true, refs := min 4095 (e.refs + 1), pending := [] }

/-- Where no sheet is ever found, O20 holds. -/
theorem portGrants_of_paperless (none_ : ∀ n, Config.paperAtGrant n = false) : Obligations.PortGrantsByLevelAndRotation := by
  intro s on quiet
  refine ⟨fun free some_ passes => ?_, fun busy => ?_, fun h data close full => targetBlock_head close full,
    fun r h data close free picked op => ?_⟩
  · obtain ⟨r, picked⟩ := pick_some some_
    obtain ⟨mem, first⟩ := pick_first picked
    refine ⟨r, mem, first, ?_⟩
    rw [exec_grant on, grantStep_grants free picked fun h data close op => passes r mem h data close op, scanRetry_eq (by exact quiet)]
  · rw [exec_grant on, grantStep_busy busy, scanRetry_eq quiet]
  · intro e dropped full
    have asked (req : CloseReq) (is_close : close = some req) {a : Allocation}
        (test : allocTest s (s.entry h.slot) r.client = a) (refused : a ≠ .pass) :
        grantStep s = closeRefused r.client h req a (dropRequest r s) :=
      grantStep_unclosed free picked (by rw [op, is_close]) test refused
    have plain (is_close : close = none) {a : Allocation}
        (test : allocTest s (s.entry h.slot) r.client = a) (refused : a ≠ .pass) :
        grantStep s = blockRefused r.client a (dropRequest r s) :=
      grantStep_refused free picked (by rw [op, is_close]) test refused
    refine ⟨fun tag left fromPending accepted client is_close there why job => ?_,
      fun tag req client is_close hold there pins why job => ?_, fun client is_close scanning page short low => ?_,
      fun client page there taker => ?_, fun l c g d lines client why shape call inbound doc reception there not small => ?_⟩
    · have refused := allocTest_refused (s := s) (e := e) (c := r.client) (.inr client) full why.symm
      rw [exec_grant on, plain is_close rfl refused, client, upload_blockRefused (by exact job), scanRetry_eq (by exact quiet)]
      rfl
    · intro e'
      have refused := allocTest_refused (s := s) (e := e) (c := r.client) (.inr client) full why.symm
      have closed : e.closedBy { req with truncated := true } = e' := by
        rw [PageEntry.closedBy_eq, Bool.or_true]
      rw [exec_grant on, asked req is_close rfl refused, client,
        upload_closeRefused (by exact job) (by exact there) hold pins, closed, scanRetry_eq (by rw [reply_scan, raise_scan]; exact quiet)]
      rfl
    · have refused := allocTest_storeFull (s := s) (e := e) (c := r.client) (.inl client) full short low
      obtain ⟨notices, lost, raised⟩ := raise_frame .scanHeld
        (ePage h ++ e16 (dropRequest r s).freeCount ++ e16 (dropRequest r s).cfg.receptionReserve)
        { dropRequest r s with scan := { (dropRequest r s).scan with state := .held, holdTime := 0 } }
      have again : allocTest s e .scan = .storeFull := by rw [← client]; exact refused
      have row := exec_grant on
      rw [plain is_close refused nofun, client, scan_blockRefused (by exact scanning) (by exact page)] at row
      exact row.trans (congrArg Host.Outcome.next (scanRetry_stays (h := h) (by rw [raise_scan]) (by rw [raise_scan]; exact page)
        ((congrArg (fun x : State => allocTest x (x.entry h.slot) .scan) raised).trans again)))
    · intro spent closed
      refine ⟨fun limit shape => ?_, fun req ending is_close hold ended short low => ?_⟩
      · have refused := allocTest_limit (s := s) r.client full limit
        obtain ⟨notices, lost, limits⟩ := limitPage_closes (s := dropRequest r s) (by exact page) (by exact there) (by exact taker)
        have step : grantStep s = limitPage (dropRequest r s) := by
          obtain is_close | ⟨some_, ends⟩ := shape
          · rw [plain is_close refused nofun, client]
            rfl
          · obtain ⟨req, is_close⟩ := Option.isSome_iff_exists.1 some_
            obtain ⟨ending, ended⟩ := Option.isSome_iff_exists.1 ends
            rw [asked req is_close refused nofun, client]
            exact closeRefused_limit (by exact ended)
        have row := exec_grant on
        rw [step, limits, scanRetry_eq (by nofun)] at row
        refine ⟨_, row, (State.entry_setEntry_self ..).trans (pinnedBy_closed e _ _ rfl rfl), rfl, rfl,
          fun k other => State.entry_setEntry_ne _ _ other, fun p other => ?_, notices, lost, rfl⟩
        cases p <;> first | rfl | exact absurd (by decide) other
      · have refused := allocTest_storeFull (s := s) (e := e) (c := r.client) (.inl client) full short low
        have closes := finishClose_pinned (s := dropRequest r s) (c := { req with truncated := true }) (by exact there) hold
          (by exact taker)
        obtain ⟨notices, lost, raised⟩ := raise_frame .pageClosed (pageClosedFields h (e.closedBy { req with truncated := true }))
          ((dropRequest r s).pinning h e { req with truncated := true })
        have row := exec_grant on
        rw [asked req is_close refused nofun, client, closeRefused_full (ending := ending) (by exact ended), closes, raised] at row
        refine ⟨fun other => ?_, fun edge _ => ?_⟩
        · rw [if_neg other, pageDone_other other, scanRetry_eq (by nofun)] at row
          refine ⟨_, row, (State.entry_setEntry_self ..).trans (pinnedBy_closed e _ _ rfl rfl), rfl, rfl,
            fun k other => State.entry_setEntry_ne _ _ other, fun p other => ?_, notices, lost, rfl⟩
          cases p <;> first | rfl | exact absurd (by decide) other
        · subst edge
          rw [if_pos rfl, pageDone_empty (by exact none_ _), scanRetry_eq (by nofun)] at row
          refine ⟨_, row, (State.entry_setEntry_self ..).trans (pinnedBy_closed e _ _ rfl rfl), rfl, rfl, fun absent => ?_,
            fun present => absurd ((none_ s.draws).symm.trans present) nofun,
            fun k other _ => State.entry_setEntry_ne _ _ other, fun p other => ?_, notices, lost, rfl⟩
          · rw [← absent]
            rfl
          · cases p <;> first | rfl | exact absurd (by decide) other
    · have refused := allocTest_line_refused (s := s) (e := e) l full why.symm
      rw [← client] at refused
      obtain ⟨recept, notices, lost, fails, listed⟩ : ∃ recept notices lost,
          grantStep s = { (dropRequest r s).setLine l (s.line l).pageFails with
            recept, link := { s.link with notices, lost }
            store := { (dropRequest r s).store with
              dir := s.store.dir.set h.slot (e.failed lines)
              waiting := (dropRequest r s).store.waiting.filter fun q => decide (q.client ≠ .lc l) } } ∧
            PageListed g d h (decide (e.refs < 4095)) s.cfg.autoPrint s.recept recept := by
        obtain ⟨is_close, rfl⟩ | ⟨req, is_close, hold, rfl⟩ := shape
        · rw [plain is_close rfl refused, client]
          exact line_blockRefused (s := dropRequest r s) (by exact call) inbound (by exact doc) reception (by exact there)
            (by exact small) (by exact not) (by exact free)
        · rw [asked req is_close rfl refused, client]
          exact line_closeRefused (s := dropRequest r s) (by exact call) inbound (by exact doc) reception (by exact there)
            (by exact small) (by exact not) (by exact free) hold
      have row := exec_grant on
      rw [fails, scanRetry_eq (by exact quiet)] at row
      obtain ⟨state, answer, andThen, recv, counted⟩ := pageFails_line call (State.line_setLine_self (dropRequest r s) l _)
      refine ⟨_, row, State.entry_setEntry_self .., listed, state, answer, andThen, recv, counted, ?_,
        fun k other => State.entry_setEntry_ne _ _ other, fun k other => State.line_setLine_ne _ _ other, fun p other => ?_,
        notices, lost, rfl⟩
      · show (s.store.waiting.filter _).filter _ = _
        rw [← client, List.filter_filter]
        exact List.filter_congr fun q _ => Bool.and_self _
      · cases p <;> first | rfl | exact absurd (by decide) other

end Sys2Proof.Machine
end

section
/-! PROOFS. What the port's grant asks of the paper-present sensor (R38; log 19). -/

namespace Sys2Proof.Machine

/-- An empty page OPEN for the scan unit. -/
def PageEntry.scanned : PageEntry := { PageEntry.freeWith 0 with state := .opened, writer := some .scan }

/-- Its final block, waiting. -/
def scannedEnd : CloseReq := { code := 0, lineCount := 1, truncated := false, hold := .scanTarget }

/-- A part whose directory lists its cells out of order, its pool empty, a scanned page's final block waiting. -/
def strayDirectory (n : Nat) : State := { State.reset with
  store := { Store.reset with
    pool := ⟨8192, []⟩, dir := ⟨.freeWith 0, [(5, .freeWith 0), (3, .scanned)]⟩,
    waiting := [⟨.scan, 1, .write ⟨3, 0⟩ [] (some scannedEnd)⟩] }
  scan := { Scan.reset with state := .scanning, page := some ⟨3, 0⟩, ending := some .trailingEdge }
  draws := n }

/-- The page closed, its cell of before still counts as OPEN, and the job ends whatever the sensor reads. -/
theorem strayDirectory_ends (n : Nat) : (grantStep (strayDirectory n)).scan.state = .idle := by
  have grants := grantStep_unclosed (s := strayDirectory n) (r := ⟨.scan, 1, .write ⟨3, 0⟩ [] (some scannedEnd)⟩) (h := ⟨3, 0⟩)
    (data := []) (a := .storeFull) rfl rfl rfl rfl nofun
  let closed : State := finishClose false ⟨3, 0⟩ { scannedEnd with truncated := true }
    (dropRequest ⟨.scan, 1, .write ⟨3, 0⟩ [] (some scannedEnd)⟩ (strayDirectory n))
  have refused (paper : Bool) : (pageDone .trailingEdge
      { closed with scan := { closed.scan with paper }, draws := closed.draws + 1 }).scan.state = .idle := by
    cases paper <;> rfl
  have told : closeRefused .scan ⟨3, 0⟩ scannedEnd .storeFull
      (dropRequest ⟨.scan, 1, .write ⟨3, 0⟩ [] (some scannedEnd)⟩ (strayDirectory n)) =
      pageDone .trailingEdge (readPaper closed) := rfl
  exact (congrArg (fun t : State => t.scan.state) (grants.trans told)).trans (refused (Config.paperAtGrant closed.draws))

/-- O20 says of every part, one with a directory out of order too, that a sheet present at the grant has its page opened.
There the closed page's old cell still counts as OPEN for the scan unit, so O20 would make every reading of the sensor
within a grant find no sheet. -/
theorem paperAtGrant_of_portGrants (h : Obligations.PortGrantsByLevelAndRotation) (n : Nat) :
    Config.paperAtGrant n = false := by
  refine Bool.eq_false_iff.2 fun present => ?_
  obtain ⟨-, -, -, refused⟩ := h (strayDirectory n) rfl nofun
  obtain ⟨-, -, -, scan, -⟩ := refused ⟨.scan, 1, .write ⟨3, 0⟩ [] (some scannedEnd)⟩ ⟨3, 0⟩ [] (some scannedEnd) rfl rfl rfl
    (Nat.le_refl 0)
  obtain ⟨-, closing⟩ := scan rfl rfl rfl rfl
  obtain ⟨-, edge⟩ := closing scannedEnd .trailingEdge rfl rfl rfl (by decide : 0 < 2048)
    (by show 8192 - 8192 + 0 ≤ 256; decide)
  have others (k : Nat) (other : k ≠ 3) : ((strayDirectory n).entry k).writer ≠ some .scan := by
    show (cellGet (.freeWith 0) [(5, .freeWith 0), (3, PageEntry.scanned)] k).writer ≠ _
    unfold cellGet
    split
    · nofun
    · unfold cellGet
      rw [if_neg fun same => other same.symm]
      nofun
  obtain ⟨t, row, -, paper, -, -, sheet, -⟩ := edge rfl others
  obtain ⟨state, -⟩ := sheet (paper.trans present) 0 (by decide) rfl nofun
  have ends := strayDirectory_ends n
  rw [exec_grant rfl, scanRetry_eq (by rw [ends]; nofun)] at row
  cases row
  exact absurd (ends.symm.trans state) nofun

/-- What O20 says in the end. The reading is a free value (log 19), an opaque constant of the model, so neither O20 nor its
negation follows. -/
theorem portGrants_iff : Obligations.PortGrantsByLevelAndRotation ↔ ∀ n, Config.paperAtGrant n = false :=
  ⟨paperAtGrant_of_portGrants, portGrants_of_paperless⟩

end Sys2Proof.Machine
end
